-- ==== Sys2Proof/Word.lean ====
section
/-! DEFINITION. The word types of the machine and their plainest arithmetic. A type here is a bit vector only where the
manual treats the thing as bits (register contents, encoded fields, tiles, predicate lanes, accumulator groups). -/
namespace Sys2Proof

/-- One byte. -/
abbrev Byte := BitVec 8
/-- The contents of a g register, a b register, a special register or an output FIFO element (R15, R47, R94). -/
abbrev Word := BitVec 64
/-- A tile instruction word (R43) or a near-data word (R58). -/
abbrev IWord := BitVec 96
/-- A vector tile or result slot: 16 rows of 64 bytes, byte i in bits 8i to 8i + 7 (R235). -/
abbrev TileBits := BitVec 8192
/-- The 512 lanes of a predicate register (R238). -/
abbrev Lanes := BitVec 512
/-- One column group of the accumulator store: 128 rows of 16 FP32 elements (R180);
element (r, c) in bits 32 (16 r + c) to 32 (16 r + c) + 31. -/
abbrev GroupBits := BitVec 65536

/-- The low `n` bytes of a word, lowest first (R2: little-endian throughout). -/
def bytesOf (n : Nat) (v : Nat) : List Byte :=
  match n with
  | 0 => []
  | k + 1 => BitVec.ofNat 8 v :: bytesOf k (v / 256)

/-- The number that a little-endian byte string holds. -/
def natOfBytes : List Byte → Nat
  | [] => 0
  | b :: bs => b.toNat + 256 * natOfBytes bs

/-- The signed value of the low `n` bits of a natural number, `n ≥ 1`. -/
def signedOf (n v : Nat) : Int :=
  let m := v % 2 ^ n
  if m < 2 ^ (n - 1) then (m : Int) else (m : Int) - (2 ^ n : Nat)

/-- The field [hi:lo] of a natural number. -/
def bitsOf (v hi lo : Nat) : Nat := v / 2 ^ lo % 2 ^ (hi + 1 - lo)

/-- The sixty-four bit word of an integer, modulo 2^64. -/
def wordOfInt (i : Int) : Word := BitVec.ofInt 64 i

end Sys2Proof
end

