-- ==== Sys2Proof/Syntax.lean ====
section
/-! DEFINITION. The instructions and happenings of the machine: one constructor per row of spec/opcode_table.json.
Fields that the word carries stay bit vectors of their width (R43, R47, R58); alternatives are inductive types. -/
namespace Sys2Proof

/-! ### Fields that every tile word carries (R43) -/

/-- The fields of a tile word beside its opcode, operand form and operand slots (R43, R44, R45, R20). -/
structure Ctl where
  /-- Guard A predicate and its inversion (R44). -/
  ga : BitVec 6 := 0
  gan : Bool := false
  /-- Guard B predicate and its inversion (R44). -/
  gb : BitVec 6 := 0
  gbn : Bool := false
  /-- Ordering class (R45). -/
  cls : BitVec 4 := 0
  /-- Cache hint (R43). -/
  hint : BitVec 3 := 0
  /-- Token queue popped before the start, 0 for none (R20). -/
  pop : BitVec 4 := 0
  /-- Token queue pushed at completion, 0 for none (R20). -/
  push : BitVec 4 := 0
  /-- Stall count of an exposed line, or stage of a loop body (R23, R27). -/
  sched : BitVec 4 := 0
deriving DecidableEq, Repr

/-! ### Operands -/

/-- The engines that have a command queue (R51's suffix codes 1, 2, 3). -/
inductive Eng where
  | str | vec | mtx
deriving DecidableEq, Repr

/-- A source of a SEQ arithmetic instruction: a g register, a space-7 immediate, or the 20-bit immediate of FMT 1 (R97). -/
inductive GSrc where
  | reg (g : BitVec 5)
  | imm7 (i : BitVec 7)
  | imm20 (i : BitVec 20)
deriving DecidableEq, Repr

/-- A g register or a space-7 immediate, where an entry allows both and no wider immediate. -/
inductive GOrImm where
  | reg (g : BitVec 5)
  | imm7 (i : BitVec 7)
deriving DecidableEq, Repr

/-- A g register or a b register, the source of `mov` (R100). -/
inductive GOrB where
  | g (r : BitVec 5)
  | b (r : BitVec 2)
deriving DecidableEq, Repr

/-- The immediate of `ldi` in one of its three widths (R100). -/
inductive LdiImm where
  | imm20 (i : BitVec 20)
  | imm30 (i : BitVec 30)
  | imm40 (i : BitVec 40)
deriving DecidableEq, Repr

/-- The address forms of `ld` and `st` (R110). -/
inductive Addr where
  | imm7 (b : BitVec 5) (i : BitVec 7)
  | idx (b c : BitVec 5)
  | imm20 (b : BitVec 5) (i : BitVec 20)
deriving DecidableEq, Repr

/-- Access widths 8, 16, 32 and 64 (the suffix w of R51). -/
inductive Width where
  | w8 | w16 | w32 | w64
deriving DecidableEq, Repr

/-- The compare codes of SEQ `cmp` (R51, R101). -/
inductive SeqCc where
  | eq | ne | lt | ge | le | gt | ltu | geu | leu | gtu
deriving DecidableEq, Repr

/-- The compare codes of `vcmp` and of the near-data `cmp` (R53, R339). -/
inductive VecCc where
  | eq | ne | lt | le | gt | ge
deriving DecidableEq, Repr

/-- The element types of VEC (R53). -/
inductive VType where
  | f32 | bf16 | f16 | i32 | i16 | i8 | u8
deriving DecidableEq, Repr

/-- The element widths of the untyped movements (the suffix x of R53). -/
inductive XWidth where
  | b32 | b16 | b8
deriving DecidableEq, Repr

/-- The formats `vcvt` names (R54). -/
inductive CvtFmt where
  | f32 | bf16 | f16 | e4m3 | e5m2 | i32 | i16 | i8 | u8 | b16m7 | b16m4 | b16m2
deriving DecidableEq, Repr

/-- The rounding modes (R54, R210). -/
inductive Rnd where
  | rne | rtz | rdn | rup
deriving DecidableEq, Repr

/-- The operand formats of MTX (R55). -/
inductive MFmt where
  | bf16 | f16 | e4m3 | e5m2 | i8 | b16m7 | b16m4 | b16m2 | twB16m4 | i4
deriving DecidableEq, Repr

/-- A source of a VEC instruction (R239). -/
inductive VSrc where
  | v (r : BitVec 3)
  | t (age : BitVec 4)
  | s (r : BitVec 4)
  | k (r : BitVec 2)
  | imm (i : BitVec 7)
deriving DecidableEq, Repr

/-- A tile destination of a VEC instruction: a named tile or t0 (R11, R247). -/
inductive VDest where
  | v (r : BitVec 3)
  | t0
deriving DecidableEq, Repr

/-- A tile source read by `vext` and `vst`: a named tile or a result slot. -/
inductive VReg where
  | v (r : BitVec 3)
  | t (age : BitVec 4)
deriving DecidableEq, Repr

/-- A k register or a space-7 immediate (R166, R247). -/
inductive KOrImm where
  | k (r : BitVec 2)
  | imm (i : BitVec 7)
deriving DecidableEq, Repr

/-- The B operand of an MTX product: a stream or the stationary panel (R186, R200). -/
inductive BSrc where
  | s (r : BitVec 4)
  | panel
deriving DecidableEq, Repr

/-- A shuttle's place in the module: physical tile and slot (R15). -/
structure Place where
  tile : Nat
  slot : Nat
deriving DecidableEq, Repr

/-- An engine's agent or the sequencer's, at a place. -/
inductive Who where
  | seq
  | eng (e : Eng)
deriving DecidableEq, Repr

/-- What a host or peer access to device memory asks (R302, R228). -/
inductive HostOp where
  | read (len : Nat)
  | write (bytes : List Byte)
deriving DecidableEq, Repr

/-- The kinds of unit that carry an error counter (R361). -/
inductive ErrUnit where
  | hbmBank (bank : Nat)
  | nandBlock (block : Nat)
  | linkLane (port lane : Nat)
deriving DecidableEq, Repr

/-- How a NAND frame read fares (R360): the state of the medium, an input. -/
inductive NandOutcome where
  | hard | soft | rebuilt | lost
deriving DecidableEq, Repr

/-- The registers a host writes that have no behaviour of their own (R410). -/
inductive ModReg where
  | mgmtfq | reqbase | reqtail
  | apwin (fn : Nat)
deriving DecidableEq, Repr

/-! ### The instructions, one constructor per row of spec/opcode_table.json -/

/-- The instructions of the four tile engines, the near-data slot operations and the happenings. -/
inductive Instr where
  -- SEQ: control (R106 to R109)
  | nop (c : Ctl)
  | trap (c : Ctl) (n : BitVec 7)
  | safept (c : Ctl)
  | climbpt (c : Ctl) (id : BitVec 20)
  | exit (c : Ctl)
  -- SEQ: integer arithmetic (R97 to R100)
  | add (c : Ctl) (a b : BitVec 5) (x : GSrc)
  | sub (c : Ctl) (a b : BitVec 5) (x : GSrc)
  | mul (c : Ctl) (a b : BitVec 5) (x : GSrc)
  | mulh (c : Ctl) (a b : BitVec 5) (x : GSrc)
  | div (c : Ctl) (a b : BitVec 5) (x : GSrc)
  | divu (c : Ctl) (a b : BitVec 5) (x : GSrc)
  | rem (c : Ctl) (a b : BitVec 5) (x : GSrc)
  | remu (c : Ctl) (a b : BitVec 5) (x : GSrc)
  | and (c : Ctl) (a b : BitVec 5) (x : GSrc)
  | or (c : Ctl) (a b : BitVec 5) (x : GSrc)
  | xor (c : Ctl) (a b : BitVec 5) (x : GSrc)
  | andn (c : Ctl) (a b : BitVec 5) (x : GSrc)
  | shl (c : Ctl) (a b : BitVec 5) (x : GSrc)
  | shr (c : Ctl) (a b : BitVec 5) (x : GSrc)
  | sra (c : Ctl) (a b : BitVec 5) (x : GSrc)
  | rotl (c : Ctl) (a b : BitVec 5) (x : GSrc)
  | min (c : Ctl) (a b : BitVec 5) (x : GSrc)
  | max (c : Ctl) (a b : BitVec 5) (x : GSrc)
  | minu (c : Ctl) (a b : BitVec 5) (x : GSrc)
  | maxu (c : Ctl) (a b : BitVec 5) (x : GSrc)
  | clz (c : Ctl) (a b : BitVec 5)
  | popc (c : Ctl) (a b : BitVec 5)
  | extZ (c : Ctl) (a b : BitVec 5) (n : BitVec 7)
  | extS (c : Ctl) (a b : BitVec 5) (n : BitVec 7)
  | ldi (c : Ctl) (a : BitVec 5) (i : LdiImm)
  | mov (c : Ctl) (a : BitVec 5) (x : GOrB)
  -- SEQ: compares and predicates (R101, R102)
  | cmp (c : Ctl) (cc : SeqCc) (p : BitVec 6) (b : BitVec 5) (x : GSrc)
  | pand (c : Ctl) (a b p : BitVec 6)
  | por (c : Ctl) (a b p : BitVec 6)
  | pxor (c : Ctl) (a b p : BitVec 6)
  | pnot (c : Ctl) (a b : BitVec 6)
  | pmov (c : Ctl) (a b : BitVec 6)
  -- SEQ: branches (R103 to R105)
  | ptgLabel (c : Ctl) (b : BitVec 2) (addr : BitVec 30)
  | ptgReg (c : Ctl) (b : BitVec 2) (g : BitVec 5)
  | br (c : Ctl) (b : BitVec 2) (p : BitVec 6) (d : BitVec 7)
  | brl (c : Ctl) (b : BitVec 2) (p : BitVec 6) (d : BitVec 7)
  -- SEQ: memory (R110 to R122)
  | ld (c : Ctl) (w : Width) (a : BitVec 5) (addr : Addr)
  | st (c : Ctl) (w : Width) (a : BitVec 5) (addr : Addr)
  | cas (c : Ctl) (w : Width) (a b x y : BitVec 5) (scope : BitVec 7)
  | amoAdd (c : Ctl) (w : Width) (a b x : BitVec 5) (scope : BitVec 7)
  | amoAnd (c : Ctl) (w : Width) (a b x : BitVec 5) (scope : BitVec 7)
  | amoOr (c : Ctl) (w : Width) (a b x : BitVec 5) (scope : BitVec 7)
  | amoXor (c : Ctl) (w : Width) (a b x : BitVec 5) (scope : BitVec 7)
  | amoMin (c : Ctl) (w : Width) (a b x : BitVec 5) (scope : BitVec 7)
  | amoMax (c : Ctl) (w : Width) (a b x : BitVec 5) (scope : BitVec 7)
  | amoMinu (c : Ctl) (w : Width) (a b x : BitVec 5) (scope : BitVec 7)
  | amoMaxu (c : Ctl) (w : Width) (a b x : BitVec 5) (scope : BitVec 7)
  | amoSwap (c : Ctl) (w : Width) (a b x : BitVec 5) (scope : BitVec 7)
  | amoFaddF32 (c : Ctl) (a b x : BitVec 5) (scope : BitVec 7)
  | fence (c : Ctl) (order : BitVec 7) (scope : BitVec 7) (mask : BitVec 20)
  | barInit (c : Ctl) (a : BitVec 5) (x : GOrImm) (scope : BitVec 7)
  | barArrive (c : Ctl) (a b x : BitVec 5) (scope : BitVec 7)
  | barWait (c : Ctl) (a b : BitVec 5) (scope : BitVec 7)
  | barWaitReturn (q : Place)
  -- SEQ: copy tags (R124, R125)
  | waitany (c : Ctl) (a : BitVec 5) (m : GOrImm)
  | waitall (c : Ctl) (m : GOrImm)
  | tagWaitReturn (q : Place)
  | ffready (c : Ctl) (a : BitVec 5) (m : GOrImm)
  | tagclr (c : Ctl) (m : GOrImm)
  -- SEQ: feeding the engines (R126 to R130)
  | run (c : Ctl) (e : Eng) (n : BitVec 7) (g : BitVec 5) (head : BitVec 30)
  | runLoop (c : Ctl) (e : Eng) (n : BitVec 7) (g : BitVec 5) (head : BitVec 20) (x : BitVec 7)
  | commandQueueRoom (q : Place)
  | popEng (c : Ctl) (e : Eng) (a : BitVec 5)
  | popP (c : Ctl) (p : BitVec 6)
  | fifoElementArrival (q : Place)
  | tokPush (c : Ctl) (q : BitVec 7) (n : BitVec 7)
  | tokPop (c : Ctl) (q : BitVec 7) (n : BitVec 7)
  | tokenAvailable (q : Place) (w : Who)
  -- SEQ: work and system (R131 to R140)
  | spawn (c : Ctl) (a b : BitVec 5)
  | kick (c : Ctl) (a b : BitVec 5)
  | getsr (c : Ctl) (a : BitVec 5) (sr : BitVec 7) (tag : Option (BitVec 5))
  | setsr (c : Ctl) (sr : BitVec 7) (x : GOrImm)
  | tstamp (c : Ctl) (a : BitVec 5)
  | ovfLoad (c : Ctl) (a : BitVec 5)
  | cardLoad (c : Ctl) (a b : BitVec 5)
  | objsync (c : Ctl)
  | xlinv (c : Ctl) (a : BitVec 5) (m : BitVec 7)
  | sysret (c : Ctl)
  | ctxFence (c : Ctl)
  -- happenings inside the engines (R8, R24, R71, R91, R242)
  | entryStart (q : Place) (e : Eng)
  | resultLands (q : Place) (w : Who)
  | modeCrossingDeadlock (q : Place)
  | entryWatchdog (q : Place) (e : Eng)
  -- STR (R166 to R176)
  | sbind (c : Ctl) (s : BitVec 4) (d : BitVec 7) (kc kd : Option (BitVec 2))
  | sbindTw (c : Ctl) (s : BitVec 4) (d : BitVec 7) (kc kd : Option (BitVec 2))
  | sbindB16 (c : Ctl) (s : BitVec 4) (d : BitVec 7) (kc kd : Option (BitVec 2))
  | sunbind (c : Ctl) (s : BitVec 4) (tag : BitVec 7)
  | sseek (c : Ctl) (s : BitVec 4) (x : KOrImm)
  | scopy (c : Ctl) (tag : BitVec 7) (kd ks : BitVec 2) (n : KOrImm)
  | scopy2d (c : Ctl) (tag : BitVec 7) (kd ks kg kh : BitVec 2)
  | sfill (c : Ctl) (tag : BitVec 7) (kd : BitVec 2) (n : KOrImm) (kv : BitVec 2)
  | sgather (c : Ctl) (tag : BitVec 7) (kd ks ki kg : BitVec 2)
  | sscatter (c : Ctl) (tag : BitVec 7) (kd ks ki kg : BitVec 2)
  | sprefetch (c : Ctl) (k : BitVec 2) (n : KOrImm)
  | spromote (c : Ctl) (tag : BitVec 7) (kt kc : BitVec 2)
  | spin (c : Ctl) (k : BitVec 2) (n : KOrImm)
  | sunpin (c : Ctl) (k : BitVec 2) (n : KOrImm)
  | stwenc (c : Ctl) (tag : BitVec 7) (kd ks kp kq : BitVec 2)
  | sscale (c : Ctl) (k : BitVec 2) (n : KOrImm)
  | slzput (c : Ctl) (tag : BitVec 7) (kl ks : BitVec 2) (n : KOrImm) (kc : BitVec 2)
  | sresume (c : Ctl) (k : BitVec 2)
  -- happenings of streams and copies (R154, R156, R157, R12, R366, R162, R233, R306)
  | streamFetch (q : Place) (s : BitVec 4)
  | streamBlockFetched (q : Place) (s : BitVec 4)
  | outputBlockWrite (q : Place) (s : BitVec 4)
  | outputWritePerformed (q : Place) (s : BitVec 4)
  | copySectorIssue (q : Place) (tag : BitVec 6)
  | copySectorDone (q : Place) (tag : BitVec 6) (i : Nat)
  | stwencEncodeDone (q : Place) (tag : BitVec 6)
  | promotionComplete (i : Nat)
  -- MTX (R189 to R201)
  | mma (c : Ctl) (f : MFmt) (m n : BitVec 2) (a : BitVec 4) (sa : BitVec 4) (sb : BSrc) (d : BitVec 7)
  | mmaCoop (c : Ctl) (f : MFmt) (m : BitVec 2) (n : BitVec 1) (sa : BitVec 4) (sb : BSrc) (d : BitVec 7) (q : KOrImm)
  | coopMatch (q : Place)
  | coopPartnerTimeout (q : Place)
  | mmaReed (c : Ctl) (f : MFmt) (m : BitVec 2) (sa : BitVec 4) (sb : BSrc) (d : BitVec 7)
  | accZero (c : Ctl) (a : BitVec 4) (n m : BitVec 7)
  | accScale (c : Ctl) (a : BitVec 4) (n b r : BitVec 7) (k : BitVec 2)
  | accRd (c : Ctl) (v : BitVec 3) (a : BitVec 4) (b : BitVec 7)
  | accWr (c : Ctl) (a : BitVec 4) (v : BitVec 3) (b : BitVec 7)
  | accFlush (c : Ctl) (b r : BitVec 7)
  | mpre (c : Ctl) (s : BitVec 4) (f nc : BitVec 7)
  | msync (c : Ctl)
  -- VEC: floating element-wise (R248)
  | vadd (c : Ctl) (t : VType) (a : VDest) (b x : VSrc)
  | vsub (c : Ctl) (t : VType) (a : VDest) (b x : VSrc)
  | vmul (c : Ctl) (t : VType) (a : VDest) (b x : VSrc)
  | vfma (c : Ctl) (t : VType) (a : VDest) (b x y : VSrc)
  | vfms (c : Ctl) (t : VType) (a : VDest) (b x y : VSrc)
  | vnfma (c : Ctl) (t : VType) (a : VDest) (b x y : VSrc)
  | vmin (c : Ctl) (t : VType) (a : VDest) (b x : VSrc)
  | vmax (c : Ctl) (t : VType) (a : VDest) (b x : VSrc)
  | vabs (c : Ctl) (t : VType) (a : VDest) (b : VSrc)
  | vneg (c : Ctl) (t : VType) (a : VDest) (b : VSrc)
  | vcopysign (c : Ctl) (t : VType) (a : VDest) (b x : VSrc)
  -- VEC: integer element-wise (R249)
  | viadd (c : Ctl) (t : VType) (a : VDest) (b x : VSrc)
  | visub (c : Ctl) (t : VType) (a : VDest) (b x : VSrc)
  | vimul (c : Ctl) (t : VType) (a : VDest) (b x : VSrc)
  | vand (c : Ctl) (t : VType) (a : VDest) (b x : VSrc)
  | vor (c : Ctl) (t : VType) (a : VDest) (b x : VSrc)
  | vxor (c : Ctl) (t : VType) (a : VDest) (b x : VSrc)
  | vshl (c : Ctl) (t : VType) (a : VDest) (b x : VSrc)
  | vshr (c : Ctl) (t : VType) (a : VDest) (b x : VSrc)
  | vsra (c : Ctl) (t : VType) (a : VDest) (b x : VSrc)
  | vimin (c : Ctl) (t : VType) (a : VDest) (b x : VSrc)
  | vimax (c : Ctl) (t : VType) (a : VDest) (b x : VSrc)
  -- VEC: compare, select, special functions, reductions, conversion (R250 to R256)
  | vcmp (c : Ctl) (cc : VecCc) (t : VType) (p : BitVec 6) (b x : VSrc)
  | vsel (c : Ctl) (t : VType) (a : VDest) (p : BitVec 6) (x y : VSrc)
  | vexp2 (c : Ctl) (t : VType) (a : VDest) (b : VSrc)
  | vexp (c : Ctl) (t : VType) (a : VDest) (b : VSrc)
  | vlog2 (c : Ctl) (t : VType) (a : VDest) (b : VSrc)
  | vrcp (c : Ctl) (t : VType) (a : VDest) (b : VSrc)
  | vrsqrt (c : Ctl) (t : VType) (a : VDest) (b : VSrc)
  | vsqrt (c : Ctl) (t : VType) (a : VDest) (b : VSrc)
  | vtanh (c : Ctl) (t : VType) (a : VDest) (b : VSrc)
  | vredSumRow (c : Ctl) (t : VType) (a : VDest) (b : VSrc)
  | vredSumCol (c : Ctl) (t : VType) (a : VDest) (b : VSrc)
  | vredMaxRow (c : Ctl) (t : VType) (a : VDest) (b : VSrc)
  | vredMaxCol (c : Ctl) (t : VType) (a : VDest) (b : VSrc)
  | vredMaxsumRow (c : Ctl) (t : VType) (a b : BitVec 3) (x y : VSrc)
  | vredMaxsumCol (c : Ctl) (t : VType) (a b : BitVec 3) (x y : VSrc)
  | vcvt (c : Ctl) (src dst : CvtFmt) (rnd : Rnd) (a : VDest) (b : VSrc)
  -- VEC: movement and state (R257, R258, R247)
  | vmov (c : Ctl) (a : VDest) (b : VSrc)
  | vld (c : Ctl) (a : VDest) (s : BitVec 4)
  | vst (c : Ctl) (s : BitVec 4) (b : VReg)
  | vshapeImm (c : Ctl) (imm : BitVec 20)
  | vshapeK (c : Ctl) (k : BitVec 2)
  | vbcast (c : Ctl) (x : XWidth) (a : VDest) (b : VSrc) (m : BitVec 7)
  | vtrn (c : Ctl) (x : XWidth) (a : VDest) (b : VSrc)
  | vperm (c : Ctl) (x : XWidth) (a : VDest) (b y : VSrc)
  -- VEC: predicates, votes, extraction (R259 to R261)
  | vpand (c : Ctl) (a b p : BitVec 6)
  | vpor (c : Ctl) (a b p : BitVec 6)
  | vpxor (c : Ctl) (a b p : BitVec 6)
  | vpnot (c : Ctl) (a b : BitVec 6)
  | vpcount (c : Ctl) (a : BitVec 6)
  | voteAny (c : Ctl) (a : BitVec 6)
  | voteAll (c : Ctl) (a : BitVec 6)
  | vext (c : Ctl) (a : VReg) (r x : KOrImm)
  -- the rewrite stage (R266 to R281)
  | rewriteGroupIssue (q : Place) (e : Eng)
  -- near-data fetch slot (R338)
  | fnop
  | fld (x y : BitVec 8)
  | fldp (x y : BitVec 8)
  | fnext (y : BitVec 8)
  | frec (x y : BitVec 8)
  -- near-data arithmetic slot (R339 to R341)
  | ndNop
  | ndMov (x y : BitVec 8)
  | imm (x y z : BitVec 8)
  | abs (x y : BitVec 8)
  | neg (x y : BitVec 8)
  | ndAdd (x y z : BitVec 8)
  | ndSub (x y z : BitVec 8)
  | ndMul (x y z : BitVec 8)
  | fma (x y z : BitVec 8)
  | ndMax (x y z : BitVec 8)
  | ndMin (x y z : BitVec 8)
  | ndCmp (cc : VecCc) (x : BitVec 5) (y z : BitVec 8)
  | sel (x y z : BitVec 8)
  | cvt (x y : BitVec 8) (m : BitVec 2) (k : BitVec 4)
  | iadd (x y z : BitVec 8)
  | exp2 (x y : BitVec 8)
  | rcp (x y : BitVec 8)
  | dot (x y z : BitVec 8)
  | twd (x y z : BitVec 8)
  | b16x (x y z : BitVec 8)
  | reed (x : BitVec 8)
  | rflush (x y : BitVec 8)
  -- near-data write-back slot (R342)
  | wnop
  | wst (x y : BitVec 8)
  | wacc (x y z : BitVec 8)
  | wmb (x y : BitVec 8)
  | wrec (x y : BitVec 8)
  -- happenings of the near-data units, landing zones and fabric (R337, R344, R347, R349, R352, R353)
  | kickBodyStart (u : Nat)
  | climbCheck (u : Nat)
  | bodyComplete (u : Nat)
  | zoneContribution (i : Nat)
  | remoteStoreArrival (i : Nat)
  | remoteStoreAck (i : Nat)
  | releaseFlagSend (i : Nat)
  | releaseFlagApply (i : Nat)
  | linkFailure (port : Nat)
  -- happenings of the tier manager (R322, R319, R320, R326)
  | scheduleEntryDue (launch : Nat)
  | handoverAccept (u : Nat)
  | handoverAcceptTimeout (u : Nat)
  | repairObserved (tenant tmap pick : Nat)
  -- happenings of the loom scheduler (R387 to R408)
  | doorbellWrite (fn q : Nat) (v : Word)
  | launchAdmit (fn q : Nat)
  | taskAdmit (tenant band : Nat)
  | dependenceRecheck (fn q : Nat)
  | headAging (fn q : Nat)
  | teamPlace
  | rtPreempt
  | completionIncrement (launch : Nat)
  | preemptRequest (gang : Nat)
  | gangDrainSave (gang : Nat)
  | gangResume (gang : Nat)
  | gangStop (gang : Nat)
  | pairedCompare (q : Place)
  -- happenings of faults, host and link (R375, R365, R412, R229, R302, R410)
  | faultQueueRoom (fn : Nat)
  | prgResponse (fn idx : Nat) (ok : Bool)
  | atsTranslationComplete (q : Place) (tag : BitVec 6)
  | atsInvalidation (fn : Nat) (page : Nat)
  | apertureRead (fn : Nat) (off : Nat) (len : Nat)
  | apertureWrite (fn : Nat) (off : Nat)
  | hostBarAccess (fn : Nat) (va : Nat) (op : HostOp)
  | acceptWrite (v : Word)
  | registerWrite (r : ModReg) (v : Word)
  -- management requests (R411)
  | loadMicrocodeSlot
  | freeMicrocodeSlot
  | assignSealTiles
  | armNextGeneration
  | readQuotaRecord
  | writeQuotaRecord
  | setQueue
  | setAgingThresholds
  | preemptGang
  | stopGang
  | resumeStoppedGang
  | endLaunch
  | copyStockDeck
  | writeFabricWindow
  | attestationReport
  -- happenings of the memory and storage below L2 (R356 to R362, R379, R380, R291)
  | mscFill (tile : Nat)
  | mscEvict (tile : Nat)
  | sealRetry (tile : Nat)
  | resealSweepStep (tenant region tile : Nat)
  | refreshPayback (pc bank : Nat)
  | forcedAllBankRefresh (pc : Nat)
  | alertBackoff (pc bank : Nat) (commands : Nat)
  | nandFrameRead (frame : Nat) (o : NandOutcome)
  | errorEvent (u : ErrUnit)
  | laneRetrainDone (port : Nat)
  | l1Evict (tile : Nat) (line : Nat)
  -- power (R414 to R416)
  | droopAlarm (band : Nat)
  | droopResponseEnd (band : Nat)
  | thermalThrottle
  | powerOn
  | seqAccessPerformed (q : Place) (i : Nat)
  | l2Writeback (line : Nat)
  | perBankRefreshDue (pc bank : Nat)
  | releaseFlagAck (i : Nat)
  | linkRecovery (port : Nat)
  | tdispStateChange (fn : Nat) (run : Bool)
  | thermalThrottleEnd
deriving DecidableEq, Repr

end Sys2Proof
end

