-- ==== Sys2Proof/Decode.lean ====
section
/-! DEFINITION. The decoder, total on every word, which refuses by name in the order of R48, and the encoder written from the
same tables (R43, R46, R47, R50 to R60). Privilege (check 2 of R48) and feature gates (R57) depend on the state and stand with the step. -/
namespace Sys2Proof

/-- Why a word is refused; each is ILLEGAL by R48, and the constructor names the check. -/
inductive DecodeError where
  /-- Check 1: the opcode lies outside the executing engine's range (R50). -/
  | range
  /-- Check 3: the opcode is unassigned (R51 to R56). -/
  | unassigned
  /-- Check 4: the operand form is not accepted (R46). -/
  | form
  /-- Check 5: a guard breaks R44. -/
  | guard
  /-- Check 6: CLS is nonzero where the instruction does not use it (R45). -/
  | cls
  /-- Check 7: POP or PUSH breaks R20. -/
  | tokens
  /-- Check 8: an operand slot or an operand's limits (R47). -/
  | operand
  /-- A near-data slot word with an unassigned SOP, an operand out of range or a nonzero unused field (R58 to R60, R337). -/
  | slot
deriving DecidableEq, Repr

/-- The engine whose range holds an opcode (R50). -/
inductive Unit4 where
  | seq | str | vec | mtx
deriving DecidableEq, Repr

/-- The fields of a tile word (R43). -/
structure Raw where
  op : BitVec 10 := 0
  ga : BitVec 6 := 0
  gan : Bool := false
  gb : BitVec 6 := 0
  gbn : Bool := false
  cls : BitVec 4 := 0
  hint : BitVec 3 := 0
  pop : BitVec 4 := 0
  push : BitVec 4 := 0
  sched : BitVec 4 := 0
  fmt : BitVec 3 := 0
  a : BitVec 10 := 0
  b : BitVec 10 := 0
  c : BitVec 10 := 0
  d : BitVec 10 := 0
  e : BitVec 10 := 0
deriving DecidableEq, Repr

/-- One bit as a Bool. -/
def flagOf (b : BitVec 1) : Bool := b = 1
/-- A Bool as one bit. -/
def bitOf (b : Bool) : BitVec 1 := if b then 1 else 0

/-- The fields of a 96-bit word (R43). -/
def unpack (w : IWord) : Raw :=
  { op := w.extractLsb' 86 10, ga := w.extractLsb' 80 6, gan := flagOf (w.extractLsb' 79 1),
    gb := w.extractLsb' 73 6, gbn := flagOf (w.extractLsb' 72 1), cls := w.extractLsb' 68 4,
    hint := w.extractLsb' 65 3, pop := w.extractLsb' 61 4, push := w.extractLsb' 57 4,
    sched := w.extractLsb' 53 4, fmt := w.extractLsb' 50 3, a := w.extractLsb' 40 10,
    b := w.extractLsb' 30 10, c := w.extractLsb' 20 10, d := w.extractLsb' 10 10, e := w.extractLsb' 0 10 }

/-- The 96-bit word of the fields (R43). -/
def pack (r : Raw) : IWord :=
  r.op ++ r.ga ++ bitOf r.gan ++ r.gb ++ bitOf r.gbn ++ r.cls ++ r.hint ++ r.pop ++ r.push ++ r.sched ++ r.fmt
    ++ r.a ++ r.b ++ r.c ++ r.d ++ r.e

/-- The engine of an opcode (R50). -/
def unitOf (op : BitVec 10) : Unit4 :=
  if op.toNat < 0x100 then .seq else if op.toNat < 0x140 then .str else if op.toNat < 0x2C0 then .vec else .mtx

/-- The privileged opcodes (R50). -/
def privOp (op : BitVec 10) : Bool := decide (0xC0 ≤ op.toNat ∧ op.toNat ≤ 0xFF) || decide (op.toNat = 0x13E)

/-! ### Operand slots (R47) -/

namespace Slot

/-- Space of a slot. -/
def space (s : BitVec 10) : BitVec 3 := s.extractLsb' 7 3

/-- An unused slot holds 0x000. -/
def unused (s : BitVec 10) : Option Unit := if s = 0 then some () else none

/-- Space 0: g register. -/
def g (s : BitVec 10) : Option (BitVec 5) := if s.extractLsb' 5 5 = 0 then some (s.extractLsb' 0 5) else none
/-- Encode a g register. -/
def ofG (r : BitVec 5) : BitVec 10 := r.setWidth 10

/-- Space 1: predicate. -/
def p (s : BitVec 10) : Option (BitVec 6) := if s.extractLsb' 6 4 = 2 then some (s.extractLsb' 0 6) else none
/-- Encode a predicate. -/
def ofP (r : BitVec 6) : BitVec 10 := (2 : BitVec 4) ++ r

/-- Space 2, named tile. -/
def v (s : BitVec 10) : Option (BitVec 3) := if s.extractLsb' 3 7 = 0x20 then some (s.extractLsb' 0 3) else none
/-- Encode a named tile. -/
def ofV (r : BitVec 3) : BitVec 10 := (0x20 : BitVec 7) ++ r

/-- Space 2, result slot by age. -/
def t (s : BitVec 10) : Option (BitVec 4) := if s.extractLsb' 4 6 = 0x14 then some (s.extractLsb' 0 4) else none
/-- Encode a result slot. -/
def ofT (r : BitVec 4) : BitVec 10 := (0x14 : BitVec 6) ++ r

/-- Space 3: stream. -/
def s (s : BitVec 10) : Option (BitVec 4) := if s.extractLsb' 4 6 = 0x18 then some (s.extractLsb' 0 4) else none
/-- Encode a stream. -/
def ofS (r : BitVec 4) : BitVec 10 := (0x18 : BitVec 6) ++ r

/-- Space 4: accumulator column base, as its column group. -/
def acc (s : BitVec 10) : Option (BitVec 4) := if s.extractLsb' 4 6 = 0x20 then some (s.extractLsb' 0 4) else none
/-- Encode an accumulator column base. -/
def ofAcc (r : BitVec 4) : BitVec 10 := (0x20 : BitVec 6) ++ r

/-- Space 5, bit 6 clear: k register. -/
def k (s : BitVec 10) : Option (BitVec 2) := if s.extractLsb' 2 8 = 0xA0 then some (s.extractLsb' 0 2) else none
/-- Encode a k register. -/
def ofK (r : BitVec 2) : BitVec 10 := (0xA0 : BitVec 8) ++ r

/-- Space 5, bit 6 set: b register. -/
def b (s : BitVec 10) : Option (BitVec 2) := if s.extractLsb' 2 8 = 0xB0 then some (s.extractLsb' 0 2) else none
/-- Encode a b register. -/
def ofB (r : BitVec 2) : BitVec 10 := (0xB0 : BitVec 8) ++ r

/-- Space 6: special register. -/
def sr (s : BitVec 10) : Option (BitVec 7) := if s.extractLsb' 7 3 = 6 then some (s.extractLsb' 0 7) else none
/-- Encode a special register. -/
def ofSr (r : BitVec 7) : BitVec 10 := (6 : BitVec 3) ++ r

/-- Space 7: immediate. -/
def i (s : BitVec 10) : Option (BitVec 7) := if s.extractLsb' 7 3 = 7 then some (s.extractLsb' 0 7) else none
/-- Encode an immediate. -/
def ofI (r : BitVec 7) : BitVec 10 := (7 : BitVec 3) ++ r

/-- A space-7 immediate whose signed value lies in a range. -/
def iIn (lo hi : Int) (s : BitVec 10) : Option (BitVec 7) :=
  match i s with
  | some x => if lo ≤ x.toInt ∧ x.toInt ≤ hi then some x else none
  | none => none

/-- A predicate in a range of numbers. -/
def pIn (lo hi : Nat) (s : BitVec 10) : Option (BitVec 6) :=
  match p s with
  | some x => if lo ≤ x.toNat ∧ x.toNat ≤ hi then some x else none
  | none => none

/-- A g register or an immediate. -/
def gOrImm (s : BitVec 10) : Option GOrImm :=
  match g s with
  | some r => some (.reg r)
  | none => (i s).map .imm7
/-- Encode a g register or an immediate. -/
def ofGOrImm : GOrImm → BitVec 10
  | .reg r => ofG r | .imm7 x => ofI x

/-- A g register or a b register. -/
def gOrB (s : BitVec 10) : Option GOrB :=
  match g s with
  | some r => some (.g r)
  | none => (b s).map .b
/-- Encode a g register or a b register. -/
def ofGOrB : GOrB → BitVec 10
  | .g r => ofG r | .b r => ofB r

/-- A k register or an immediate from 0 to `hi`. -/
def kOrImm (hi : Int) (s : BitVec 10) : Option KOrImm :=
  match k s with
  | some r => some (.k r)
  | none => (iIn 0 hi s).map .imm
/-- Encode a k register or an immediate. -/
def ofKOrImm : KOrImm → BitVec 10
  | .k r => ofK r | .imm x => ofI x

/-- An optional k register: the immediate 0 is absent (R65, R167). -/
def optK (s : BitVec 10) : Option (Option (BitVec 2)) :=
  match k s with
  | some r => some (some r)
  | none => if s = 0x380 then some none else none
/-- Encode an optional k register. -/
def ofOptK : Option (BitVec 2) → BitVec 10
  | some r => ofK r | none => 0x380

/-- A tile source: v, t or s (R247). -/
def tileSrc (x : BitVec 10) : Option VSrc :=
  match v x, t x, s x with
  | some r, _, _ => some (.v r)
  | none, some r, _ => some (.t r)
  | none, none, some r => some (.s r)
  | none, none, none => none

/-- A tile source or a k register. -/
def tileOrK (x : BitVec 10) : Option VSrc :=
  match tileSrc x with
  | some r => some r
  | none => (k x).map .k

/-- Any VEC source of R239. -/
def src (x : BitVec 10) : Option VSrc :=
  match tileOrK x with
  | some r => some r
  | none => (i x).map .imm

/-- Encode a VEC source. -/
def ofSrc : VSrc → BitVec 10
  | .v r => ofV r | .t r => ofT r | .s r => ofS r | .k r => ofK r | .imm x => ofI x

/-- A tile destination: v or t0 (R247). -/
def dest (x : BitVec 10) : Option VDest :=
  match v x with
  | some r => some (.v r)
  | none => if x = 0x140 then some .t0 else none
/-- Encode a tile destination. -/
def ofDest : VDest → BitVec 10
  | .v r => ofV r | .t0 => 0x140

/-- A named tile or a result slot, as a source. -/
def vreg (x : BitVec 10) : Option VReg :=
  match v x with
  | some r => some (.v r)
  | none => (t x).map .t
/-- Encode a named tile or a result slot. -/
def ofVReg : VReg → BitVec 10
  | .v r => ofV r | .t r => ofT r

/-- The B operand of a product: a stream or the immediate −1 (R186). -/
def bSrc (x : BitVec 10) : Option BSrc :=
  match s x with
  | some r => some (.s r)
  | none => if x = 0x3FF then some .panel else none
/-- Encode the B operand of a product. -/
def ofBSrc : BSrc → BitVec 10
  | .s r => ofS r | .panel => 0x3FF

end Slot

/-! ### Suffix codes (R51, R53, R54, R55) -/

/-- The width code w. -/
def Width.code : Width → Nat
  | .w8 => 0 | .w16 => 1 | .w32 => 2 | .w64 => 3
/-- The width of a code. -/
def Width.ofCode (n : Nat) : Width :=
  match n with
  | 0 => .w8 | 1 => .w16 | 2 => .w32 | _ => .w64
/-- Bytes of a width. -/
def Width.bytes : Width → Nat
  | .w8 => 1 | .w16 => 2 | .w32 => 4 | .w64 => 8

/-- The compare code cc of SEQ. -/
def SeqCc.code : SeqCc → Nat
  | .eq => 0 | .ne => 1 | .lt => 2 | .ge => 3 | .le => 4 | .gt => 5 | .ltu => 6 | .geu => 7 | .leu => 8 | .gtu => 9
/-- The compare of a code. -/
def SeqCc.ofCode (n : Nat) : SeqCc :=
  match n with
  | 0 => .eq | 1 => .ne | 2 => .lt | 3 => .ge | 4 => .le | 5 => .gt | 6 => .ltu | 7 => .geu | 8 => .leu | _ => .gtu

/-- The engine code e. -/
def Eng.code : Eng → Nat
  | .str => 1 | .vec => 2 | .mtx => 3
/-- The engine of a code. -/
def Eng.ofCode (n : Nat) : Eng :=
  match n with
  | 1 => .str | 2 => .vec | _ => .mtx

/-- The type code t of VEC. -/
def VType.code : VType → Nat
  | .f32 => 0 | .bf16 => 1 | .f16 => 2 | .i32 => 4 | .i16 => 5 | .i8 => 6 | .u8 => 7
/-- The type of a code; 3 is illegal in every group. -/
def VType.ofCode (n : Nat) : Option VType :=
  match n with
  | 0 => some .f32 | 1 => some .bf16 | 2 => some .f16 | 4 => some .i32 | 5 => some .i16 | 6 => some .i8 | 7 => some .u8 | _ => none
/-- A floating type? -/
def VType.isFloat : VType → Bool
  | .f32 | .bf16 | .f16 => true | _ => false
/-- Width in bytes (R235). -/
def VType.bytes : VType → Nat
  | .f32 => 4 | .bf16 => 2 | .f16 => 2 | .i32 => 4 | .i16 => 2 | .i8 => 1 | .u8 => 1

/-- The compare code of VEC. -/
def VecCc.code : VecCc → Nat
  | .eq => 0 | .ne => 1 | .lt => 2 | .le => 3 | .gt => 4 | .ge => 5
/-- The compare of a code. -/
def VecCc.ofCode (n : Nat) : Option VecCc :=
  match n with
  | 0 => some .eq | 1 => some .ne | 2 => some .lt | 3 => some .le | 4 => some .gt | 5 => some .ge | _ => none

/-- The width code x of the untyped movements. -/
def XWidth.code : XWidth → Nat
  | .b32 => 0 | .b16 => 1 | .b8 => 2
/-- The width of a code. -/
def XWidth.ofCode (n : Nat) : Option XWidth :=
  match n with
  | 0 => some .b32 | 1 => some .b16 | 2 => some .b8 | _ => none

/-- The conversion code (R54). -/
def CvtFmt.code : CvtFmt → Nat
  | .f32 => 0 | .bf16 => 1 | .f16 => 2 | .e4m3 => 3 | .e5m2 => 4 | .i32 => 5 | .i16 => 6 | .i8 => 7 | .u8 => 8
  | .b16m7 => 9 | .b16m4 => 10 | .b16m2 => 11
/-- The format of a conversion code. -/
def CvtFmt.ofCode (n : Nat) : Option CvtFmt :=
  match n with
  | 0 => some .f32 | 1 => some .bf16 | 2 => some .f16 | 3 => some .e4m3 | 4 => some .e5m2 | 5 => some .i32 | 6 => some .i16
  | 7 => some .i8 | 8 => some .u8 | 9 => some .b16m7 | 10 => some .b16m4 | 11 => some .b16m2 | _ => none
/-- A B16M format? -/
def CvtFmt.isB16 : CvtFmt → Bool
  | .b16m7 | .b16m4 | .b16m2 => true | _ => false
/-- The legal conversion pairs (R252). -/
def cvtPair (x y : CvtFmt) : Bool :=
  if x.isB16 then decide (y = .f32) else if y.isB16 then decide (x = .f32) else decide (x ≠ y)

/-- The rounding code (R54). -/
def Rnd.code : Rnd → Nat
  | .rne => 0 | .rtz => 1 | .rdn => 2 | .rup => 3
/-- The rounding mode of a code. -/
def Rnd.ofCode (n : Nat) : Option Rnd :=
  match n with
  | 0 => some .rne | 1 => some .rtz | 2 => some .rdn | 3 => some .rup | _ => none

/-- The operand format code F (R55). -/
def MFmt.code : MFmt → Nat
  | .bf16 => 0 | .f16 => 1 | .e4m3 => 2 | .e5m2 => 3 | .i8 => 4 | .b16m7 => 5 | .b16m4 => 6 | .b16m2 => 7 | .twB16m4 => 8 | .i4 => 9
/-- The operand format of a code from 0 to 9. -/
def MFmt.ofCode (n : Nat) : MFmt :=
  match n with
  | 0 => .bf16 | 1 => .f16 | 2 => .e4m3 | 3 => .e5m2 | 4 => .i8 | 5 => .b16m7 | 6 => .b16m4 | 7 => .b16m2 | 8 => .twB16m4 | _ => .i4
/-- The K of an operand format (R55). -/
def MFmt.kDim : MFmt → Nat
  | .bf16 => 32 | .f16 => 32 | .e4m3 => 64 | .e5m2 => 64 | .i8 => 64 | .b16m7 => 64 | .b16m4 => 128 | .b16m2 => 128
  | .twB16m4 => 128 | .i4 => 128
/-- The M of an M code (R55). -/
def mDim (m : BitVec 2) : Nat := 16 * 2 ^ m.toNat
/-- The N of a plain product's N code (R56). -/
def nDim (n : BitVec 2) : Nat := 64 * 2 ^ n.toNat

/-! ### The checks of R48 -/

/-- Which guards an instruction may name (R44, R258). -/
def guardOk (anyLane : Bool) (r : Raw) : Bool := anyLane || (decide (r.ga.toNat ≤ 15) && decide (r.gb.toNat ≤ 15))

/-- The legal POP values of an engine (R20). -/
def popOk (u : Unit4) (q : BitVec 4) : Bool :=
  match u, q.toNat with
  | _, 0 => true
  | .seq, 4 | .seq, 7 | .seq, 10 => true
  | .str, 1 | .str, 8 | .str, 11 => true
  | .vec, 2 | .vec, 5 | .vec, 12 => true
  | .mtx, 3 | .mtx, 6 | .mtx, 9 => true
  | _, _ => false

/-- The legal PUSH values of an engine (R20). -/
def pushOk (u : Unit4) (q : BitVec 4) : Bool :=
  match u, q.toNat with
  | _, 0 => true
  | .seq, 1 | .seq, 2 | .seq, 3 => true
  | .str, 4 | .str, 5 | .str, 6 => true
  | .vec, 7 | .vec, 8 | .vec, 9 => true
  | .mtx, 10 | .mtx, 11 | .mtx, 12 => true
  | _, _ => false

/-- Checks 4 to 8 of R48 in their order, for an assigned opcode. -/
def checked (u : Unit4) (fmtOk anyLane usesCls : Bool) (r : Raw) (ops : Option Instr) : Except DecodeError Instr :=
  if !fmtOk then .error .form
  else if !guardOk anyLane r then .error .guard
  else if !usesCls && r.cls != 0 then .error .cls
  else if !(popOk u r.pop && pushOk u r.push) then .error .tokens
  else match ops with
    | some i => .ok i
    | none => .error .operand

/-- The control fields of a word. -/
def ctlOf (r : Raw) : Ctl :=
  { ga := r.ga, gan := r.gan, gb := r.gb, gbn := r.gbn, cls := r.cls, hint := r.hint, pop := r.pop, push := r.push, sched := r.sched }

/-- The 20-bit immediate of FMT 1: slots C and D, word bits [29:10] (R46). -/
def immCD (r : Raw) : BitVec 20 := r.c ++ r.d
/-- The 30-bit immediate of FMT 2: slots C, D and E (R46). -/
def immCDE (r : Raw) : BitVec 30 := r.c ++ r.d ++ r.e
/-- The 40-bit immediate of FMT 3: slots B to E (R46). -/
def immBCDE (r : Raw) : BitVec 40 := r.b ++ r.c ++ r.d ++ r.e
/-- The 20-bit immediate of FMT 4: slots D and E (R46). -/
def immDE (r : Raw) : BitVec 20 := r.d ++ r.e

/-! ### SEQ -/

/-- A binary arithmetic instruction (R97). -/
def seqBin (mk : Ctl → BitVec 5 → BitVec 5 → GSrc → Instr) (r : Raw) : Except DecodeError Instr :=
  checked .seq (decide (r.fmt = 0) || decide (r.fmt = 1)) false false r (do
    let a ← Slot.g r.a
    let b ← Slot.g r.b
    if r.fmt = 1 then
      Slot.unused r.e
      return mk (ctlOf r) a b (.imm20 (immCD r))
    else
      let x ← Slot.gOrImm r.c
      Slot.unused r.d
      Slot.unused r.e
      return mk (ctlOf r) a b (match x with
        | .reg g => .reg g
        | .imm7 i => .imm7 i))

/-- A unary instruction (R99). -/
def seqUn (mk : Ctl → BitVec 5 → BitVec 5 → Instr) (r : Raw) : Except DecodeError Instr :=
  checked .seq (decide (r.fmt = 0)) false false r (do
    let a ← Slot.g r.a
    let b ← Slot.g r.b
    Slot.unused r.c
    Slot.unused r.d
    Slot.unused r.e
    return mk (ctlOf r) a b)

/-- A bit-field extension (R99). -/
def seqExt (mk : Ctl → BitVec 5 → BitVec 5 → BitVec 7 → Instr) (r : Raw) : Except DecodeError Instr :=
  checked .seq (decide (r.fmt = 0)) false false r (do
    let a ← Slot.g r.a
    let b ← Slot.g r.b
    let n ← Slot.iIn 1 63 r.c
    Slot.unused r.d
    Slot.unused r.e
    return mk (ctlOf r) a b n)

/-- An instruction of no operands (R106, R109, R137, R139, R140). -/
def seqNone (mk : Ctl → Instr) (r : Raw) : Except DecodeError Instr :=
  checked .seq (decide (r.fmt = 0)) false false r (do
    Slot.unused r.a
    Slot.unused r.b
    Slot.unused r.c
    Slot.unused r.d
    Slot.unused r.e
    return mk (ctlOf r))

/-- `cmp` (R101). -/
def seqCmp (cc : SeqCc) (r : Raw) : Except DecodeError Instr :=
  checked .seq (decide (r.fmt = 0) || decide (r.fmt = 1)) false false r (do
    let a ← Slot.pIn 1 15 r.a
    let b ← Slot.g r.b
    if r.fmt = 1 then
      Slot.unused r.e
      return .cmp (ctlOf r) cc a b (.imm20 (immCD r))
    else
      let x ← Slot.gOrImm r.c
      Slot.unused r.d
      Slot.unused r.e
      return .cmp (ctlOf r) cc a b (match x with
        | .reg g => .reg g
        | .imm7 i => .imm7 i))

/-- A binary predicate instruction (R102, R259): destination in a range, sources in a range. -/
def predBin (u : Unit4) (any : Bool) (dlo dhi shi : Nat) (mk : Ctl → BitVec 6 → BitVec 6 → BitVec 6 → Instr) (r : Raw) :
    Except DecodeError Instr :=
  checked u (decide (r.fmt = 0)) any false r (do
    let a ← Slot.pIn dlo dhi r.a
    let b ← Slot.pIn 0 shi r.b
    let c ← Slot.pIn 0 shi r.c
    Slot.unused r.d
    Slot.unused r.e
    return mk (ctlOf r) a b c)

/-- A unary predicate instruction (R102, R259). -/
def predUn (u : Unit4) (any : Bool) (dlo dhi shi : Nat) (mk : Ctl → BitVec 6 → BitVec 6 → Instr) (r : Raw) :
    Except DecodeError Instr :=
  checked u (decide (r.fmt = 0)) any false r (do
    let a ← Slot.pIn dlo dhi r.a
    let b ← Slot.pIn 0 shi r.b
    Slot.unused r.c
    Slot.unused r.d
    Slot.unused r.e
    return mk (ctlOf r) a b)

/-- The address of `ld` and `st` (R110): FMT 0 or FMT 4. -/
def addrOf (r : Raw) : Option Addr := do
  let b ← Slot.g r.b
  if r.fmt = 4 then
    Slot.unused r.c
    return .imm20 b (immDE r)
  else
    let x ← Slot.gOrImm r.c
    Slot.unused r.d
    Slot.unused r.e
    return (match x with
      | .reg g => .idx b g
      | .imm7 i => .imm7 b i)

/-- `ld` and `st` (R110). -/
def seqMem (mk : Ctl → Width → BitVec 5 → Addr → Instr) (w : Width) (r : Raw) : Except DecodeError Instr :=
  checked .seq (decide (r.fmt = 0) || decide (r.fmt = 4)) false true r (do
    let a ← Slot.g r.a
    let x ← addrOf r
    return mk (ctlOf r) w a x)

/-- `amo` (R116). -/
def seqAmo (mk : Ctl → Width → BitVec 5 → BitVec 5 → BitVec 5 → BitVec 7 → Instr) (w : Width) (r : Raw) : Except DecodeError Instr :=
  checked .seq (decide (r.fmt = 0)) false true r (do
    let a ← Slot.g r.a
    let b ← Slot.g r.b
    let c ← Slot.g r.c
    Slot.unused r.d
    let e ← Slot.iIn 1 6 r.e
    return mk (ctlOf r) w a b c e)

/-- `run` (R126). -/
def readRun (e : Eng) (r : Raw) : Except DecodeError Instr :=
  checked .seq (decide (r.fmt = 2)) false false r (do
    let n ← Slot.iIn 1 63 r.a
    let g ← Slot.g r.b
    if 28 < g.toNat then none else return .run (ctlOf r) e n g (immCDE r))

/-- `run.loop` (R127). -/
def seqRunLoop (e : Eng) (r : Raw) : Except DecodeError Instr :=
  checked .seq (decide (r.fmt = 1)) false false r (do
    let n ← Slot.iIn 1 63 r.a
    let g ← Slot.g r.b
    let x ← Slot.iIn 0 24 r.e
    if 28 < g.toNat then none else return .runLoop (ctlOf r) e n g (immCD r) x)

/-- The assigned special registers (R94). -/
def srAssigned (n : BitVec 7) : Bool :=
  let i := n.toNat
  decide (i ≤ 0x0A) || decide (0x10 ≤ i ∧ i ≤ 0x1F) || decide (0x20 ≤ i ∧ i ≤ 0x25) || decide (0x28 ≤ i ∧ i ≤ 0x2B)
    || decide (0x40 ≤ i ∧ i ≤ 0x4F)

/-- TAGBYTES (R94), whose `getsr` names a tag. -/
def srTagbytes : BitVec 7 := 0x05

/-- The remaining SEQ operand sets, FMT 0. -/
def seq0 (usesCls : Bool) (r : Raw) (ops : Option Instr) : Except DecodeError Instr :=
  checked .seq (decide (r.fmt = 0)) false usesCls r ops

/-- `brl` and `br` (R104). -/
def seqBr (mk : Ctl → BitVec 2 → BitVec 6 → BitVec 7 → Instr) (r : Raw) : Except DecodeError Instr :=
  seq0 false r (do
    let a ← Slot.b r.a
    let p ← Slot.pIn 0 15 r.b
    let d ← Slot.iIn 0 3 r.c
    Slot.unused r.d
    Slot.unused r.e
    return mk (ctlOf r) a p d)

/-- A destination and a mask (R124). -/
def seqTagA (mk : Ctl → BitVec 5 → GOrImm → Instr) (r : Raw) : Except DecodeError Instr :=
  seq0 false r (do
    let a ← Slot.g r.a
    let m ← Slot.gOrImm r.b
    Slot.unused r.c
    Slot.unused r.d
    Slot.unused r.e
    return mk (ctlOf r) a m)

/-- A mask alone (R124). -/
def seqTag0 (mk : Ctl → GOrImm → Instr) (r : Raw) : Except DecodeError Instr :=
  seq0 false r (do
    let m ← Slot.gOrImm r.a
    Slot.unused r.b
    Slot.unused r.c
    Slot.unused r.d
    Slot.unused r.e
    return mk (ctlOf r) m)

/-- `tok.push` and `tok.pop` (R130): q must be a queue the check admits. -/
def seqTok (ok : Nat → Bool) (mk : Ctl → BitVec 7 → BitVec 7 → Instr) (r : Raw) : Except DecodeError Instr :=
  seq0 false r (do
    let q ← Slot.i r.a
    let n ← Slot.iIn 1 15 r.b
    Slot.unused r.c
    Slot.unused r.d
    Slot.unused r.e
    if ok q.toNat then return mk (ctlOf r) q n else none)

/-- One destination g register (R134, R135). -/
def seqG1 (mk : Ctl → BitVec 5 → Instr) (r : Raw) : Except DecodeError Instr :=
  seq0 false r (do
    let a ← Slot.g r.a
    Slot.unused r.b
    Slot.unused r.c
    Slot.unused r.d
    Slot.unused r.e
    return mk (ctlOf r) a)

/-- The SEQ opcodes below 0x060 (R51). -/
def decodeSeqLow (r : Raw) : Except DecodeError Instr :=
  match r.op.toNat with
  | 0x000 => seqNone .nop r
  | 0x001 => seq0 false r (do
      let n ← Slot.iIn 0 63 r.a
      Slot.unused r.b
      Slot.unused r.c
      Slot.unused r.d
      Slot.unused r.e
      return .trap (ctlOf r) n)
  | 0x002 => seqNone .safept r
  | 0x003 => checked .seq (decide (r.fmt = 1)) false false r (do
      Slot.unused r.a
      Slot.unused r.b
      Slot.unused r.e
      if (immCD r).toNat ≤ 255 then return .climbpt (ctlOf r) (immCD r) else none)
  | 0x004 => seqNone .exit r
  | 0x010 => seqBin .add r
  | 0x011 => seqBin .sub r
  | 0x012 => seqBin .mul r
  | 0x013 => seqBin .mulh r
  | 0x014 => seqBin .div r
  | 0x015 => seqBin .divu r
  | 0x016 => seqBin .rem r
  | 0x017 => seqBin .remu r
  | 0x018 => seqBin .and r
  | 0x019 => seqBin .or r
  | 0x01A => seqBin .xor r
  | 0x01B => seqBin .andn r
  | 0x01C => seqBin .shl r
  | 0x01D => seqBin .shr r
  | 0x01E => seqBin .sra r
  | 0x01F => seqBin .rotl r
  | 0x020 => seqBin .min r
  | 0x021 => seqBin .max r
  | 0x022 => seqBin .minu r
  | 0x023 => seqBin .maxu r
  | 0x024 => seqUn .clz r
  | 0x025 => seqUn .popc r
  | 0x026 => seqExt .extZ r
  | 0x027 => seqExt .extS r
  | 0x028 => checked .seq (decide (r.fmt = 1) || decide (r.fmt = 2) || decide (r.fmt = 3)) false false r (do
      let a ← Slot.g r.a
      if r.fmt = 3 then return .ldi (ctlOf r) a (.imm40 (immBCDE r))
      else
        Slot.unused r.b
        if r.fmt = 2 then return .ldi (ctlOf r) a (.imm30 (immCDE r))
        else
          Slot.unused r.e
          return .ldi (ctlOf r) a (.imm20 (immCD r)))
  | 0x029 => seq0 false r (do
      let a ← Slot.g r.a
      let x ← Slot.gOrB r.b
      Slot.unused r.c
      Slot.unused r.d
      Slot.unused r.e
      return .mov (ctlOf r) a x)
  | 0x030 => seqCmp .eq r
  | 0x031 => seqCmp .ne r
  | 0x032 => seqCmp .lt r
  | 0x033 => seqCmp .ge r
  | 0x034 => seqCmp .le r
  | 0x035 => seqCmp .gt r
  | 0x036 => seqCmp .ltu r
  | 0x037 => seqCmp .geu r
  | 0x038 => seqCmp .leu r
  | 0x039 => seqCmp .gtu r
  | 0x040 => predBin .seq false 1 15 15 .pand r
  | 0x041 => predBin .seq false 1 15 15 .por r
  | 0x042 => predBin .seq false 1 15 15 .pxor r
  | 0x043 => predUn .seq false 1 15 15 .pnot r
  | 0x044 => predUn .seq false 1 15 15 .pmov r
  | 0x048 => checked .seq (decide (r.fmt = 0) || decide (r.fmt = 2)) false false r (do
      let a ← Slot.b r.a
      if r.fmt = 2 then
        Slot.unused r.b
        return .ptgLabel (ctlOf r) a (immCDE r)
      else
        let g ← Slot.g r.b
        Slot.unused r.c
        Slot.unused r.d
        Slot.unused r.e
        return .ptgReg (ctlOf r) a g)
  | 0x049 => seqBr .br r
  | 0x04A => seqBr .brl r
  | 0x050 => seqMem .ld .w8 r
  | 0x051 => seqMem .ld .w16 r
  | 0x052 => seqMem .ld .w32 r
  | 0x053 => seqMem .ld .w64 r
  | 0x054 => seqMem .st .w8 r
  | 0x055 => seqMem .st .w16 r
  | 0x056 => seqMem .st .w32 r
  | 0x057 => seqMem .st .w64 r
  | 0x058 => seqCas .w8 r
  | 0x059 => seqCas .w16 r
  | 0x05A => seqCas .w32 r
  | 0x05B => seqCas .w64 r
  | 0x05C => checked .seq (decide (r.fmt = 4)) false false r (do
      let a ← Slot.iIn 0 3 r.a
      let b ← Slot.iIn 0 6 r.b
      Slot.unused r.c
      if (immDE r).toNat < 65536 then return .fence (ctlOf r) a b (immDE r) else none)
  | _ => .error .unassigned
where
  /-- `cas` (R115). -/
  seqCas (w : Width) (r : Raw) : Except DecodeError Instr :=
    seq0 true r (do
      let a ← Slot.g r.a
      let b ← Slot.g r.b
      let c ← Slot.g r.c
      let d ← Slot.g r.d
      let e ← Slot.iIn 1 6 r.e
      return .cas (ctlOf r) w a b c d e)

/-- The constructor of an `amo` operation code, 0 to 8 (R51). -/
def amoOf (op : Nat) : Option (Ctl → Width → BitVec 5 → BitVec 5 → BitVec 5 → BitVec 7 → Instr) :=
  match op with
  | 0 => some .amoAdd
  | 1 => some .amoAnd
  | 2 => some .amoOr
  | 3 => some .amoXor
  | 4 => some .amoMin
  | 5 => some .amoMax
  | 6 => some .amoMinu
  | 7 => some .amoMaxu
  | 8 => some .amoSwap
  | _ => none

/-- The SEQ opcodes from 0x060 up (R51). -/
def decodeSeqHigh (r : Raw) : Except DecodeError Instr :=
  match r.op.toNat with
  | 0x086 => seqAmo (fun c _ a b x e => .amoFaddF32 c a b x e) .w32 r
  | 0x090 => seq0 true r (do
      let a ← Slot.g r.a
      let x ← Slot.gOrImm r.b
      Slot.unused r.c
      Slot.unused r.d
      let e ← Slot.iIn 1 6 r.e
      return .barInit (ctlOf r) a x e)
  | 0x091 => seqAmo (fun c _ a b x e => .barArrive c a b x e) .w64 r
  | 0x092 => seq0 true r (do
      let a ← Slot.g r.a
      let b ← Slot.g r.b
      Slot.unused r.c
      Slot.unused r.d
      let e ← Slot.iIn 1 6 r.e
      return .barWait (ctlOf r) a b e)
  | 0x093 => seqTagA .waitany r
  | 0x094 => seqTag0 .waitall r
  | 0x095 => seqTagA .ffready r
  | 0x096 => seqTag0 .tagclr r
  | 0x099 => readRun .str r
  | 0x09A => readRun .vec r
  | 0x09B => readRun .mtx r
  | 0x0A1 => seqRunLoop .str r
  | 0x0A2 => seqRunLoop .vec r
  | 0x0A3 => seqRunLoop .mtx r
  | 0x0A9 => seqG1 (fun c a => .popEng c .str a) r
  | 0x0AA => seqG1 (fun c a => .popEng c .vec a) r
  | 0x0AB => seqG1 (fun c a => .popEng c .mtx a) r
  | 0x0AC => seq0 false r (do
      let p ← Slot.pIn 1 15 r.a
      Slot.unused r.b
      Slot.unused r.c
      Slot.unused r.d
      Slot.unused r.e
      return .popP (ctlOf r) p)
  | 0x0AD => seqTok (fun q => decide (1 ≤ q ∧ q ≤ 3)) .tokPush r
  | 0x0AE => seqTok (fun q => decide (q = 4 ∨ q = 7 ∨ q = 10)) .tokPop r
  | 0x0B0 => seqUn .spawn r
  | 0x0B1 => seqUn .kick r
  | 0x0B2 => seq0 false r (do
      let a ← Slot.g r.a
      let sr ← Slot.sr r.b
      Slot.unused r.d
      Slot.unused r.e
      if sr = srTagbytes then
        let t ← Slot.g r.c
        return .getsr (ctlOf r) a sr (some t)
      else
        Slot.unused r.c
        if srAssigned sr then return .getsr (ctlOf r) a sr none else none)
  | 0x0B3 => seq0 false r (do
      let sr ← Slot.sr r.a
      let x ← Slot.gOrImm r.b
      Slot.unused r.c
      Slot.unused r.d
      Slot.unused r.e
      if srAssigned sr then return .setsr (ctlOf r) sr x else none)
  | 0x0B4 => seqG1 .tstamp r
  | 0x0C0 => seqG1 .ovfLoad r
  | 0x0C1 => seqUn .cardLoad r
  | 0x0C2 => seqNone .objsync r
  | 0x0C3 => seq0 false r (do
      let a ← Slot.g r.a
      let m ← Slot.iIn 0 1 r.b
      Slot.unused r.c
      Slot.unused r.d
      Slot.unused r.e
      return .xlinv (ctlOf r) a m)
  | 0x0C4 => seqNone .sysret r
  | 0x0C5 => seqNone .ctxFence r
  | n =>
    if 0x60 ≤ n ∧ n < 0x84 then
      match amoOf ((n - 0x60) / 4) with
      | some mk => seqAmo mk (Width.ofCode ((n - 0x60) % 4)) r
      | none => .error .unassigned
    else .error .unassigned

/-! ### STR (R52, R166) -/

/-- The common checks of STR. -/
def strW (usesCls : Bool) (r : Raw) (ops : Option Instr) : Except DecodeError Instr :=
  checked .str (decide (r.fmt = 0)) false usesCls r ops

/-- `sbind`, `sbind.tw`, `sbind.b16`. -/
def strBind (mk : Ctl → BitVec 4 → BitVec 7 → Option (BitVec 2) → Option (BitVec 2) → Instr) (r : Raw) : Except DecodeError Instr :=
  strW false r (do
    let a ← Slot.s r.a
    let d ← Slot.iIn 0 63 r.b
    let kc ← Slot.optK r.c
    let kd ← Slot.optK r.d
    Slot.unused r.e
    return mk (ctlOf r) a d kc kd)

/-- A tag and four k registers. -/
def strTag4 (usesCls : Bool) (mk : Ctl → BitVec 7 → BitVec 2 → BitVec 2 → BitVec 2 → BitVec 2 → Instr) (r : Raw) :
    Except DecodeError Instr :=
  strW usesCls r (do
    let a ← Slot.iIn 0 63 r.a
    let b ← Slot.k r.b
    let c ← Slot.k r.c
    let d ← Slot.k r.d
    let e ← Slot.k r.e
    return mk (ctlOf r) a b c d e)

/-- A k register and a count. -/
def strKN (mk : Ctl → BitVec 2 → KOrImm → Instr) (r : Raw) : Except DecodeError Instr :=
  strW false r (do
    let a ← Slot.k r.a
    let n ← Slot.kOrImm 63 r.b
    Slot.unused r.c
    Slot.unused r.d
    Slot.unused r.e
    return mk (ctlOf r) a n)

/-- The STR opcodes. -/
def decodeStr (r : Raw) : Except DecodeError Instr :=
  match r.op.toNat with
  | 0x100 => strBind .sbind r
  | 0x101 => strBind .sbindTw r
  | 0x102 => strBind .sbindB16 r
  | 0x103 => strW false r (do
      let a ← Slot.s r.a
      let t ← Slot.iIn (-1) 63 r.b
      Slot.unused r.c
      Slot.unused r.d
      Slot.unused r.e
      return .sunbind (ctlOf r) a t)
  | 0x104 => strW false r (do
      let a ← Slot.s r.a
      let x ← Slot.kOrImm 63 r.b
      Slot.unused r.c
      Slot.unused r.d
      Slot.unused r.e
      return .sseek (ctlOf r) a x)
  | 0x105 => strW true r (do
      let a ← Slot.iIn 0 63 r.a
      let b ← Slot.k r.b
      let c ← Slot.k r.c
      let n ← Slot.kOrImm 63 r.d
      Slot.unused r.e
      return .scopy (ctlOf r) a b c n)
  | 0x106 => strTag4 true .scopy2d r
  | 0x107 => strW true r (do
      let a ← Slot.iIn 0 63 r.a
      let b ← Slot.k r.b
      let n ← Slot.kOrImm 63 r.c
      let v ← Slot.k r.d
      Slot.unused r.e
      return .sfill (ctlOf r) a b n v)
  | 0x108 => strTag4 true .sgather r
  | 0x109 => strTag4 true .sscatter r
  | 0x10A => strKN .sprefetch r
  | 0x10B => strW false r (do
      let a ← Slot.iIn 0 63 r.a
      let b ← Slot.k r.b
      let c ← Slot.k r.c
      Slot.unused r.d
      Slot.unused r.e
      return .spromote (ctlOf r) a b c)
  | 0x10C => strKN .spin r
  | 0x10D => strKN .sunpin r
  | 0x10E => strTag4 false .stwenc r
  | 0x10F => strKN .sscale r
  | 0x110 => strW true r (do
      let a ← Slot.iIn 0 63 r.a
      let b ← Slot.k r.b
      let c ← Slot.k r.c
      let n ← Slot.kOrImm 63 r.d
      let e ← Slot.k r.e
      return .slzput (ctlOf r) a b c n e)
  | 0x13E => strW false r (do
      let a ← Slot.k r.a
      Slot.unused r.b
      Slot.unused r.c
      Slot.unused r.d
      Slot.unused r.e
      return .sresume (ctlOf r) a)
  | _ => .error .unassigned

/-! ### MTX (R56, R189) -/

/-- The common checks of MTX. -/
def mtxW (r : Raw) (ops : Option Instr) : Except DecodeError Instr := checked .mtx (decide (r.fmt = 0)) false false r ops

/-- The column limit of R190: base plus N within 256 columns, and the row limit within 128. -/
def mmaFits (col : BitVec 4) (n m d : Nat) : Bool := decide (16 * col.toNat + n ≤ 256) && decide (16 * d + m ≤ 128)

/-- `mma` (R190). -/
def mtxMma (f : MFmt) (m n : BitVec 2) (r : Raw) : Except DecodeError Instr :=
  mtxW r (do
    let a ← Slot.acc r.a
    let b ← Slot.s r.b
    let c ← Slot.bSrc r.c
    let d ← Slot.iIn 0 7 r.d
    Slot.unused r.e
    if mmaFits a (nDim n) (mDim m) d.toNat then return .mma (ctlOf r) f m n a b c d else none)

/-- `mma.coop` (R194). -/
def mtxCoop (f : MFmt) (m : BitVec 2) (n : BitVec 1) (r : Raw) : Except DecodeError Instr :=
  mtxW r (do
    let a ← Slot.acc r.a
    let b ← Slot.s r.b
    let c ← Slot.bSrc r.c
    let d ← Slot.iIn 0 7 r.d
    let q ← Slot.kOrImm 63 r.e
    if a = 0 ∧ mmaFits 0 256 (mDim m) d.toNat then return .mmaCoop (ctlOf r) f m n b c d q else none)

/-- `mma.reed` (R191). -/
def mtxReed (f : MFmt) (m : BitVec 2) (r : Raw) : Except DecodeError Instr :=
  mtxW r (do
    let a ← Slot.acc r.a
    let b ← Slot.s r.b
    let c ← Slot.bSrc r.c
    let d ← Slot.iIn 0 7 r.d
    Slot.unused r.e
    if a = 0 ∧ mmaFits 0 256 (mDim m) d.toNat then return .mmaReed (ctlOf r) f m b c d else none)

/-- The MTX opcodes. -/
def decodeMtx (r : Raw) : Except DecodeError Instr :=
  match r.op.toNat with
  | 0x3D8 => mtxW r (do
      let a ← Slot.acc r.a
      let n ← Slot.iIn 1 16 r.b
      let m ← Slot.iIn 0 1 r.c
      Slot.unused r.d
      Slot.unused r.e
      if a.toNat + n.toNat ≤ 16 then return .accZero (ctlOf r) a n m else none)
  | 0x3D9 => mtxW r (do
      let a ← Slot.acc r.a
      let n ← Slot.iIn 1 16 r.b
      let b ← Slot.iIn 0 7 r.c
      let c ← Slot.iIn 1 8 r.d
      let k ← Slot.k r.e
      if a.toNat + n.toNat ≤ 16 ∧ b.toNat + c.toNat ≤ 8 then return .accScale (ctlOf r) a n b c k else none)
  | 0x3DA => mtxW r (do
      let v ← Slot.v r.a
      let a ← Slot.acc r.b
      let b ← Slot.iIn 0 7 r.c
      Slot.unused r.d
      Slot.unused r.e
      return .accRd (ctlOf r) v a b)
  | 0x3DB => mtxW r (do
      let a ← Slot.acc r.a
      let v ← Slot.v r.b
      let b ← Slot.iIn 0 7 r.c
      Slot.unused r.d
      Slot.unused r.e
      return .accWr (ctlOf r) a v b)
  | 0x3DC => mtxW r (do
      let a ← Slot.acc r.a
      let b ← Slot.iIn 0 7 r.b
      let c ← Slot.iIn 1 8 r.c
      Slot.unused r.d
      Slot.unused r.e
      if a = 0 ∧ b.toNat + c.toNat ≤ 8 then return .accFlush (ctlOf r) b c else none)
  | 0x3DD => mtxW r (do
      let s ← Slot.s r.a
      let f ← Slot.iIn 0 9 r.b
      let n ← Slot.iIn 0 3 r.c
      Slot.unused r.d
      Slot.unused r.e
      return .mpre (ctlOf r) s f n)
  | 0x3DE => mtxW r (do
      Slot.unused r.a
      Slot.unused r.b
      Slot.unused r.c
      Slot.unused r.d
      Slot.unused r.e
      return .msync (ctlOf r))
  | n =>
    if 0x2C0 ≤ n ∧ n < 0x360 then
      if n % 4 = 3 then .error .unassigned
      else mtxMma (MFmt.ofCode ((n - 0x2C0) / 16)) (BitVec.ofNat 2 (n / 4)) (BitVec.ofNat 2 n) r
    else if 0x360 ≤ n ∧ n < 0x3B0 then
      mtxCoop (MFmt.ofCode ((n - 0x360) / 8)) (BitVec.ofNat 2 (n / 2)) (BitVec.ofNat 1 n) r
    else if 0x3B0 ≤ n ∧ n < 0x3D8 then
      mtxReed (MFmt.ofCode ((n - 0x3B0) / 4)) (BitVec.ofNat 2 n) r
    else .error .unassigned

/-! ### VEC (R53, R54, R247) -/

/-- The common checks of VEC: any guard, FMT 0. -/
def vecW (r : Raw) (ops : Option Instr) : Except DecodeError Instr := checked .vec (decide (r.fmt = 0)) true false r ops

/-- dest, src, src. -/
def vecBin (mk : Ctl → VDest → VSrc → VSrc → Instr) (r : Raw) : Except DecodeError Instr :=
  vecW r (do
    let a ← Slot.dest r.a
    let b ← Slot.src r.b
    let c ← Slot.src r.c
    Slot.unused r.d
    Slot.unused r.e
    return mk (ctlOf r) a b c)

/-- dest, src, src, src. -/
def vecTri (mk : Ctl → VDest → VSrc → VSrc → VSrc → Instr) (r : Raw) : Except DecodeError Instr :=
  vecW r (do
    let a ← Slot.dest r.a
    let b ← Slot.src r.b
    let c ← Slot.src r.c
    let d ← Slot.src r.d
    Slot.unused r.e
    return mk (ctlOf r) a b c d)

/-- dest, src. -/
def vecUn (mk : Ctl → VDest → VSrc → Instr) (r : Raw) : Except DecodeError Instr :=
  vecW r (do
    let a ← Slot.dest r.a
    let b ← Slot.src r.b
    Slot.unused r.c
    Slot.unused r.d
    Slot.unused r.e
    return mk (ctlOf r) a b)

/-- dest, tile. -/
def vecTile (mk : Ctl → VDest → VSrc → Instr) (r : Raw) : Except DecodeError Instr :=
  vecW r (do
    let a ← Slot.dest r.a
    let b ← Slot.tileSrc r.b
    Slot.unused r.c
    Slot.unused r.d
    Slot.unused r.e
    return mk (ctlOf r) a b)

/-- `vred.maxsum` (R256). -/
def vecMaxsum (mk : Ctl → BitVec 3 → BitVec 3 → VSrc → VSrc → Instr) (r : Raw) : Except DecodeError Instr :=
  vecW r (do
    let a ← Slot.v r.a
    let b ← Slot.v r.b
    let c ← Slot.tileSrc r.c
    let d ← Slot.tileSrc r.d
    Slot.unused r.e
    if a = b then none else return mk (ctlOf r) a b c d)

/-- `vpcount` and the votes (R260). -/
def vecVote (mk : Ctl → BitVec 6 → Instr) (r : Raw) : Except DecodeError Instr :=
  vecW r (do
    let a ← Slot.p r.a
    Slot.unused r.b
    Slot.unused r.c
    Slot.unused r.d
    Slot.unused r.e
    return mk (ctlOf r) a)

/-- The limits of `vshape`'s immediate (R247). -/
def shapeImmOk (i : BitVec 20) : Bool :=
  decide (1 ≤ (i.extractLsb' 8 5).toNat ∧ (i.extractLsb' 8 5).toNat ≤ 16)
    && decide (1 ≤ (i.extractLsb' 0 7).toNat ∧ (i.extractLsb' 0 7).toNat ≤ 64)
    && decide (i.extractLsb' 7 1 = 0) && decide (i.extractLsb' 13 7 = 0)

/-- A VEC group of floating types (R53: types 0 to 2). -/
def flt (t : VType) (x : Except DecodeError Instr) : Except DecodeError Instr := if t.isFloat then x else .error .unassigned
/-- A VEC group of integer types (R53: types 4 to 7). -/
def itg (t : VType) (x : Except DecodeError Instr) : Except DecodeError Instr := if t.isFloat then .error .unassigned else x
/-- A VEC group of f32 and bf16 (R53: types 0 and 1). -/
def two (t : VType) (x : Except DecodeError Instr) : Except DecodeError Instr :=
  if t = .f32 ∨ t = .bf16 then x else .error .unassigned
/-- A reduction group (R53: types 0 to 2 and 4). -/
def redu (t : VType) (x : Except DecodeError Instr) : Except DecodeError Instr :=
  if t.isFloat ∨ t = .i32 then x else .error .unassigned

/-- The typed VEC groups, by group base and type (R53). -/
def decodeVecTyped (base : Nat) (t : VType) (r : Raw) : Except DecodeError Instr :=
  match base with
  | 0x140 => flt t (vecBin (fun c => .vadd c t) r)
  | 0x148 => flt t (vecBin (fun c => .vsub c t) r)
  | 0x150 => flt t (vecBin (fun c => .vmul c t) r)
  | 0x158 => flt t (vecTri (fun c => .vfma c t) r)
  | 0x160 => flt t (vecTri (fun c => .vfms c t) r)
  | 0x168 => flt t (vecTri (fun c => .vnfma c t) r)
  | 0x170 => flt t (vecBin (fun c => .vmin c t) r)
  | 0x178 => flt t (vecBin (fun c => .vmax c t) r)
  | 0x180 => flt t (vecUn (fun c => .vabs c t) r)
  | 0x188 => flt t (vecUn (fun c => .vneg c t) r)
  | 0x190 => flt t (vecBin (fun c => .vcopysign c t) r)
  | 0x198 => itg t (vecBin (fun c => .viadd c t) r)
  | 0x1A0 => itg t (vecBin (fun c => .visub c t) r)
  | 0x1A8 => itg t (vecBin (fun c => .vimul c t) r)
  | 0x1B0 => itg t (vecBin (fun c => .vand c t) r)
  | 0x1B8 => itg t (vecBin (fun c => .vor c t) r)
  | 0x1C0 => itg t (vecBin (fun c => .vxor c t) r)
  | 0x1C8 => itg t (vecBin (fun c => .vshl c t) r)
  | 0x1D0 => itg t (vecBin (fun c => .vshr c t) r)
  | 0x1D8 => itg t (vecBin (fun c => .vsra c t) r)
  | 0x1E0 => itg t (vecBin (fun c => .vimin c t) r)
  | 0x1E8 => itg t (vecBin (fun c => .vimax c t) r)
  | 0x1F0 => vecCmp .eq t r
  | 0x1F8 => vecCmp .ne t r
  | 0x200 => vecCmp .lt t r
  | 0x208 => vecCmp .le t r
  | 0x210 => vecCmp .gt t r
  | 0x218 => vecCmp .ge t r
  | 0x220 => vecW r (do
      let a ← Slot.dest r.a
      let p ← Slot.p r.b
      let c ← Slot.src r.c
      let d ← Slot.src r.d
      Slot.unused r.e
      return .vsel (ctlOf r) t a p c d)
  | 0x228 => two t (vecUn (fun c => .vexp2 c t) r)
  | 0x230 => two t (vecUn (fun c => .vexp c t) r)
  | 0x238 => two t (vecUn (fun c => .vlog2 c t) r)
  | 0x240 => two t (vecUn (fun c => .vrcp c t) r)
  | 0x248 => two t (vecUn (fun c => .vrsqrt c t) r)
  | 0x250 => two t (vecUn (fun c => .vsqrt c t) r)
  | 0x258 => two t (vecUn (fun c => .vtanh c t) r)
  | 0x260 => redu t (vecTile (fun c => .vredSumRow c t) r)
  | 0x268 => redu t (vecTile (fun c => .vredSumCol c t) r)
  | 0x270 => redu t (vecTile (fun c => .vredMaxRow c t) r)
  | 0x278 => redu t (vecTile (fun c => .vredMaxCol c t) r)
  | 0x280 => two t (vecMaxsum (fun c => .vredMaxsumRow c t) r)
  | 0x288 => two t (vecMaxsum (fun c => .vredMaxsumCol c t) r)
  | _ => .error .unassigned
where
  /-- `vcmp` (R250). -/
  vecCmp (cc : VecCc) (t : VType) (r : Raw) : Except DecodeError Instr :=
    vecW r (do
      let a ← Slot.pIn 16 63 r.a
      let b ← Slot.src r.b
      let c ← Slot.src r.c
      Slot.unused r.d
      Slot.unused r.e
      return .vcmp (ctlOf r) cc t a b c)

/-- `vbcast` (R257): m = 1 with a k source is illegal. -/
def vecBcast (x : XWidth) (r : Raw) : Except DecodeError Instr :=
  vecW r (do
    let a ← Slot.dest r.a
    let b ← Slot.tileOrK r.b
    let m ← Slot.iIn 0 1 r.c
    Slot.unused r.d
    Slot.unused r.e
    match b with
    | .k _ => if m = 0 then return .vbcast (ctlOf r) x a b m else none
    | _ => return .vbcast (ctlOf r) x a b m)

/-- `vperm` (R257). -/
def vecPerm (x : XWidth) (r : Raw) : Except DecodeError Instr :=
  vecW r (do
    let a ← Slot.dest r.a
    let b ← Slot.tileSrc r.b
    let c ← Slot.tileSrc r.c
    Slot.unused r.d
    Slot.unused r.e
    return .vperm (ctlOf r) x a b c)

/-- The untyped VEC opcodes from 0x290 (R53). -/
def decodeVecHigh (r : Raw) : Except DecodeError Instr :=
  match r.op.toNat with
  | 0x290 => vecW r (do
      let a ← Slot.dest r.a
      let b ← Slot.tileOrK r.b
      let f ← (Slot.iIn 0 11 r.c).bind (fun i => CvtFmt.ofCode i.toNat)
      let t ← (Slot.iIn 0 11 r.d).bind (fun i => CvtFmt.ofCode i.toNat)
      let m ← (Slot.iIn 0 3 r.e).bind (fun i => Rnd.ofCode i.toNat)
      if cvtPair f t = false then none
      else match b with
        | .k _ => if f.isB16 then none else return .vcvt (ctlOf r) f t m a b
        | _ => return .vcvt (ctlOf r) f t m a b)
  | 0x298 => vecTile .vmov r
  | 0x299 => vecW r (do
      let a ← Slot.dest r.a
      let s ← Slot.s r.b
      Slot.unused r.c
      Slot.unused r.d
      Slot.unused r.e
      return .vld (ctlOf r) a s)
  | 0x29A => checked .vec (decide (r.fmt = 0)) false false r (do
      let s ← Slot.s r.a
      let b ← Slot.vreg r.b
      Slot.unused r.c
      Slot.unused r.d
      Slot.unused r.e
      return .vst (ctlOf r) s b)
  | 0x29B => checked .vec (decide (r.fmt = 0) || decide (r.fmt = 4)) true false r (do
      if r.fmt = 4 then
        Slot.unused r.a
        Slot.unused r.b
        Slot.unused r.c
        if shapeImmOk (immDE r) then return .vshapeImm (ctlOf r) (immDE r) else none
      else
        let k ← Slot.k r.a
        Slot.unused r.b
        Slot.unused r.c
        Slot.unused r.d
        Slot.unused r.e
        return .vshapeK (ctlOf r) k)
  | 0x29C => vecBcast .b32 r
  | 0x29D => vecBcast .b16 r
  | 0x29E => vecBcast .b8 r
  | 0x2A0 => vecTile (fun c => .vtrn c .b32) r
  | 0x2A1 => vecTile (fun c => .vtrn c .b16) r
  | 0x2A2 => vecTile (fun c => .vtrn c .b8) r
  | 0x2A4 => vecPerm .b32 r
  | 0x2A5 => vecPerm .b16 r
  | 0x2A6 => vecPerm .b8 r
  | 0x2A8 => predBin .vec true 16 63 63 .vpand r
  | 0x2A9 => predBin .vec true 16 63 63 .vpor r
  | 0x2AA => predBin .vec true 16 63 63 .vpxor r
  | 0x2AB => predUn .vec true 16 63 63 .vpnot r
  | 0x2AC => vecVote .vpcount r
  | 0x2AD => vecVote .voteAny r
  | 0x2AE => vecVote .voteAll r
  | 0x2AF => vecW r (do
      let a ← Slot.vreg r.a
      let b ← Slot.kOrImm 15 r.b
      let c ← Slot.kOrImm 15 r.c
      Slot.unused r.d
      Slot.unused r.e
      return .vext (ctlOf r) a b c)
  | _ => .error .unassigned

/-- The VEC opcodes. -/
def decodeVec (r : Raw) : Except DecodeError Instr :=
  let n := r.op.toNat
  if n < 0x290 then
    match VType.ofCode (n % 8) with
    | some t => decodeVecTyped (n - n % 8) t r
    | none => .error .unassigned
  else decodeVecHigh r

/-! ### The tile word -/

/-- Checks 3 to 8 of R48 on the fields of a word. -/
def decodeRaw (r : Raw) : Except DecodeError Instr :=
  match unitOf r.op with
  | .seq => if r.op.toNat < 0x60 then decodeSeqLow r else decodeSeqHigh r
  | .str => decodeStr r
  | .vec => decodeVec r
  | .mtx => decodeMtx r

/-- The decoder of a 96-bit tile word. -/
def decodeWord (w : IWord) : Except DecodeError Instr := decodeRaw (unpack w)

/-- Checks 1 and 3 to 8 of R48 for the engine that executes the word; check 2 stands between them with the step. -/
def decodeOn (u : Unit4) (w : IWord) : Except DecodeError Instr :=
  if unitOf (unpack w).op = u then decodeWord w else .error .range

/-! ### The near-data slot words (R58, R59, R337 to R342) -/

/-- The four bytes of a slot word: SOP, X, Y, Z (R58). -/
structure SlotRaw where
  sop : BitVec 8
  x : BitVec 8
  y : BitVec 8
  z : BitVec 8
deriving DecidableEq, Repr

/-- The fields of a slot word. -/
def unpackSlot (w : BitVec 32) : SlotRaw :=
  { sop := w.extractLsb' 24 8, x := w.extractLsb' 16 8, y := w.extractLsb' 8 8, z := w.extractLsb' 0 8 }
/-- The slot word of its fields. -/
def packSlot (r : SlotRaw) : BitVec 32 := r.sop ++ r.x ++ r.y ++ r.z

/-- A near-data register n0 to n31 (R337). -/
def ndReg (b : BitVec 8) : Bool := decide (b.toNat ≤ 31)
/-- A pattern 0 to 7 (R337). -/
def ndPat (b : BitVec 8) : Bool := decide (b.toNat ≤ 7)
/-- A scalar 0 to 15 (R337). -/
def ndScal (b : BitVec 8) : Bool := decide (b.toNat ≤ 15)
/-- An unused field is 0 (R58). -/
def ndZero (b : BitVec 8) : Bool := decide (b = 0)
/-- Answer an instruction when its fields are legal. -/
def ndIf (ok : Bool) (i : Instr) : Except DecodeError Instr := if ok then .ok i else .error .slot

/-- The fetch slot map (R59, R338). -/
def decodeFetch (w : BitVec 32) : Except DecodeError Instr :=
  let r := unpackSlot w
  match r.sop.toNat with
  | 0x00 => ndIf (ndZero r.x && ndZero r.y && ndZero r.z) .fnop
  | 0x01 => ndIf (ndReg r.x && ndPat r.y && ndZero r.z) (.fld r.x r.y)
  | 0x02 => ndIf (ndReg r.x && ndPat r.y && ndZero r.z) (.fldp r.x r.y)
  | 0x03 => ndIf (ndZero r.x && ndPat r.y && ndZero r.z) (.fnext r.y)
  | 0x04 => ndIf (ndReg r.x && ndScal r.y && ndZero r.z) (.frec r.x r.y)
  | _ => .error .slot

/-- Two registers, Z unused. -/
def nd2 (mk : BitVec 8 → BitVec 8 → Instr) (r : SlotRaw) : Except DecodeError Instr :=
  ndIf (ndReg r.x && ndReg r.y && ndZero r.z) (mk r.x r.y)
/-- Three registers. -/
def nd3 (mk : BitVec 8 → BitVec 8 → BitVec 8 → Instr) (r : SlotRaw) : Except DecodeError Instr :=
  ndIf (ndReg r.x && ndReg r.y && ndReg r.z) (mk r.x r.y r.z)

/-- The legal kinds and modes of the near-data `cvt` (R339): Z[3:0] 0 to 3, Z[7:6] zero. -/
def ndCvtOk (z : BitVec 8) : Bool := decide ((z.extractLsb' 0 4).toNat ≤ 3) && decide (z.extractLsb' 6 2 = 0)

/-- The arithmetic slot map (R59, R339 to R341). -/
def decodeArith (w : BitVec 32) : Except DecodeError Instr :=
  let r := unpackSlot w
  match r.sop.toNat with
  | 0x00 => ndIf (ndZero r.x && ndZero r.y && ndZero r.z) .ndNop
  | 0x01 => nd2 .ndMov r
  | 0x02 => ndIf (ndReg r.x) (.imm r.x r.y r.z)
  | 0x03 => nd2 .abs r
  | 0x04 => nd2 .neg r
  | 0x10 => nd3 .ndAdd r
  | 0x11 => nd3 .ndSub r
  | 0x12 => nd3 .ndMul r
  | 0x13 => nd3 .fma r
  | 0x14 => nd3 .ndMax r
  | 0x15 => nd3 .ndMin r
  | 0x16 => match VecCc.ofCode (r.x.extractLsb' 5 3).toNat with
    | some cc => ndIf (ndReg r.y && ndReg r.z) (.ndCmp cc (r.x.extractLsb' 0 5) r.y r.z)
    | none => .error .slot
  | 0x17 => nd3 .sel r
  | 0x18 => ndIf (ndReg r.x && ndReg r.y && ndCvtOk r.z) (.cvt r.x r.y (r.z.extractLsb' 4 2) (r.z.extractLsb' 0 4))
  | 0x19 => nd3 .iadd r
  | 0x20 => nd2 .exp2 r
  | 0x21 => nd2 .rcp r
  | 0x28 => nd3 .dot r
  | 0x30 => ndIf (ndReg r.x && ndReg r.y && decide (r.z.toNat ≤ 23)) (.twd r.x r.y r.z)
  | 0x31 => ndIf (ndReg r.x && ndReg r.y && decide (r.z = 2 ∨ r.z = 4 ∨ r.z = 7)) (.b16x r.x r.y r.z)
  | 0x38 => ndIf (ndReg r.x && ndZero r.y && ndZero r.z) (.reed r.x)
  | 0x39 => ndIf (ndReg r.x && decide (r.y.toNat ≤ 1) && ndZero r.z) (.rflush r.x r.y)
  | _ => .error .slot

/-- The write-back slot map (R59, R342). -/
def decodeWb (w : BitVec 32) : Except DecodeError Instr :=
  let r := unpackSlot w
  match r.sop.toNat with
  | 0x00 => ndIf (ndZero r.x && ndZero r.y && ndZero r.z) .wnop
  | 0x01 => ndIf (ndReg r.x && ndPat r.y && ndZero r.z) (.wst r.x r.y)
  | 0x02 => ndIf (ndReg r.x && ndPat r.y) (.wacc r.x r.y r.z)
  | 0x03 => ndIf (ndReg r.x && decide (r.y.toNat ≤ 11) && ndZero r.z) (.wmb r.x r.y)
  | 0x04 => ndIf (ndReg r.x && ndScal r.y && ndZero r.z) (.wrec r.x r.y)
  | _ => .error .slot

/-- The three slot words of a near-data word: fetch, arithmetic, write-back (R58). -/
def slotsOf (w : IWord) : BitVec 32 × BitVec 32 × BitVec 32 := (w.extractLsb' 64 32, w.extractLsb' 32 32, w.extractLsb' 0 32)
/-- The near-data word of its three slot words. -/
def ofSlots (f a b : BitVec 32) : IWord := f ++ a ++ b

/-- Which slot of a near-data word an instruction belongs to. -/
inductive NdSlot where
  | fetch | arith | wb
deriving DecidableEq, Repr

/-- The first slot whose map accepts a slot word, with the instruction it holds there (log entry 3). -/
def decodeSlotWord (w : BitVec 32) : Option (NdSlot × Instr) :=
  match decodeFetch w with
  | .ok i => some (.fetch, i)
  | .error _ =>
    match decodeArith w with
    | .ok i => some (.arith, i)
    | .error _ =>
      match decodeWb w with
      | .ok i => some (.wb, i)
      | .error _ => none

/-- The instruction that the decoder reads from an opcode-table word: 32 bits are a near-data slot word, 96 bits a tile word.
The table's bit numbering is the word's own, the first 32-bit word the least significant. -/
def decodeTableWord (nbits w : Nat) : Option Instr :=
  if nbits = 32 then (decodeSlotWord (BitVec.ofNat 32 w)).map (·.2)
  else if nbits = 96 then
    match decodeWord (BitVec.ofNat 96 w) with
    | .ok i => some i
    | .error _ => none
  else none

/-! ### The encoder, from the same tables (R43, R46, R47, R50 to R59) -/

/-- The control fields placed in a word, with its opcode and form. -/
def rawOf (c : Ctl) (op fmt : Nat) : Raw :=
  { op := BitVec.ofNat 10 op, ga := c.ga, gan := c.gan, gb := c.gb, gbn := c.gbn, cls := c.cls, hint := c.hint,
    pop := c.pop, push := c.push, sched := c.sched, fmt := BitVec.ofNat 3 fmt }

/-- A word with up to five operand slots. -/
def enc (c : Ctl) (op : Nat) (a b x d e : BitVec 10) : Raw := { rawOf c op 0 with a := a, b := b, c := x, d := d, e := e }

/-- A binary arithmetic word (R97). -/
def encBin (c : Ctl) (op : Nat) (a b : BitVec 10) (x : GSrc) : Raw :=
  match x with
  | .reg g => enc c op a b (Slot.ofG g) 0 0
  | .imm7 i => enc c op a b (Slot.ofI i) 0 0
  | .imm20 i => { rawOf c op 1 with a := a, b := b, c := i.extractLsb' 10 10, d := i.extractLsb' 0 10 }

/-- A word whose slots C, D and E hold a 30-bit immediate (FMT 2). -/
def encImm30 (c : Ctl) (op : Nat) (a b : BitVec 10) (i : BitVec 30) : Raw :=
  { rawOf c op 2 with a := a, b := b, c := i.extractLsb' 20 10, d := i.extractLsb' 10 10, e := i.extractLsb' 0 10 }

/-- A load or store word (R110). -/
def encMem (c : Ctl) (op : Nat) (a : BitVec 5) (x : Addr) : Raw :=
  match x with
  | .imm7 b i => enc c op (Slot.ofG a) (Slot.ofG b) (Slot.ofI i) 0 0
  | .idx b g => enc c op (Slot.ofG a) (Slot.ofG b) (Slot.ofG g) 0 0
  | .imm20 b i =>
    { rawOf c op 4 with a := Slot.ofG a, b := Slot.ofG b, d := i.extractLsb' 10 10, e := i.extractLsb' 0 10 }

/-- An atomic word (R116). -/
def encAmo (c : Ctl) (op : Nat) (w : Width) (a b x : BitVec 5) (e : BitVec 7) : Raw :=
  enc c (0x60 + 4 * op + w.code) (Slot.ofG a) (Slot.ofG b) (Slot.ofG x) 0 (Slot.ofI e)

/-- A typed VEC word. -/
def encV (c : Ctl) (base : Nat) (t : VType) (a : VDest) (b x d : BitVec 10) : Raw :=
  enc c (base + t.code) (Slot.ofDest a) b x d 0

/-- The SEQ words. -/
def encodeSeq (i : Instr) : Option Raw :=
  match i with
  | .nop c => some (enc c 0x000 0 0 0 0 0)
  | .trap c n => some (enc c 0x001 (Slot.ofI n) 0 0 0 0)
  | .safept c => some (enc c 0x002 0 0 0 0 0)
  | .climbpt c id => some { rawOf c 0x003 1 with c := id.extractLsb' 10 10, d := id.extractLsb' 0 10 }
  | .exit c => some (enc c 0x004 0 0 0 0 0)
  | .add c a b x => some (encBin c 0x010 (Slot.ofG a) (Slot.ofG b) x)
  | .sub c a b x => some (encBin c 0x011 (Slot.ofG a) (Slot.ofG b) x)
  | .mul c a b x => some (encBin c 0x012 (Slot.ofG a) (Slot.ofG b) x)
  | .mulh c a b x => some (encBin c 0x013 (Slot.ofG a) (Slot.ofG b) x)
  | .div c a b x => some (encBin c 0x014 (Slot.ofG a) (Slot.ofG b) x)
  | .divu c a b x => some (encBin c 0x015 (Slot.ofG a) (Slot.ofG b) x)
  | .rem c a b x => some (encBin c 0x016 (Slot.ofG a) (Slot.ofG b) x)
  | .remu c a b x => some (encBin c 0x017 (Slot.ofG a) (Slot.ofG b) x)
  | .and c a b x => some (encBin c 0x018 (Slot.ofG a) (Slot.ofG b) x)
  | .or c a b x => some (encBin c 0x019 (Slot.ofG a) (Slot.ofG b) x)
  | .xor c a b x => some (encBin c 0x01A (Slot.ofG a) (Slot.ofG b) x)
  | .andn c a b x => some (encBin c 0x01B (Slot.ofG a) (Slot.ofG b) x)
  | .shl c a b x => some (encBin c 0x01C (Slot.ofG a) (Slot.ofG b) x)
  | .shr c a b x => some (encBin c 0x01D (Slot.ofG a) (Slot.ofG b) x)
  | .sra c a b x => some (encBin c 0x01E (Slot.ofG a) (Slot.ofG b) x)
  | .rotl c a b x => some (encBin c 0x01F (Slot.ofG a) (Slot.ofG b) x)
  | .min c a b x => some (encBin c 0x020 (Slot.ofG a) (Slot.ofG b) x)
  | .max c a b x => some (encBin c 0x021 (Slot.ofG a) (Slot.ofG b) x)
  | .minu c a b x => some (encBin c 0x022 (Slot.ofG a) (Slot.ofG b) x)
  | .maxu c a b x => some (encBin c 0x023 (Slot.ofG a) (Slot.ofG b) x)
  | .clz c a b => some (enc c 0x024 (Slot.ofG a) (Slot.ofG b) 0 0 0)
  | .popc c a b => some (enc c 0x025 (Slot.ofG a) (Slot.ofG b) 0 0 0)
  | .extZ c a b n => some (enc c 0x026 (Slot.ofG a) (Slot.ofG b) (Slot.ofI n) 0 0)
  | .extS c a b n => some (enc c 0x027 (Slot.ofG a) (Slot.ofG b) (Slot.ofI n) 0 0)
  | .ldi c a (.imm20 i) =>
    some { rawOf c 0x028 1 with a := Slot.ofG a, c := i.extractLsb' 10 10, d := i.extractLsb' 0 10 }
  | .ldi c a (.imm30 i) => some (encImm30 c 0x028 (Slot.ofG a) 0 i)
  | .ldi c a (.imm40 i) =>
    some { rawOf c 0x028 3 with
      a := Slot.ofG a, b := i.extractLsb' 30 10, c := i.extractLsb' 20 10, d := i.extractLsb' 10 10, e := i.extractLsb' 0 10 }
  | .mov c a x => some (enc c 0x029 (Slot.ofG a) (Slot.ofGOrB x) 0 0 0)
  | .cmp c cc p b x => some (encBin c (0x030 + cc.code) (Slot.ofP p) (Slot.ofG b) x)
  | .pand c a b p => some (enc c 0x040 (Slot.ofP a) (Slot.ofP b) (Slot.ofP p) 0 0)
  | .por c a b p => some (enc c 0x041 (Slot.ofP a) (Slot.ofP b) (Slot.ofP p) 0 0)
  | .pxor c a b p => some (enc c 0x042 (Slot.ofP a) (Slot.ofP b) (Slot.ofP p) 0 0)
  | .pnot c a b => some (enc c 0x043 (Slot.ofP a) (Slot.ofP b) 0 0 0)
  | .pmov c a b => some (enc c 0x044 (Slot.ofP a) (Slot.ofP b) 0 0 0)
  | .ptgLabel c b addr => some (encImm30 c 0x048 (Slot.ofB b) 0 addr)
  | .ptgReg c b g => some (enc c 0x048 (Slot.ofB b) (Slot.ofG g) 0 0 0)
  | .br c b p d => some (enc c 0x049 (Slot.ofB b) (Slot.ofP p) (Slot.ofI d) 0 0)
  | .brl c b p d => some (enc c 0x04A (Slot.ofB b) (Slot.ofP p) (Slot.ofI d) 0 0)
  | .ld c w a x => some (encMem c (0x050 + w.code) a x)
  | .st c w a x => some (encMem c (0x054 + w.code) a x)
  | .cas c w a b x y e => some (enc c (0x058 + w.code) (Slot.ofG a) (Slot.ofG b) (Slot.ofG x) (Slot.ofG y) (Slot.ofI e))
  | .amoAdd c w a b x e => some (encAmo c 0 w a b x e)
  | .amoAnd c w a b x e => some (encAmo c 1 w a b x e)
  | .amoOr c w a b x e => some (encAmo c 2 w a b x e)
  | .amoXor c w a b x e => some (encAmo c 3 w a b x e)
  | .amoMin c w a b x e => some (encAmo c 4 w a b x e)
  | .amoMax c w a b x e => some (encAmo c 5 w a b x e)
  | .amoMinu c w a b x e => some (encAmo c 6 w a b x e)
  | .amoMaxu c w a b x e => some (encAmo c 7 w a b x e)
  | .amoSwap c w a b x e => some (encAmo c 8 w a b x e)
  | .amoFaddF32 c a b x e => some (enc c 0x086 (Slot.ofG a) (Slot.ofG b) (Slot.ofG x) 0 (Slot.ofI e))
  | .fence c o sc m =>
    some { rawOf c 0x05C 4 with a := Slot.ofI o, b := Slot.ofI sc, d := m.extractLsb' 10 10, e := m.extractLsb' 0 10 }
  | .barInit c a x e => some (enc c 0x090 (Slot.ofG a) (Slot.ofGOrImm x) 0 0 (Slot.ofI e))
  | .barArrive c a b x e => some (enc c 0x091 (Slot.ofG a) (Slot.ofG b) (Slot.ofG x) 0 (Slot.ofI e))
  | .barWait c a b e => some (enc c 0x092 (Slot.ofG a) (Slot.ofG b) 0 0 (Slot.ofI e))
  | .waitany c a m => some (enc c 0x093 (Slot.ofG a) (Slot.ofGOrImm m) 0 0 0)
  | .waitall c m => some (enc c 0x094 (Slot.ofGOrImm m) 0 0 0 0)
  | .ffready c a m => some (enc c 0x095 (Slot.ofG a) (Slot.ofGOrImm m) 0 0 0)
  | .tagclr c m => some (enc c 0x096 (Slot.ofGOrImm m) 0 0 0 0)
  | .run c e n g h => some (encImm30 c (0x098 + e.code) (Slot.ofI n) (Slot.ofG g) h)
  | .runLoop c e n g h x =>
    some { rawOf c (0x0A0 + e.code) 1 with
      a := Slot.ofI n, b := Slot.ofG g, c := h.extractLsb' 10 10, d := h.extractLsb' 0 10, e := Slot.ofI x }
  | .popEng c e a => some (enc c (0x0A8 + e.code) (Slot.ofG a) 0 0 0 0)
  | .popP c p => some (enc c 0x0AC (Slot.ofP p) 0 0 0 0)
  | .tokPush c q n => some (enc c 0x0AD (Slot.ofI q) (Slot.ofI n) 0 0 0)
  | .tokPop c q n => some (enc c 0x0AE (Slot.ofI q) (Slot.ofI n) 0 0 0)
  | .spawn c a b => some (enc c 0x0B0 (Slot.ofG a) (Slot.ofG b) 0 0 0)
  | .kick c a b => some (enc c 0x0B1 (Slot.ofG a) (Slot.ofG b) 0 0 0)
  | .getsr c a sr t => some (enc c 0x0B2 (Slot.ofG a) (Slot.ofSr sr) (match t with
      | some g => Slot.ofG g
      | none => 0) 0 0)
  | .setsr c sr x => some (enc c 0x0B3 (Slot.ofSr sr) (Slot.ofGOrImm x) 0 0 0)
  | .tstamp c a => some (enc c 0x0B4 (Slot.ofG a) 0 0 0 0)
  | .ovfLoad c a => some (enc c 0x0C0 (Slot.ofG a) 0 0 0 0)
  | .cardLoad c a b => some (enc c 0x0C1 (Slot.ofG a) (Slot.ofG b) 0 0 0)
  | .objsync c => some (enc c 0x0C2 0 0 0 0 0)
  | .xlinv c a m => some (enc c 0x0C3 (Slot.ofG a) (Slot.ofI m) 0 0 0)
  | .sysret c => some (enc c 0x0C4 0 0 0 0 0)
  | .ctxFence c => some (enc c 0x0C5 0 0 0 0 0)
  | _ => none

/-- The STR words. -/
def encodeStr (i : Instr) : Option Raw :=
  match i with
  | .sbind c s d kc kd => some (enc c 0x100 (Slot.ofS s) (Slot.ofI d) (Slot.ofOptK kc) (Slot.ofOptK kd) 0)
  | .sbindTw c s d kc kd => some (enc c 0x101 (Slot.ofS s) (Slot.ofI d) (Slot.ofOptK kc) (Slot.ofOptK kd) 0)
  | .sbindB16 c s d kc kd => some (enc c 0x102 (Slot.ofS s) (Slot.ofI d) (Slot.ofOptK kc) (Slot.ofOptK kd) 0)
  | .sunbind c s t => some (enc c 0x103 (Slot.ofS s) (Slot.ofI t) 0 0 0)
  | .sseek c s x => some (enc c 0x104 (Slot.ofS s) (Slot.ofKOrImm x) 0 0 0)
  | .scopy c t kd ks n => some (enc c 0x105 (Slot.ofI t) (Slot.ofK kd) (Slot.ofK ks) (Slot.ofKOrImm n) 0)
  | .scopy2d c t kd ks kg kh => some (enc c 0x106 (Slot.ofI t) (Slot.ofK kd) (Slot.ofK ks) (Slot.ofK kg) (Slot.ofK kh))
  | .sfill c t kd n kv => some (enc c 0x107 (Slot.ofI t) (Slot.ofK kd) (Slot.ofKOrImm n) (Slot.ofK kv) 0)
  | .sgather c t kd ks ki kg => some (enc c 0x108 (Slot.ofI t) (Slot.ofK kd) (Slot.ofK ks) (Slot.ofK ki) (Slot.ofK kg))
  | .sscatter c t kd ks ki kg => some (enc c 0x109 (Slot.ofI t) (Slot.ofK kd) (Slot.ofK ks) (Slot.ofK ki) (Slot.ofK kg))
  | .sprefetch c k n => some (enc c 0x10A (Slot.ofK k) (Slot.ofKOrImm n) 0 0 0)
  | .spromote c t kt kc => some (enc c 0x10B (Slot.ofI t) (Slot.ofK kt) (Slot.ofK kc) 0 0)
  | .spin c k n => some (enc c 0x10C (Slot.ofK k) (Slot.ofKOrImm n) 0 0 0)
  | .sunpin c k n => some (enc c 0x10D (Slot.ofK k) (Slot.ofKOrImm n) 0 0 0)
  | .stwenc c t kd ks kp kq => some (enc c 0x10E (Slot.ofI t) (Slot.ofK kd) (Slot.ofK ks) (Slot.ofK kp) (Slot.ofK kq))
  | .sscale c k n => some (enc c 0x10F (Slot.ofK k) (Slot.ofKOrImm n) 0 0 0)
  | .slzput c t kl ks n kc => some (enc c 0x110 (Slot.ofI t) (Slot.ofK kl) (Slot.ofK ks) (Slot.ofKOrImm n) (Slot.ofK kc))
  | .sresume c k => some (enc c 0x13E (Slot.ofK k) 0 0 0 0)
  | _ => none

/-- The MTX words. -/
def encodeMtx (i : Instr) : Option Raw :=
  match i with
  | .mma c f m n a sa sb d =>
    some (enc c (0x2C0 + 16 * f.code + 4 * m.toNat + n.toNat) (Slot.ofAcc a) (Slot.ofS sa) (Slot.ofBSrc sb) (Slot.ofI d) 0)
  | .mmaCoop c f m n sa sb d q =>
    some (enc c (0x360 + 8 * f.code + 2 * m.toNat + n.toNat) (Slot.ofAcc 0) (Slot.ofS sa) (Slot.ofBSrc sb) (Slot.ofI d)
      (Slot.ofKOrImm q))
  | .mmaReed c f m sa sb d =>
    some (enc c (0x3B0 + 4 * f.code + m.toNat) (Slot.ofAcc 0) (Slot.ofS sa) (Slot.ofBSrc sb) (Slot.ofI d) 0)
  | .accZero c a n m => some (enc c 0x3D8 (Slot.ofAcc a) (Slot.ofI n) (Slot.ofI m) 0 0)
  | .accScale c a n b r k => some (enc c 0x3D9 (Slot.ofAcc a) (Slot.ofI n) (Slot.ofI b) (Slot.ofI r) (Slot.ofK k))
  | .accRd c v a b => some (enc c 0x3DA (Slot.ofV v) (Slot.ofAcc a) (Slot.ofI b) 0 0)
  | .accWr c a v b => some (enc c 0x3DB (Slot.ofAcc a) (Slot.ofV v) (Slot.ofI b) 0 0)
  | .accFlush c b r => some (enc c 0x3DC (Slot.ofAcc 0) (Slot.ofI b) (Slot.ofI r) 0 0)
  | .mpre c s f n => some (enc c 0x3DD (Slot.ofS s) (Slot.ofI f) (Slot.ofI n) 0 0)
  | .msync c => some (enc c 0x3DE 0 0 0 0 0)
  | _ => none

/-- The VEC words. -/
def encodeVec (i : Instr) : Option Raw :=
  match i with
  | .vadd c t a b x => some (encV c 0x140 t a (Slot.ofSrc b) (Slot.ofSrc x) 0)
  | .vsub c t a b x => some (encV c 0x148 t a (Slot.ofSrc b) (Slot.ofSrc x) 0)
  | .vmul c t a b x => some (encV c 0x150 t a (Slot.ofSrc b) (Slot.ofSrc x) 0)
  | .vfma c t a b x y => some (encV c 0x158 t a (Slot.ofSrc b) (Slot.ofSrc x) (Slot.ofSrc y))
  | .vfms c t a b x y => some (encV c 0x160 t a (Slot.ofSrc b) (Slot.ofSrc x) (Slot.ofSrc y))
  | .vnfma c t a b x y => some (encV c 0x168 t a (Slot.ofSrc b) (Slot.ofSrc x) (Slot.ofSrc y))
  | .vmin c t a b x => some (encV c 0x170 t a (Slot.ofSrc b) (Slot.ofSrc x) 0)
  | .vmax c t a b x => some (encV c 0x178 t a (Slot.ofSrc b) (Slot.ofSrc x) 0)
  | .vabs c t a b => some (encV c 0x180 t a (Slot.ofSrc b) 0 0)
  | .vneg c t a b => some (encV c 0x188 t a (Slot.ofSrc b) 0 0)
  | .vcopysign c t a b x => some (encV c 0x190 t a (Slot.ofSrc b) (Slot.ofSrc x) 0)
  | .viadd c t a b x => some (encV c 0x198 t a (Slot.ofSrc b) (Slot.ofSrc x) 0)
  | .visub c t a b x => some (encV c 0x1A0 t a (Slot.ofSrc b) (Slot.ofSrc x) 0)
  | .vimul c t a b x => some (encV c 0x1A8 t a (Slot.ofSrc b) (Slot.ofSrc x) 0)
  | .vand c t a b x => some (encV c 0x1B0 t a (Slot.ofSrc b) (Slot.ofSrc x) 0)
  | .vor c t a b x => some (encV c 0x1B8 t a (Slot.ofSrc b) (Slot.ofSrc x) 0)
  | .vxor c t a b x => some (encV c 0x1C0 t a (Slot.ofSrc b) (Slot.ofSrc x) 0)
  | .vshl c t a b x => some (encV c 0x1C8 t a (Slot.ofSrc b) (Slot.ofSrc x) 0)
  | .vshr c t a b x => some (encV c 0x1D0 t a (Slot.ofSrc b) (Slot.ofSrc x) 0)
  | .vsra c t a b x => some (encV c 0x1D8 t a (Slot.ofSrc b) (Slot.ofSrc x) 0)
  | .vimin c t a b x => some (encV c 0x1E0 t a (Slot.ofSrc b) (Slot.ofSrc x) 0)
  | .vimax c t a b x => some (encV c 0x1E8 t a (Slot.ofSrc b) (Slot.ofSrc x) 0)
  | .vcmp c cc t p b x => some (enc c (0x1F0 + 8 * cc.code + t.code) (Slot.ofP p) (Slot.ofSrc b) (Slot.ofSrc x) 0 0)
  | .vsel c t a p x y => some (encV c 0x220 t a (Slot.ofP p) (Slot.ofSrc x) (Slot.ofSrc y))
  | .vexp2 c t a b => some (encV c 0x228 t a (Slot.ofSrc b) 0 0)
  | .vexp c t a b => some (encV c 0x230 t a (Slot.ofSrc b) 0 0)
  | .vlog2 c t a b => some (encV c 0x238 t a (Slot.ofSrc b) 0 0)
  | .vrcp c t a b => some (encV c 0x240 t a (Slot.ofSrc b) 0 0)
  | .vrsqrt c t a b => some (encV c 0x248 t a (Slot.ofSrc b) 0 0)
  | .vsqrt c t a b => some (encV c 0x250 t a (Slot.ofSrc b) 0 0)
  | .vtanh c t a b => some (encV c 0x258 t a (Slot.ofSrc b) 0 0)
  | .vredSumRow c t a b => some (encV c 0x260 t a (Slot.ofSrc b) 0 0)
  | .vredSumCol c t a b => some (encV c 0x268 t a (Slot.ofSrc b) 0 0)
  | .vredMaxRow c t a b => some (encV c 0x270 t a (Slot.ofSrc b) 0 0)
  | .vredMaxCol c t a b => some (encV c 0x278 t a (Slot.ofSrc b) 0 0)
  | .vredMaxsumRow c t a b x y => some (enc c (0x280 + t.code) (Slot.ofV a) (Slot.ofV b) (Slot.ofSrc x) (Slot.ofSrc y) 0)
  | .vredMaxsumCol c t a b x y => some (enc c (0x288 + t.code) (Slot.ofV a) (Slot.ofV b) (Slot.ofSrc x) (Slot.ofSrc y) 0)
  | .vcvt c f t m a b =>
    some (enc c 0x290 (Slot.ofDest a) (Slot.ofSrc b) (Slot.ofI (BitVec.ofNat 7 f.code)) (Slot.ofI (BitVec.ofNat 7 t.code))
      (Slot.ofI (BitVec.ofNat 7 m.code)))
  | .vmov c a b => some (enc c 0x298 (Slot.ofDest a) (Slot.ofSrc b) 0 0 0)
  | .vld c a s => some (enc c 0x299 (Slot.ofDest a) (Slot.ofS s) 0 0 0)
  | .vst c s b => some (enc c 0x29A (Slot.ofS s) (Slot.ofVReg b) 0 0 0)
  | .vshapeImm c i => some { rawOf c 0x29B 4 with d := i.extractLsb' 10 10, e := i.extractLsb' 0 10 }
  | .vshapeK c k => some (enc c 0x29B (Slot.ofK k) 0 0 0 0)
  | .vbcast c x a b m => some (enc c (0x29C + x.code) (Slot.ofDest a) (Slot.ofSrc b) (Slot.ofI m) 0 0)
  | .vtrn c x a b => some (enc c (0x2A0 + x.code) (Slot.ofDest a) (Slot.ofSrc b) 0 0 0)
  | .vperm c x a b y => some (enc c (0x2A4 + x.code) (Slot.ofDest a) (Slot.ofSrc b) (Slot.ofSrc y) 0 0)
  | .vpand c a b p => some (enc c 0x2A8 (Slot.ofP a) (Slot.ofP b) (Slot.ofP p) 0 0)
  | .vpor c a b p => some (enc c 0x2A9 (Slot.ofP a) (Slot.ofP b) (Slot.ofP p) 0 0)
  | .vpxor c a b p => some (enc c 0x2AA (Slot.ofP a) (Slot.ofP b) (Slot.ofP p) 0 0)
  | .vpnot c a b => some (enc c 0x2AB (Slot.ofP a) (Slot.ofP b) 0 0 0)
  | .vpcount c a => some (enc c 0x2AC (Slot.ofP a) 0 0 0 0)
  | .voteAny c a => some (enc c 0x2AD (Slot.ofP a) 0 0 0 0)
  | .voteAll c a => some (enc c 0x2AE (Slot.ofP a) 0 0 0 0)
  | .vext c a r x => some (enc c 0x2AF (Slot.ofVReg a) (Slot.ofKOrImm r) (Slot.ofKOrImm x) 0 0)
  | _ => none

/-- The fields of a tile instruction's word; none for a near-data operation or a happening, which have no tile word. -/
def encodeRaw (i : Instr) : Option Raw :=
  match encodeSeq i with
  | some r => some r
  | none =>
    match encodeStr i with
    | some r => some r
    | none =>
      match encodeMtx i with
      | some r => some r
      | none => encodeVec i

/-- A slot word. -/
def slot (sop : Nat) (x y z : BitVec 8) : Option SlotRaw := some { sop := BitVec.ofNat 8 sop, x := x, y := y, z := z }

/-- The slot word of a near-data operation (R59). -/
def encodeSlotRaw (i : Instr) : Option SlotRaw :=
  match i with
  | .fnop => slot 0x00 0 0 0
  | .fld x y => slot 0x01 x y 0
  | .fldp x y => slot 0x02 x y 0
  | .fnext y => slot 0x03 0 y 0
  | .frec x y => slot 0x04 x y 0
  | .ndNop => slot 0x00 0 0 0
  | .ndMov x y => slot 0x01 x y 0
  | .imm x y z => slot 0x02 x y z
  | .abs x y => slot 0x03 x y 0
  | .neg x y => slot 0x04 x y 0
  | .ndAdd x y z => slot 0x10 x y z
  | .ndSub x y z => slot 0x11 x y z
  | .ndMul x y z => slot 0x12 x y z
  | .fma x y z => slot 0x13 x y z
  | .ndMax x y z => slot 0x14 x y z
  | .ndMin x y z => slot 0x15 x y z
  | .ndCmp cc x y z => slot 0x16 ((BitVec.ofNat 3 cc.code) ++ x) y z
  | .sel x y z => slot 0x17 x y z
  | .cvt x y m k => slot 0x18 x y ((0 : BitVec 2) ++ m ++ k)
  | .iadd x y z => slot 0x19 x y z
  | .exp2 x y => slot 0x20 x y 0
  | .rcp x y => slot 0x21 x y 0
  | .dot x y z => slot 0x28 x y z
  | .twd x y z => slot 0x30 x y z
  | .b16x x y z => slot 0x31 x y z
  | .reed x => slot 0x38 x 0 0
  | .rflush x y => slot 0x39 x y 0
  | .wnop => slot 0x00 0 0 0
  | .wst x y => slot 0x01 x y 0
  | .wacc x y z => slot 0x02 x y z
  | .wmb x y => slot 0x03 x y 0
  | .wrec x y => slot 0x04 x y 0
  | _ => none

/-- The slot a near-data operation stands in (R59). -/
def slotKind (i : Instr) : Option NdSlot :=
  match i with
  | .fnop | .fld _ _ | .fldp _ _ | .fnext _ | .frec _ _ => some .fetch
  | .wnop | .wst _ _ | .wacc _ _ _ | .wmb _ _ | .wrec _ _ => some .wb
  | i => (encodeSlotRaw i).map (fun _ => .arith)

/-- The decoder of the slot a near-data operation stands in. -/
def decodeSlotAs (k : NdSlot) (w : BitVec 32) : Except DecodeError Instr :=
  match k with
  | .fetch => decodeFetch w
  | .arith => decodeArith w
  | .wb => decodeWb w

/-- The words of an instruction as one number, first word least significant: 96 bits for a tile instruction, 32 for a near-data
slot operation, none for a happening, which is no instruction of any stream. -/
def encode (i : Instr) : Option Nat :=
  match encodeRaw i with
  | some r => some (pack r).toNat
  | none =>
    match encodeSlotRaw i with
    | some r => some (packSlot r).toNat
    | none => none

/-! ### Fields that every consumer of an instruction reads -/

/-- The control fields of a tile instruction; the default for a near-data operation or a happening. -/
def Instr.ctl (i : Instr) : Ctl :=
  match encodeRaw i with
  | some r => ctlOf r
  | none => {}

/-- The opcode of a tile instruction. -/
def Instr.opcode (i : Instr) : Option (BitVec 10) := (encodeRaw i).map (·.op)

end Sys2Proof
end

