-- ==== Sys2Proof/Config.lean ====
section
/-! DEFINITION. What one module's build fixes, and the free values: the values the manual leaves open. A free value is an
opaque constant, so nothing can be proved of it; a claim that holds, holds whatever it is. Each is named in the assumption log. -/
namespace Sys2Proof.Config

/-! ### Figures of R1 and R15 -/

/-- Tiles in the package (R1). -/
def numTiles : Nat := 384
/-- Shuttle slots of a tile (R15). -/
def shuttleSlots : Nat := 4
/-- Bytes of a tile's SRAM array (R1). -/
def sramBytes : Nat := 1048576
/-- Bytes of a seal tile (R1). -/
def sealTileBytes : Nat := 6144
/-- Bytes of a sector of L2, of a copy, of poison (R1, R162, R382). -/
def sectorBytes : Nat := 48
/-- Bytes of an L1 or L2 line (R1, R288). -/
def lineBytes : Nat := 192
/-- Bytes of a base translation frame (R369). -/
def frameBytes : Nat := 98304
/-- Physical frames of 96 KiB in the package (R355). -/
def physFrames : Nat := 5570560
/-- Physical seal tiles: 64 to each base frame divided by 4 (98,304 / 6,144 = 16 tiles a frame) (R355). -/
def physTiles : Nat := physFrames * 16
/-- VA of the team window (R286). -/
def teamWindow : Nat := 0xFFFFFF80000000
/-- VA of the local range (R289). -/
def localRange : Nat := 0xFFFFFFFFF00000
/-- First VA of the fabric windows (R413). -/
def fabricBase : Nat := 0x80000000000000

/-! ### Values each module fixes (R94 "configuration", R410, R414 step 4) -/

/-- FEATURES as the signed configuration blocks set it, where every signature verifies (R410, R414). Free: the manual gives no value. -/
opaque features : BitVec 4
/-- By how many thousandths a reduced tile clock's period is longer (R415). Free: the manual gives no figure. -/
opaque slowdown : Nat
/-- DROOPTHR's reset value (R94, R416). Free within the bounds that R416 states. -/
opaque droopThreshold : BitVec 8
/-- The module's firmware measurement (R414, R418), 64 bytes read as one little-endian number. -/
opaque firmwareMeasurement : BitVec 512
/-- The measurement of the configuration blocks (R414, R418). -/
opaque configMeasurement : BitVec 512
/-- Byte i of the signature over the 256 bytes of an attestation report, given as a number (R417, R418): SLH-DSA under a key the manual does not
give. -/
opaque signatureByte : Nat → Nat → Byte
/-- The size of a signature of SLH-DSA-SHAKE-256f (R417): that of its standard (PRESUMED, log entry 125). -/
def signatureSize : Nat := 49856
/-- The signature over a report. -/
def attestationSignature (body : Nat) : List Byte := (List.range signatureSize).map (signatureByte body)

/-- The identity this module sends with its release flags (R352). Free: the manual gives no value. -/
opaque senderId : BitVec 16

/-! ### Free values of the manual -/

/-- The leading 64 bits of the GCM tag of a seal (R377, R378): the key is the module's own secret.
The arguments are the contents sealed, then owner, generation, version, physical tile and STATE. -/
opaque sealTag : List Byte → Nat → Nat → Nat → Nat → Nat → BitVec 64
/-- Which of two permitted readings an access takes where the manual allows either: a stale or the fresh translation or object
entry (R145, R372), any entry of an unequal group (R370). The argument is the machine's free counter. -/
opaque chooseStale : Nat → Bool
/-- Which 32-bit elements of an unsynchronised read of a named tile come from the old contents (R9, R185). -/
opaque oldElements : Nat → BitVec 256
/-- A choice among the members of a permitted set that the manual leaves open, as a natural number to be reduced. -/
opaque choose : Nat → Nat
/-- The byte that a read of another tenant's sealed bytes gives, where the manual says only that it is garbage (R377, R385). The
argument is the address. -/
opaque freeByte : Nat → Byte

/-- The set of the memory-side cache of its stack that a seal tile belongs to (R356): the manual gives 16 ways and no index. -/
opaque mscSet : Nat → Nat
/-- The block of its channel in which a frame of NAND lies (R359, R361): the manual does not place frames in blocks. -/
opaque nandBlock : Nat → Nat
/-- The spare block of a channel to which the frames of a retired one are rewritten (R362), by the number of the repair. -/
opaque spareBlock : Nat → Nat

end Sys2Proof.Config
end

