-- ==== Sys2Proof/Machine/Flags.lean ====
section
/-! DEFINITION. The five floating-point flags (R96, R213) as one five-bit value: bit 0 NV, 1 DZ, 2 OF, 3 UF, 4 NX. -/
namespace Sys2Proof.Machine

/-- The flags of FPFLAGS bits [4:0] (R96). -/
abbrev FpFlags := BitVec 5

namespace Flag
/-- No flag. -/
def none : FpFlags := 0
/-- Invalid operation. -/
def nv : FpFlags := 1
/-- Divide by zero. -/
def dz : FpFlags := 2
/-- Overflow. -/
def ofl : FpFlags := 4
/-- Underflow: a tiny result that is also inexact. -/
def uf : FpFlags := 8
/-- Inexact. -/
def nx : FpFlags := 16
end Flag

/-- Raise a flag when a condition holds. -/
def raiseIf (b : Bool) (f : FpFlags) : FpFlags := if b then f else 0

/-- The flags of a list of results, raised together (R255: once per instruction, over every node). -/
def joinFlags (l : List FpFlags) : FpFlags := l.foldr (· ||| ·) 0

/-- FPFLAGS after raising flags into it: they are sticky, and the reserved bits keep reading 0 (R96). -/
def raiseInto (fpflags : Word) (f : FpFlags) : Word := fpflags ||| f.setWidth 64

/-- A value written to FPFLAGS by `setsr`: the reserved bits are ignored (R96, R3). -/
def fpflagsWritable (v : Word) : Word := v &&& 31

/-- DROOPTHR as stored: a threshold outside 10 to 80 as the nearest bound (R416). -/
def clampDroop (v : Word) : BitVec 8 := BitVec.ofNat 8 (Nat.max 10 (Nat.min 80 (v.toNat % 256)))

end Sys2Proof.Machine
end

