-- ==== Sys2Proof/Machine/State.lean ====
section
/-! DEFINITION. The state of the module as plain data: everything the manual gives the machine, in sub-structures by the unit that
holds it, the state after reset, and the reasons a step can stop. Every field cites the rule that names it; INVENTORY.md lists
them with their reset values. Numbers that software reads or writes as words are bit vectors; counts, positions and addresses are
natural numbers; a thing that may be absent is an Option; a register file is a Vector. -/
namespace Sys2Proof.Machine

/-- Memory: (address, byte) pairs, addresses strictly rising, no byte 0 listed. An unlisted address reads 0 (R377). -/
abbrev Mem := List Host.Cell

/-! ### Faults and records -/

/-- The fault codes of R374. -/
inductive Code where
  | illegal | priv | divergent | rights | bounds | xlate | hostpage | integrity | poison | sealwrap | codedwrite | overrate
  | footprint | coop | trip | barover | mismatch | watchdog
deriving DecidableEq, Repr

/-- A fault record (R373). The fields hold the "none" value of their row where they do not apply. VER, which R143 says records copy, has no
place in R373's layout (DEDUCED, log entry 81). -/
structure FaultRec where
  code : Code := .illegal
  eng : Nat := 0
  warn : Bool := false
  ndTierM : Bool := false
  tenant : Nat := 0
  stream : Nat := 0xFF
  vtile : Nat := 0xFFFF
  ptile : Nat := 0xFFFF
  team : Nat := 0
  seqno : Nat := 0
  codepos : Nat := 0xFFFFFFFF
  card : Nat := 0xFF
  tag : Nat := 0xFF
  obj : Nat := 0xFFFF
  va : Nat := 0
  cpos : Nat := 0
  spos : Nat := 0
  sealed : Nat := 0
  tagBytes : Nat := 0
  aux : Nat := 0
deriving DecidableEq, Repr

/-! ### Agents and happenings -/

/-- Who takes a step: a sequencer, an engine of a shuttle, a near-data unit. -/
inductive Agent where
  | seq (p : Place)
  | eng (p : Place) (e : Eng)
  | nd (unit : Nat)
deriving DecidableEq, Repr

/-- An entry of the agenda: an agent's next instruction, or a happening. -/
inductive Happening where
  | issue (a : Agent)
  | event (i : Instr)
deriving DecidableEq, Repr

/-! ### A shuttle -/

/-- A SEQ destination: a g register or one of p1 to p15 (R89). -/
inductive SeqDest where
  | g (r : BitVec 5)
  | p (r : BitVec 6)
deriving DecidableEq, Repr

/-- A SEQ result that has not landed (R23, R91): the cycle in which its instruction issued, and the queue of the token that the
instruction pushes once it has landed, 0 for none (R20). -/
structure Pend where
  dest : SeqDest
  val : Word
  land : Nat
  issue : Nat := 0
  push : Nat := 0
deriving DecidableEq, Repr

/-- A b register: a code address, and whether it came from a g register (R103). -/
structure BReg where
  addr : Word := 0
  fromG : Bool := false
deriving DecidableEq, Repr

/-- A physical place of bytes: device memory by physical address, a tile's scratchpad, host memory, a fabric window (R288, R413). -/
inductive Loc where
  | dev (pa : Nat)
  | scratch (tile off : Nat)
  | host (a : Nat)
  | fabric (window off : Nat)
deriving DecidableEq, Repr

/-- How an access uses the L2 (R370): allocate its lines, and keep them; the MSC policy. A speculative one makes nothing dirty leave (R154). -/
structure Policy where
  alloc : Bool := true
  keep : Bool := false
  msc : Nat := 0
  spec : Bool := false
deriving DecidableEq, Repr

/-- A SEQ store that has issued and not performed (R112, R113), with the policy that its leaf and its HINT gave it (R43, R370). -/
structure PStore where
  loc : Loc
  bytes : List Byte
  cls : Nat
  va : Nat
  pol : Policy := {}
  /-- The classes, as a mask, of the shuttle's own loads that have returned its bytes: a release over one of them covers it (R296). -/
  obs : Nat := 0
  /-- The scope, by its code, of the widest release that has covered it while it stands for the agents outside that scope (R294). -/
  vis : Option Nat := none
deriving DecidableEq, Repr

/-- A command-queue entry (R18). `before` counts the entries of STR, VEC and MTX pushed before it (R24); `ovf` is the overflow
table in force at the push (R135). -/
structure Entry where
  head : Nat := 0
  lines : Nat := 1
  k0 : Word := 0
  k1 : Word := 0
  k2 : Word := 0
  k3 : Word := 0
  preds : BitVec 16 := 0
  priv : Bool := false
  loop : Option Nat := none
  ovf : BitVec 10 := 0
  before : Nat × Nat × Nat := (0, 0, 0)
deriving DecidableEq, Repr

/-- What a waiting sequencer waits for (R20, R22, R28, R124, R126, R130). -/
inductive Wait where
  /-- The POP field's token. -/
  | popTok (q : Nat)
  /-- Room for the PUSH field's token: every effect is done. -/
  | pushTok (q : Nat)
  /-- Room for the token of the instruction that issued in a cycle, whose result has yet to land or has landed (R20, R23). -/
  | pushRes (q issue : Nat)
  /-- The acknowledgement of the store that carries the PUSH, then room for its token (R20, R112). -/
  | pushAck (q : Nat)
  | tokPop (q n : Nat)
  | tokPush (q n : Nat)
  /-- Room in a command queue for the entry of a `run` with this first register, head and line count, and the x of a `run.loop`; the entry is made
  when it is pushed (R126, R127, R135). -/
  | cmd (e : Eng) (g : BitVec 5) (head lines : Nat) (loop : Option Nat)
  /-- An element in an output FIFO. -/
  | fifo (e : Eng) (d : SeqDest)
  | bar (a : BitVec 5) (va : Nat)
  | tagAny (d : BitVec 5) (mask : Word)
  | tagAll (mask : Word)
  /-- Step 1 of `exit`, a safe point (R28, R109). -/
  | exit
  /-- A condition that re-issue tests again: entries, copies, drains, the other side of a pair, a line crossing. -/
  | retry
  /-- The acknowledgement of the stores issued before an instruction that traps with this code, VA and record (R26, R92, R112). -/
  | drain (code : Code) (va : Nat) (write : Bool) (r : FaultRec)
deriving DecidableEq, Repr

/-- The entry an engine is running. -/
structure Cur where
  entry : Entry := {}
  /-- The image line and slot of the next instruction (R18). -/
  line : Nat := 0
  slot : Nat := 0
  /-- Lines left, this one included. -/
  left : Nat := 1
  /-- The line in hand, as its fetch read it (R42). -/
  hand : Option (BitVec 512) := none
  /-- MODE of the head line: interlocked (R24). -/
  inter : Bool := true
  /-- The step of a loop body, and its stage count S (R27). -/
  iter : Nat := 0
  stages : Nat := 1
  /-- The POP of the next instruction is done; its effects are done and it waits to push (R20). -/
  popped : Bool := false
  bodyDone : Bool := false
  /-- Control fields of an instruction that waits. -/
  ctl : Ctl := {}
  /-- Cycles counted against the watchdog (R71). -/
  spent : Nat := 0
  /-- The instruction in hand has been found not ready since it was reached (R17); the last wait it met is one that the budget leaves out (R71). -/
  stalled : Bool := false
  holds : Bool := false
  /-- An output `sunbind` has taken its tag and waits for its stream to drain (R12, R168). -/
  begun : Bool := false
  /-- The deck captured at the start (R283). -/
  deck : List (BitVec 512) := []
  /-- Original instructions of a withdrawn group still to issue unmatched (R280), and the card it names. -/
  withheld : Nat := 0
  card : Option Nat := none
  /-- The parked stream behind which the first original of a withdrawn group waits (R267). -/
  behind : Option (BitVec 4) := none
  /-- The cycles that an `mma.coop` has waited for partners since its issue (R195), its opcode and sequence number, and whether the group
  has matched. -/
  coopAt : Option Nat := none
  coopKey : Nat × Nat := (0, 0)
  /-- The operands of an `mma.coop` that waits: its A stream, its B operand, its row block (R196, R221). -/
  coopOps : BitVec 4 × BSrc × Nat := (0, .panel, 0)
  coopMatched : Bool := false
  /-- It stood in a group when a participant's wait came to the limit: its entry aborts with that participant's (R195). -/
  coopLost : Bool := false
  /-- The entry is aborted, and completes once the record of this number is written (R375). -/
  aborting : Option Nat := none
deriving DecidableEq, Repr

/-- One engine's queue, current entry, output FIFO and clock, for one shuttle (R15, R18, R22). -/
structure EngQ where
  queue : List Entry := []
  cur : Option Cur := none
  fifo : List Word := []
  /-- Entries pushed and entries completed since the shuttle started (R24). -/
  pushed : Nat := 0
  done : Nat := 0
  /-- MODE of the previous entry (R24). -/
  lastInter : Option Bool := none
  /-- The engine's issue clock for the shuttle. -/
  clock : Nat := 0
deriving DecidableEq, Repr

/-- The element formats a block delivers (R148, R149). B16M elements are delivered as the FP32 encodings of their exact values. -/
inductive DFmt where
  | f32 | bf16 | f16 | e4m3 | e5m2 | i32 | i16 | i8 | u8 | b16m7 | b16m4 | b16m2 | i4
deriving DecidableEq, Repr

/-- A fault held on a block (R156). -/
structure Held where
  code : Code
  va : Nat
  /-- AUX of the record, and whether a Page Request would ask to write (R365, R373). -/
  aux : Nat := 0
  write : Bool := false
deriving DecidableEq, Repr

/-- A block of a stream: element encodings row by row, and a held fault. -/
structure Block where
  elems : List Nat
  held : Option Held := none
deriving DecidableEq, Repr

/-- A stream descriptor's fields (R147), adjusted by `sbind` (R167). -/
structure Desc where
  obj : Nat := 0
  out : Bool := false
  cls : Nat := 0
  format : Nat := 0
  decode : Nat := 0
  rows : Nat := 1
  cols : Nat := 1
  ndims : Nat := 1
  keep : Bool := false
  counts : List Nat := []
  strides : List Int := []
  offset : Nat := 0
  ratio : Nat := 0
deriving DecidableEq, Repr

/-- A bound stream (R152). -/
structure Stream where
  desc : Desc
  /-- The captured object entry (R145). -/
  entry : BitVec 256
  n : Nat
  cpos : Nat := 0
  spos : Nat := 0
  /-- Input: fetched blocks not committed, oldest first. Output: handed blocks not written, oldest first. -/
  buf : List Block := []
  /-- A fetch or a write of the block at SPOS is in flight. -/
  flying : Bool := false
  parked : Bool := false
  /-- The sequence number of the record a park wrote, and whether it was one for a host page (R158, R176, R403). -/
  parkSeq : Nat := 0
  parkHost : Bool := false
  failed : Option Code := none
  /-- VA and AUX of the fault that failed it, for the records of the aborts that follow (R157, R373). -/
  failVa : Nat := 0
  failAux : Nat := 0
  /-- The copy tag of an output stream being drained by `sunbind` (R12), and the bytes written since the bind. -/
  drainTag : Option Nat := none
  written : Nat := 0
  /-- Output: the units of the block in flight that have performed (R12, R161). -/
  part : Nat := 0
  /-- The block in flight is served from NAND, from or to a HOST page, or by a sealed partial-tile write, a wait that no entry's budget
  counts (R70, R71). -/
  slow : Bool := false
  /-- Cycles that instructions have waited for the block in flight: those up to the figure of R70 are counted (R71). -/
  waited : Nat := 0
  /-- It is parked at a block that waits for a pick: repaired, or filled once the quota allows (R328). -/
  resid : Bool := false
  /-- Output: the blocks handed to it by entries whose completion the shuttle has observed, which its releases cover (R119). -/
  seen : Nat := 0
deriving DecidableEq, Repr

/-- The kinds of copy-like operation (R170, R173 to R175). -/
inductive CopyKind where
  | copy | copy2d | fill | gather | scatter | stwenc | slzput | promote
deriving DecidableEq, Repr

/-- An object reference resolved at the start of an operation: base VA of the object and the captured entry, or the scratchpad (R145, R146). -/
structure Ref where
  obj : Nat := 0xFFFF
  off : Nat := 0
  entry : BitVec 256 := 0
deriving DecidableEq, Repr

/-- A sector of a copy between issue and completion (R162, R366): its number, the bytes read, whether they are poisoned, and where they
go. -/
structure Flying where
  idx : Nat
  bytes : List Byte
  poisoned : Bool := false
  dst : List (Loc × Policy × Nat) := []
deriving DecidableEq, Repr

/-- A copy-like operation in progress (R161 to R165, R366). -/
structure CopyOp where
  kind : CopyKind
  tag : Nat
  dst : Ref := {}
  src : Ref := {}
  idx : Ref := {}
  aux : Ref := {}
  /-- Rows, row bytes and strides (R170); a plain copy has one row. -/
  rows : Nat := 1
  width : Nat := 0
  dstride : Nat := 0
  sstride : Nat := 0
  /-- The fill value, the contributor, or the rate code and exponent. -/
  value : Nat := 0
  cls : Nat := 0
  hint : Nat := 0
  /-- The next sector: its row, its first byte within the row, its number; the index read for the row. -/
  row : Nat := 0
  pos : Nat := 0
  next : Nat := 0
  index : Option Nat := none
  /-- The index in hand was read poisoned, so that its row is written poisoned (R164). -/
  tainted : Bool := false
  /-- Every sector has issued. -/
  issued : Bool := false
  doneSet : List Nat := []
  fly : List Flying := []
  /-- Sectors held in the base die's buffers (R367), each of one place in device memory. -/
  buffered : List Flying := []
  /-- The sector's host translation is being asked for (R365). -/
  ats : Bool := false
  parked : Bool := false
  parkSeq : Nat := 0
  parkHost : Bool := false
  resumeMark : Bool := false
  /-- The shuttle has observed the completion of the copy's entry, so that its releases cover the copy (R119, R163). -/
  seen : Bool := false
  /-- The fault that stops further issue, until the flying sectors are done (R366). -/
  stop : Option Held := none
  /-- Per output stream, the blocks handed to it before a copy of class 0 (R163). -/
  marks : List Nat := []
  /-- Picks of a promotion: the first, and those still unanswered (R173). -/
  first : Nat := 0
  picks : List Nat := []
  /-- The line and slot of the instruction that issued the operation, as a record names them (R373), and the cycle in which it did
  (R174). -/
  codepos : Nat := 0xFFFFFFFF
  arrival : Nat := 0
deriving DecidableEq, Repr

/-- The kernel header a launch captures (R42, R87). -/
structure Kern where
  obj : Nat := 0
  base : Nat := 0
  codeBase : Nat := 0
  lines : Nat := 0
  seqHead : Nat := 0
  strOff : Nat := 0
  nStream : Nat := 0
  safeOff : Nat := 0
  nSafe : Nat := 0
deriving DecidableEq, Repr

/-- What a VEC instruction does when it completes, beside the registers it writes: a token pushed, flags raised, an element appended to the
FIFO (R20, R213, R246). -/
inductive VecDue where
  | push (q : Nat)
  | flags (f : BitVec 5)
  | fifo (v : Word)
deriving DecidableEq, Repr

/-- Life of a shuttle slot. -/
inductive Life where
  | idle | running | stopped | halted | exited
deriving DecidableEq, Repr

/-- An address and bytes held back by a paired shuttle, poisoned or not (R382, R405). -/
structure HeldWrite where
  loc : Loc
  bytes : List Byte
  pol : Policy := {}
  poisoned : Bool := false
deriving DecidableEq, Repr

/-- Contents of a named tile that a write has replaced, and that a reader on the other side may still see until it pops a token
pushed after the write (R9, R185): the queue of that token, and the tokens still ahead of it. -/
structure OldTile where
  v : Nat
  bits : TileBits
  q : Nat
  ahead : Nat
deriving DecidableEq, Repr

/-- A shuttle slot's registers and queues (R15). -/
structure Shuttle where
  place : Place
  life : Life := .idle
  /-- Mode: privileged (R93). -/
  priv : Bool := false
  tenant : Nat := 0
  team : Nat := 0
  ordinal : Nat := 0
  vtile : Nat := 0
  kern : Kern := {}
  argBase : Word := 0
  teamWin : Word := 0
  lvlIdx : List Nat := []
  lvlExt : List Nat := []
  climb : Bool := false
  paired : Bool := false
  band : Nat := 0
  launch : Nat := 0
  /-- The code address of the next SEQ instruction (R41). -/
  pc : Word := 0
  /-- The line in hand: its number and its bytes, as its fetch read them (R42). -/
  hand : Option (Nat × BitVec 512) := none
  /-- Delay slots left, and the address that follows them (R104). -/
  delay : Option (Nat × Word) := none
  g : Vector Word 32 := Vector.replicate 32 0
  b : Vector BReg 4 := Vector.replicate 4 {}
  /-- p0 to p15, one bit each; p0 is not stored and reads true (R44, R89). -/
  p : BitVec 16 := 0
  /-- p16 to p63 (R245). -/
  vp : Vector Lanes 48 := Vector.replicate 48 0
  v : Vector TileBits 8 := Vector.replicate 8 0
  /-- Old contents of named tiles that MTX or VEC has written and no token has yet ordered (R9, R185), oldest first. -/
  vOld : List OldTile := []
  vInuse : BitVec 8 := 0
  vDirty : BitVec 8 := 0
  pInuse : BitVec 48 := 0
  /-- The result queue, newest reservation first (R243). -/
  ring : List TileBits := []
  rows : Nat := 16
  cols : Nat := 16
  /-- VEC results of exposed lines that have not landed (R242, R243). -/
  vpend : List (Nat × Nat × TileBits) := []
  ppend : List (Nat × Nat × Lanes) := []
  rpend : List (Nat × Nat × TileBits) := []
  /-- What VEC instructions do at their completion, each with its cycle, in issue order (R20, R213, R222, R246). -/
  vdue : List (Nat × VecDue) := []
  /-- Ring reservations made so far. -/
  reserved : Nat := 0
  s : Vector (Option Stream) 16 := Vector.replicate 16 none
  /-- The stream number that fetch served last (R154). -/
  fetched : Nat := 15
  /-- tq1 to tq12 by number: the count (R15, R20). -/
  tok : Vector Nat 13 := Vector.replicate 13 0
  str : EngQ := {}
  vec : EngQ := {}
  mtx : EngQ := {}
  tagReady : Word := 0
  tagBytes : Vector Nat 64 := Vector.replicate 64 0
  copies : List CopyOp := []
  fpflags : Word := 0
  trapPc : Word := 0
  trapCode : Word := 0
  trapVa : Word := 0
  trapVec : Word := 0
  /-- A trap due before the next SEQ instruction issues: code, VA, and the number of the record it waits for, if that record waits for
  room (R49, R164, R375). -/
  dueTrap : Option (Code × Nat × Nat) := none
  /-- Engines start no entry until `sysret` (R49). -/
  held : Bool := false
  wait : Option Wait := none
  /-- The POP of the instruction at the pc is done (R20), and the control fields of a waiting instruction. -/
  popped : Bool := false
  ctl : Ctl := {}
  /-- MODE of the line before, and the cycles spent waiting at a change of it (R24). -/
  lastInter : Option Bool := none
  crossing : Nat := 0
  /-- Results that have not landed, in issue order (R91). -/
  pend : List Pend := []
  /-- Destinations of variable-latency results of exposed lines that no instruction has read since: which of such a result and one of fixed
  latency issued after it lands last is open (R91). -/
  late : List SeqDest := []
  stores : List PStore := []
  /-- The tile cycle of the next SEQ issue. -/
  clock : Nat := 0
  /-- A stop has been requested (R398); the shuttle is at a safe point. -/
  stopReq : Bool := false
  fresh : Bool := true
  /-- It has issued since its start or resumption (R399), and its `exit` is past step 1 (R109). -/
  issued : Bool := false
  exiting : Bool := false
  /-- Release flags and remote stores awaiting acknowledgement are in `Fabric`; the paired shuttle's state follows (R405, R406). -/
  holdBuf : List HeldWrite := []
  atomLog : List Word := []
  replay : List Word := []
  shared : List (Word × Option Held) := []
  retried : Bool := false
  compareDue : Bool := false
  compareOk : Bool := false
deriving DecidableEq, Repr

/-! ### A tile -/

/-- A column group of the accumulator store (R180, R181). -/
structure Group where
  inuse : Bool := false
  owner : Nat := 0
  dirty : Bool := false
  bits : GroupBits := 0
deriving DecidableEq, Repr

/-- A stationary panel (R200): operand format, columns, delivered elements row by row. -/
structure Panel where
  fmt : Nat
  n : Nat
  elems : List Nat
deriving DecidableEq, Repr

/-- An L1 line: its line number (physical address / 192) and bytes (R291), with its poisoned sectors (R382). -/
structure L1Line where
  line : Nat
  bytes : List Byte
  poison : List Nat := []
deriving DecidableEq, Repr

/-- A scale record in the tile's scale cache (R160). -/
structure ScaleRec where
  obj : Nat
  tenant : Nat
  num : Nat
  b0 : Byte
  b1 : Byte
  keep : Bool := false
deriving DecidableEq, Repr

/-- A tile (R15, R181). -/
structure Tile where
  id : Nat
  /-- Per engine, the slot that it served last and the first cycle at which it is free (R17). -/
  served : Vector Nat 3 := Vector.replicate 3 3
  free : Vector Nat 3 := Vector.replicate 3 0
  scratch : Mem := []
  /-- Poisoned 48-byte sectors of the scratchpad, carried in by copies (R382). -/
  scratchPoison : List Nat := []
  l1share : Nat := 0
  l1 : List L1Line := []
  groups : Vector Group 16 := Vector.replicate 16 {}
  cnt : Vector Nat 8 := Vector.replicate 8 0
  panels : Vector (Option Panel) 4 := Vector.replicate 4 none
  scale : List ScaleRec := []
  qcw : Vector Word 16 := Vector.replicate 16 0
deriving DecidableEq, Repr

/-! ### Tenant contexts -/

/-- A PRI page request (R365). -/
structure PageReq where
  addr : Nat
  idx : Nat
  write : Bool
  /-- The sequence number of its record. -/
  seqno : Nat := 0
  sent : Bool := false
deriving DecidableEq, Repr

/-- A queued task (R392): its record, and what the spawning launch gives it. -/
structure Task where
  bytes : List Byte
  band : Nat
  l1 : Nat
  deadline : Nat
deriving DecidableEq, Repr

/-- A fabric window entry (R413). -/
structure Window where
  peer : Nat := 0
  ports : Nat := 0
  zone : Bool := false
  base : Nat := 0
  size : Nat := 0
deriving DecidableEq, Repr

/-- A quota: the limit and the amount charged (R323). -/
structure Quota where
  limit : Nat := 2 ^ 64 - 1
  charged : Nat := 0
deriving DecidableEq, Repr

/-- A tenant's context (R94, R135, R143, R283, R323, R365, R375). -/
structure Ctx where
  tenant : Nat
  ovfTbl : Word := 0
  cardBase : Word := 0
  objBase : Word := 0
  xlBase : Word := 0
  faultQ : Word := 0
  /-- The overflow table in force (R135). -/
  ovf : BitVec 10 := 0
  deck : List (BitVec 512) := []
  /-- Records written, and records that wait for room (R375). -/
  nextSeq : Nat := 1
  waiting : List FaultRec := []
  msix : Bool := false
  quotas : Vector Quota 5 := Vector.replicate 5 {}
  taskBase : Nat := 0
  taskDepth : Nat := 256
  tasks : List Task := []
  windows : List (Nat × Window) := []
  prq : List PageReq := []
  prAlloc : Nat := 512
  /-- Host pages that the ATC holds: page, readable, writable (R412). -/
  atc : List (Nat × Bool × Bool) := []
  /-- Host pages that the host translates: page, readable, writable. -/
  hostPages : List (Nat × Bool × Bool) := []
  apwin : Nat := 0
  /-- The function's TDISP interface is in the RUN state (R412). -/
  tdispRun : Bool := false
deriving DecidableEq, Repr

/-- A translation the module holds: tenant, base frame, the leaf entry it was made from (R372). -/
structure TlbEnt where
  tenant : Nat
  frame : Nat
  pte : Word
deriving DecidableEq, Repr

/-- A cached object entry (R137, R145). -/
structure ObjEnt where
  tenant : Nat
  idx : Nat
  bits : BitVec 256
deriving DecidableEq, Repr

/-- A cached image line (R42, R137). -/
structure LineEnt where
  tenant : Nat
  va : Nat
  bits : BitVec 512
deriving DecidableEq, Repr

/-! ### Memory and seals -/

/-- Metadata of a physical seal tile (R377). -/
structure SealMeta where
  tag : BitVec 64 := 0
  version : Nat := 0
  gen : Nat := 0
  state : Nat := 0
  owner : Nat := 0
deriving DecidableEq, Repr

/-- Presence of a tile in the memory-side cache: the lines that a fill brought, dirty sectors of 64 bytes by physical address / 64, policy keep
(R356). -/
structure MscTile where
  tile : Nat
  lines : BitVec 3 := 0
  dirty : List Nat := []
  /-- 48-byte sectors, by physical address / 48, written whole since the tile came in: a line may hold them with its others missing (R384). -/
  held : List Nat := []
  keep : Bool := false
deriving DecidableEq, Repr

/-- Presence of a line in the L2 (R288). -/
structure L2Line where
  line : Nat
  /-- Its 48-byte sectors, by physical address / 48: those filled or written whole, and those written. -/
  valid : List Nat := []
  dirty : List Nat := []
  keep : Bool := false
  /-- The tenant whose writes the line holds (R377). -/
  writer : Nat := 0
  /-- The MSC policy of the last write (R356). -/
  msc : Nat := 0
deriving DecidableEq, Repr

/-- A pin of a seal tile by a team or a launch (R172, R306). -/
structure Pin where
  tile : Nat
  tenant : Nat
  team : Option Nat := none
  launch : Option Nat := none
deriving DecidableEq, Repr

/-- A (tenant, seal region) pair's generations (R379). -/
structure Pair where
  tenant : Nat
  region : Nat
  cur : Nat := 0
  old : Option Nat := none
  armed : Bool := false
deriving DecidableEq, Repr

/-- Sectors of one tile written since it was poisoned (R382). -/
structure Cleaned where
  tile : Nat
  sectors : List Nat
deriving DecidableEq, Repr

/-- Device memory and what stands before it. -/
structure MemSys where
  /-- The value of every byte of device memory at its home (R292). -/
  home : Mem := []
  /-- Poisoned 48-byte sectors, by physical address / 48 (R382). -/
  poison : List Nat := []
  cleaned : List Cleaned := []
  /-- Bytes that a tenant other than the tile's owner has written over: address, writer, old value (R377, R385). -/
  foreign : List (Nat × Nat × Byte) := []
  seals : List (Nat × SealMeta) := []
  pairs : List Pair := []
  l2 : List L2Line := []
  msc : List MscTile := []
  pins : List Pin := []
  /-- Tiles whose stored bytes were altered, or whose metadata or nodes were found to be: true when the retry fails too (R381). -/
  tampered : List (Nat × Bool) := []
  /-- Metadata lines and counter-tree nodes that were altered, each by the first tile and the number of tiles that it covers: true when the retry
  fails too (R378). -/
  badMeta : List (Nat × Nat × Bool) := []
  /-- Sectors that the caches hold clean since before their tile was assigned anew: they read as zeros once no cache holds them (R377). -/
  stale : List Nat := []
  /-- Tiles whose writeback a SEALWRAP stalls (R379). -/
  stalled : List Nat := []
  host : Mem := []
  peer : Mem := []
  tlb : List TlbEnt := []
  /-- Translations that `xlinv` has invalidated, by which an access may still translate until an `objsync` completes (R138, R372). -/
  tlbOld : List TlbEnt := []
  objs : List ObjEnt := []
  lines : List LineEnt := []
deriving DecidableEq, Repr

/-! ### Near-data units, landing zones and the fabric -/

/-- A near-data register: sixteen 32-bit lanes and a length (R336). -/
structure NReg where
  lanes : BitVec 512 := 0
  len : Nat := 0
deriving DecidableEq, Repr

/-- The kick descriptor's fields (R333). -/
structure KickDesc where
  tierM : Bool := false
  slot : Nat := 0
  unit : Nat := 0
  mbox : Nat := 0
  crec : Nat := 0xFFFF
  tmap : Nat := 0xFFFF
  ptlog : Nat := 0
  etlog : Nat := 0
  pickFirst : Nat := 0
  pickCount : Nat := 0
  trip : Nat := 1
  argVa : Nat := 0
deriving DecidableEq, Repr

/-- A pattern of a kick: its descriptor with ADD applied, and the captured object entry (R334). -/
structure Pattern where
  desc : Desc
  entry : BitVec 256
  n : Nat
deriving DecidableEq, Repr

/-- Registers and positions of a body (R336). -/
structure BodyRegs where
  n : Vector NReg 32 := Vector.replicate 32 {}
  sc : Vector (BitVec 32) 16 := Vector.replicate 16 0
  levels : Vector (BitVec 32) 24 := Vector.replicate 24 0
  c : Nat := 0
  pos : Vector Nat 8 := Vector.replicate 8 0
  iter : Nat := 0
  word : Nat := 0
deriving DecidableEq, Repr

/-- Where a body stands (R308, R319, R326). -/
inductive BodyState where
  | running
  /-- Stopped at a climb point with its record written, the hand-over undecided. -/
  | climbed
  | finished
deriving DecidableEq, Repr

/-- A kick accepted and not completed (R335, R336). -/
structure Kick where
  id : Nat
  tenant : Nat
  launch : Nat
  team : Nat
  desc : KickDesc
  kobj : Nat
  pats : Vector (Option Pattern) 8 := Vector.replicate 8 none
  ovf : BitVec 10 := 0
  mboxVa : Nat := 0
  crecVa : Nat := 0
  /-- Footprint pages translated at acceptance: base frame and leaf entry (R335). -/
  pages : List (Nat × Word) := []
  charge : Nat := 0
  /-- Column cycles that bodies of the kick ran before it was kicked again (R321, R323). -/
  ran : Nat := 0
  /-- Where the body starts: none afresh, some word when re-kicked from a record (R321). -/
  start : Option BodyRegs := none
  /-- Flags and mailbox words kept from an earlier run of the body (R347). -/
  flags : FpFlags := 0
  words : Vector (BitVec 32) 12 := Vector.replicate 12 0
  /-- Physical addresses of the footprint's frames that some other agent stored to meanwhile (R300, R304). -/
  stored : List Nat := []
deriving DecidableEq, Repr

/-- A contribution staged or waiting at a landing zone (R349). -/
structure Contrib where
  contributor : Nat
  off : Nat
  bytes : List Byte
  poisoned : Bool := false
  /-- Sent by a kernel launched with CLIMB or PAIRED (R351). -/
  barred : Bool := false
  /-- The shuttle, the tag and the sector that sent it, for `slzput` (R175). -/
  sender : Option (Place × Nat × Nat) := none
  /-- The number of the peer's packet that carries it (R349, R352). -/
  remote : Option Nat := none
deriving DecidableEq, Repr

/-- A body on its unit. -/
structure Body where
  kick : Kick
  regs : BodyRegs := {}
  /-- 0 the climb check and word check, 1 fetch, 2 arithmetic, 3 write-back. -/
  phase : Nat := 0
  /-- The registers and the flags at the start of the word in progress (R343). -/
  wordStart : BodyRegs := {}
  wordFlags : FpFlags := 0
  /-- The id and the state of the last climb point passed (R317). -/
  climbAt : Option (Nat × BodyRegs) := none
  /-- The flags, the mailbox words and the number of bytes written at that climb point. -/
  climbFlags : FpFlags := 0
  climbWords : Vector (BitVec 32) 12 := Vector.replicate 12 0
  climbWrites : Nat := 0
  state : BodyState := .running
  /-- Bytes written by the body, by physical address, that take their place in home order at completion (R300). -/
  writes : List (Nat × Byte) := []
  /-- Contributions to landing zones since the last climb point, held back until the next: object index, base, size, contribution (R327, R349). -/
  puts : List (Nat × Nat × Nat × Contrib) := []
  /-- Column cycles of the words run, memory terms left out (R345). -/
  spent : Nat := 0
  /-- The mailbox status decided at completion, and the fault record's number (R343, R347). -/
  status : Nat := 1
  fseq : Nat := 0
deriving DecidableEq, Repr

/-- Where a kick waits whose body is on no unit: for the repair of a pick (R327), or for the exit of the team started from its record
(R321). -/
inductive Away where
  | repair (pick : Nat)
  | tileC (team : Nat)
deriving DecidableEq, Repr

/-- A near-data unit (R331, R335). -/
structure NdUnit where
  tierM : Bool
  unit : Nat
  queue : List Kick := []
  body : Option Body := none
deriving DecidableEq, Repr

/-- A microcode slot (R332). -/
structure MSlot where
  tierM : Bool
  tierS : Bool
  slot : Nat
  tenant : Nat
  kobj : Nat
  words : List IWord
  /-- The image line and slot of each word (R373). -/
  pos : List (Nat × Nat) := []
  /-- Climb points: word index, id (R332). -/
  climbs : List (Nat × Nat) := []
  /-- The `.climb` layout: streams, loops, scalars, nodes (R75, R81). -/
  layout : Nat × Nat × Nat × Nat := (0, 0, 0, 0)
  /-- A load or a free of the slot waits for its kicks (R332). -/
  closing : Bool := false
deriving DecidableEq, Repr

/-- A landing zone in a round (R348, R349). -/
structure Zone where
  tenant : Nat
  obj : Nat
  /-- Base VA of the zone and its size. -/
  base : Nat
  size : Nat
  /-- The header captured at the round's first contribution. -/
  header : Option (List Byte) := none
  /-- Contributor, offset, byte; the done marks by contributor and sector, and those staged poisoned. -/
  staged : List (Nat × Nat × Byte) := []
  marks : List (Nat × Nat) := []
  bad : List (Nat × Nat) := []
  /-- Contributions that have arrived and are not staged. -/
  queue : List Contrib := []
deriving DecidableEq, Repr

/-- A remote store in flight (R352). `sender` is 0 for one this module sends; another module's store names its sender, and `off` is
then the VA it reaches in this module. -/
structure Remote where
  sender : Nat
  tenant : Nat
  window : Nat
  off : Nat
  bytes : List Byte
  port : Nat
  place : Place
  poisoned : Bool := false
  arrived : Bool := false
  copyTag : Option (Nat × Nat) := none
  /-- The class of a SEQ store: it arrives after the shuttle's earlier ones that it is ordered behind (R113, R296). -/
  cls : Option Nat := none
  /-- For a peer's reduction packet or its store through a zone window: the zone's object index here and the contributor; `off` is then the
  byte offset in the result area (R349, R352). -/
  contrib : Option (Nat × Nat) := none
deriving DecidableEq, Repr

/-- A release flag (R352, R353). `sender` is 0 for one this module sends; another module's flag names its sender, and `va` is then the
VA of the flag word it reaches in this module. -/
structure FlagMsg where
  sender : Nat := 0
  va : Nat := 0
  tenant : Nat
  window : Nat
  slot : Nat
  seq : Nat
  place : Place
  port : Nat
  sent : Bool := false
  /-- It has arrived, and was applied or discarded. -/
  applied : Bool := false
  /-- Remote stores that must be acknowledged first. -/
  after : List Nat := []
deriving DecidableEq, Repr

/-- The fabric (R352, R353, R413). -/
structure Fabric where
  stores : List (Nat × Remote) := []
  flags : List (Nat × FlagMsg) := []
  nextId : Nat := 0
  /-- Per sender and flag slot, the last sequence number applied: by this module for another sender, by the peer p under the key
  65536 + p for this one. -/
  last : List (Nat × Nat × Nat) := []
  portsDown : BitVec 8 := 0
deriving DecidableEq, Repr

/-! ### Tier manager -/

/-- A promotion, in progress or done (R306, R173). -/
structure Promo where
  tenant : Nat
  tmap : Nat
  pick : Nat
  target : Nat
  launch : Nat
  team : Nat
  /-- The shuttle and tag of an `spromote`. -/
  place : Option (Place × Nat) := none
  /-- A schedule entry that begins no hand-over (R322). -/
  quiet : Bool := false
  done : Bool := false
  /-- The residency and the heddle it was promoted from, whether its heddle moved, and the charges taken, kept for the launch's end
  (R306): L2-pin or HBM bytes, and stream bandwidth. -/
  fromRes : Nat := 0
  fromHed : Nat := 0
  moved : Bool := false
  bytes : Nat := 0
  stream : Nat := 0
  /-- Its number among completed promotions, in the order in which they completed (R306). -/
  order : Nat := 0
deriving DecidableEq, Repr

/-- A charge to a tenant's HBM quota for a pick whose tiles were filled from NAND; it returns when the copy is dropped (R323). -/
structure HbmCharge where
  tenant : Nat
  tmap : Nat
  pick : Nat
  launch : Option Nat
  bytes : Nat
  /-- How much of it was drawn on the launch's reservation, which returns with that (R324). -/
  drawn : Nat := 0
deriving DecidableEq, Repr

/-- A hand-over in progress (R319). -/
structure Handover where
  kick : Nat
  tierM : Bool
  unit : Nat
  target : Nat
  /-- Picks that step 1 marked promoting. -/
  marked : List Nat := []
  /-- It follows a lost pick whose heddle moved (R327). -/
  lost : Bool := false
  /-- A SEALWRAP stall delayed step 1, and counts towards the acceptance limit (R330). -/
  held : Bool := false
  /-- The tick at which the record was written. -/
  since : Nat := 0
deriving DecidableEq, Repr

/-- A climb schedule entry not yet taken (R322). -/
structure SchedEnt where
  pick : Nat
  target : Nat
  flag : Bool
  lead : Nat
  tmap : Nat
deriving DecidableEq, Repr

/-! ### The loom scheduler -/

/-- A launch queue, or the task sub-queue of a band: q is then 64 + band, of the function of the tenant (R386, R392, R394, R395). -/
structure LQueue where
  fn : Nat
  q : Nat
  base : Nat := 0
  /-- Tiles of deficit (R394). -/
  deficit : Nat := 0
  /-- The head's dependences have been seen satisfied, and the reference tick since which it has been eligible in its present band. -/
  eligible : Bool := false
  since : Nat := 0
  /-- Bands up that the head has aged. -/
  aged : Nat := 0
deriving DecidableEq, Repr

/-- A level of a work hierarchy (R31, R389). -/
structure Level where
  domain : Nat
  scope : Nat
  extent : Nat
deriving DecidableEq, Repr

/-- A scratchpad region (R81, R290). -/
structure Region where
  idx : Nat
  keep : Bool
  base : Nat
  size : Nat
deriving DecidableEq, Repr

/-- An admitted launch or task (R388, R392). -/
structure Launch where
  id : Nat
  fn : Nat
  q : Nat
  index : Nat
  task : Bool := false
  tenant : Nat
  band : Nat
  climb : Bool := false
  paired : Bool := false
  reserve : Bool := false
  priv : Bool := false
  levels : List Level := []
  l1 : Nat := 0
  deadline : Nat := 0
  argVa : Nat := 0
  save : Nat := 0
  compl : Nat := 0
  incr : Nat := 0
  /-- Per quota, what is left of the reservation, and all of it (R324). -/
  resv : List Nat := []
  full : List Nat := []
  kern : Kern := {}
  regions : List Region := []
  qcws : List (Nat × Nat × Word) := []
  /-- Teams not yet started, teams ended, kicks outstanding, start tick. -/
  nextTeam : Nat := 0
  teams : Nat := 0
  ended : Nat := 0
  stopped : Bool := false
  sched : List SchedEnt := []
  /-- Tier maps that the launch's kernel names, by object index (R314). -/
  maps : List Nat := []
  startTick : Nat := 0
deriving DecidableEq, Repr

/-- The life of a gang (R398, R402, R404). -/
inductive GangState where
  | running | stopping | saved | stopped | done
deriving DecidableEq, Repr

/-- What a save keeps beside the bytes that the save area places (R400, R401). -/
structure SavedShuttle where
  shuttle : Shuttle
  groups : List (Nat × Group) := []
  cnt : List Nat := []
  panel : Option Panel := none
deriving DecidableEq, Repr

/-- A gang: one team of a launch (R33). -/
structure Gang where
  team : Nat
  launch : Nat
  tenant : Nat
  index : Nat
  band : Nat
  /-- Team domain, tiles, shuttles a tile. -/
  domain : Nat
  nTiles : Nat
  perTile : Nat
  places : List Place := []
  /-- Side 1 of a paired gang (R405). -/
  places1 : List Place := []
  exited : List Nat := []
  state : GangState := .running
  stop : Bool := false
  startTick : Nat := 0
  /-- One team of one shuttle that was started from a climb record (R318). -/
  fromRecord : Bool := false
  saved : List SavedShuttle := []
  /-- Poisoned sectors of the KEEP regions saved, by virtual tile (R290, R382). -/
  poison : List (Nat × List Nat) := []
  /-- Saved, and resumed since (R399). -/
  resumed : Bool := false
  /-- Checkpoints of a paired gang's shuttles, by third of the save area and ordinal (R406, R407). -/
  checks : List ((Nat × Nat) × SavedShuttle) := []
  /-- The order in which gangs of a band were pre-empted. -/
  preemptOrder : Nat := 0
deriving DecidableEq, Repr

/-- The loom scheduler (R386 to R408). -/
structure Loom where
  queues : List LQueue := []
  launches : List Launch := []
  gangs : List Gang := []
  nextLaunch : Nat := 1
  nextTeam : Nat := 1
  nextPreempt : Nat := 1
  /-- Per band, the queue last visited by the deficit round-robin (R394). -/
  visit : List (Nat × Nat × Nat) := []
  /-- Tiles held for a launch whose victims are being pre-empted (R397). -/
  holds : List (Nat × Nat) := []
  ageNormal : Nat := 1000000
  ageBulk : Nat := 10000000
  firstAdmitted : Bool := false
deriving DecidableEq, Repr

/-! ### The module controller, the storage below, power -/

/-- An error counter (R361). -/
structure ErrCount where
  unit : ErrUnit
  start : Nat
  count : Nat
  faulty : Bool := false
  fenced : Bool := false
deriving DecidableEq, Repr

/-- The module controller, memory maintenance and power (R357 to R362, R409 to R418). -/
structure Module where
  /-- The bodies of a microcode load that waits for its slot's kicks (R332). -/
  loading : Option (List MSlot) := none
  /-- The request at REQHEAD has asked its gang to stop and waits until it has (R411). -/
  asked : Bool := false
  accept : BitVec 4 := 0
  /-- FEATURES (R410), as the configuration blocks whose signatures verified at power-on set it (R414). -/
  features : BitVec 4 := Config.features
  mgmtFq : Word := 0
  reqBase : Word := 0
  reqTail : Nat := 0
  reqHead : Nat := 0
  /-- The management function's own queue of records (R375). -/
  mgmtSeq : Nat := 1
  mgmtWaiting : List FaultRec := []
  mgmtMsix : Bool := false
  /-- The endpoint is presented (R414). -/
  presented : Bool := true
  /-- Owed per-bank refreshes: pseudo-channel, bank, count (R357). -/
  owed : List (Nat × Nat × Nat) := []
  /-- Refresh-management commands issued since power-on (R358). -/
  rfm : Nat := 0
  allBank : Nat := 0
  errors : List ErrCount := []
  retraining : List Nat := []
  /-- Lost NAND frames (R360): data frames by number, and after them the parity frames of the stripes. -/
  nandLost : List Nat := []
  /-- Per band, the cycle of its last droop alarm, and whether its response is in progress; the alarms beyond the rated rate, counted per band, and
  the reports of them to the management function, by band (R416). -/
  droop : List (Nat × Nat × Bool) := []
  alarms : List (Nat × Nat) := []
  alarmReports : List Nat := []
  /-- The cycle from which the tile clock is reduced, where it is, and the reference ticks that earlier reductions have added (R415). -/
  throttled : Option Nat := none
  slowTicks : Nat := 0
  droopThr : BitVec 8 := clampDroop (Config.droopThreshold.setWidth 64)
  /-- The last bytes an aperture or BAR read returned, and how it ended (R229, R302): 0 data, 1 Completer Abort, 2 poisoned. -/
  hostReply : List Byte := []
  hostStatus : Nat := 0
  /-- The repair records handed to the management function (R362): the unit of each. -/
  repairs : List ErrUnit := []
deriving DecidableEq, Repr

/-! ### The state -/

/-- The machine. -/
structure State where
  /-- What happens next, oldest first: the model's own field, the order of agents that the manual leaves open. -/
  agenda : List Happening := []
  /-- The agent that steps when the agenda is empty: the model's own field. -/
  cur : Agent := .seq ⟨0, 0⟩
  /-- The free-value counter: the model's own field. -/
  fresh : Nat := 0
  /-- The shuttle in focus and the others; the tile in focus, which is the shuttle's, and the others. -/
  me : Shuttle := { place := ⟨0, 0⟩ }
  others : List Shuttle := []
  tile : Tile := { id := 0 }
  otherTiles : List Tile := []
  ctxs : List Ctx := []
  mem : MemSys := {}
  nd : NdUnit := { tierM := true, unit := 0 }
  otherNd : List NdUnit := []
  slots : List MSlot := []
  nextKick : Nat := 1
  /-- Kicks whose body is on no unit (R321, R327). -/
  away : List (Body × Away) := []
  zones : List Zone := []
  fabric : Fabric := {}
  promos : List Promo := []
  handovers : List Handover := []
  hbm : List HbmCharge := []
  loom : Loom := {}
  module : Module := {}
  /-- Tile clocks since reset, stretches included, and per band those that its droop responses did not deliver (R94, R416). -/
  cycles : Nat := 0
  lost : List (Nat × Nat) := []
deriving DecidableEq, Repr

/-- The default layout's QCW for a role of a slot with no L1 share (R36): BASE, DEPTH 16 or 512, ESIZE 3. -/
def defaultQcw (slot role : Nat) : Word :=
  let base := 16384 - 560 * (slot + 1) + 16 * role
  BitVec.ofNat 64 (base + (if role = 3 then 512 else 16) * 65536 + 3 * 268435456)

/-- The tile after reset: QCWs in the default layout (R94), everything else empty. -/
def Tile.reset (id : Nat) : Tile :=
  { id := id
    qcw := #v[defaultQcw 0 0, defaultQcw 0 1, defaultQcw 0 2, defaultQcw 0 3,
              defaultQcw 1 0, defaultQcw 1 1, defaultQcw 1 2, defaultQcw 1 3,
              defaultQcw 2 0, defaultQcw 2 1, defaultQcw 2 2, defaultQcw 2 3,
              defaultQcw 3 0, defaultQcw 3 1, defaultQcw 3 2, defaultQcw 3 3] }

/-- The machine right after reset (R414 step 6): no shuttle runs, no context exists, every seal tile is unsealed and owned by
tenant 0, CYCLES and TSTAMP are 0. -/
def State.reset : State := { tile := Tile.reset 0 }

/-! ### Stops -/

/-- A step that cannot be taken at all. -/
inductive Fault where
  /-- Raised by `step` when the agenda names a happening that is no happening of the table but an instruction of a stream: the
  model's own schedule is malformed. Safe: no step of the hardware corresponds to it. -/
  | notAHappening
deriving DecidableEq, Repr

/-- Why a step has no meaning. -/
inductive Refusal where
  /-- Raised by `exec` for an instruction of the table that has no meaning in the model yet. Safe. -/
  | notModelled (mnemonic : String)
deriving DecidableEq, Repr

end Sys2Proof.Machine
end

