-- ==== Sys2Proof/Machine/Mem.lean ====
section
/-! DEFINITION. Byte memories in canonical form, and the operations over them: one byte, runs of bytes, little-endian words. -/
namespace Sys2Proof.Machine

/-- The byte at an address; an unlisted address reads 0. -/
def memGet (m : Mem) (a : Nat) : Byte :=
  match m with
  | [] => 0
  | c :: cs => if c.1 = a then c.2 else if a < c.1 then 0 else memGet cs a

/-- A memory with one byte written; writing 0 removes the entry, so that equal memories are equal lists. -/
def memSet (m : Mem) (a : Nat) (b : Byte) : Mem :=
  match m with
  | [] => if b = 0 then [] else [(a, b)]
  | c :: cs =>
    if a < c.1 then (if b = 0 then c :: cs else (a, b) :: c :: cs)
    else if a = c.1 then (if b = 0 then cs else (a, b) :: cs)
    else c :: memSet cs a b

/-- `n` bytes from an address upward. -/
def memRead (m : Mem) (a : Nat) : Nat → List Byte
  | 0 => []
  | n + 1 => memGet m a :: memRead m (a + 1) n

/-- Bytes written from an address upward. -/
def memWrite (m : Mem) (a : Nat) : List Byte → Mem
  | [] => m
  | b :: bs => memWrite (memSet m a b) (a + 1) bs

/-- The little-endian number of `n` bytes at an address. -/
def memNat (m : Mem) (a n : Nat) : Nat := natOfBytes (memRead m a n)

/-- Every listed address lies at or above a bound, addresses rise strictly, and no listed byte is 0. -/
def memWfFrom (lo : Nat) : Mem → Bool
  | [] => true
  | c :: cs => decide (lo ≤ c.1) && c.2 != 0 && memWfFrom (c.1 + 1) cs

/-- The canonical form of a memory. -/
def Memory.wf (m : Mem) : Bool := memWfFrom 0 m

/-- Every byte in a range zeroed. -/
def memZero (m : Mem) (a n : Nat) : Mem := m.filter fun c => decide (c.1 < a) || decide (a + n ≤ c.1)

/-- The part of a memory in a range, at the same addresses. -/
def memSlice (m : Mem) (a n : Nat) : Mem := m.filter fun c => decide (a ≤ c.1) && decide (c.1 < a + n)

/-- A list of naturals with one member added, kept without repeats. -/
def insertNat (l : List Nat) (x : Nat) : List Nat := if x ∈ l then l else x :: l

/-- The numbers of the units of `size` bytes that the `n` bytes from `a` touch. -/
def unitsOf (a n size : Nat) : List Nat :=
  if n = 0 then [] else (List.range ((a + n - 1) / size + 1 - a / size)).map (· + a / size)

/-- The value of a key in an association list, or a default. -/
def assoc {α : Type} (l : List (Nat × α)) (k : Nat) (dflt : α) : α :=
  match l.find? (fun p => p.1 = k) with
  | some p => p.2
  | none => dflt

/-- An association list with a key's value replaced or added. -/
def assocSet {α : Type} (l : List (Nat × α)) (k : Nat) (x : α) : List (Nat × α) :=
  match l with
  | [] => [(k, x)]
  | p :: ps => if p.1 = k then (k, x) :: ps else p :: assocSet ps k x

/-- The first member that meets a test replaced. -/
def replaceFirst {α : Type} (l : List α) (test : α → Bool) (f : α → α) : List α :=
  match l with
  | [] => []
  | x :: xs => if test x then f x :: xs else x :: replaceFirst xs test f

/-- The first member that meets a test replaced, or a new member added at the end. -/
def upsert {α : Type} (l : List α) (test : α → Bool) (f : α → α) (new : α) : List α :=
  match l with
  | [] => [f new]
  | x :: xs => if test x then f x :: xs else x :: upsert xs test f new

/-- The member of a list at a place. -/
def listAt {α : Type} (l : List α) (i : Nat) : Option α := l[i]?

/-- The first `some` of a function over a list. -/
def firstSome {α β : Type} (f : α → Option β) : List α → Option β
  | [] => none
  | x :: xs =>
    match f x with
    | some y => some y
    | none => firstSome f xs

end Sys2Proof.Machine
end

