-- ==== Sys2Proof/Machine/Ops.lean ====
section
/-! DEFINITION. The named operations over the state that every family uses: contexts, focus, registers, tokens, fault records and
the fault queue, taking a trap and returning from one, aborting an engine entry, the free-value counter. -/
namespace Sys2Proof.Machine

/-! ### Free values and contexts -/

/-- Use up one free value. -/
def bump (s : State) : State := { s with fresh := s.fresh + 1 }

/-- A tenant's context; one that has never been created is empty (R283). -/
def ctxOf (s : State) (t : Nat) : Ctx :=
  match s.ctxs.find? (fun c => c.tenant = t) with
  | some c => c
  | none => { tenant := t }

/-- A tenant's context changed. -/
def modCtx (s : State) (t : Nat) (f : Ctx → Ctx) : State :=
  { s with ctxs := upsert s.ctxs (fun c => c.tenant = t) f { tenant := t } }

/-- The tile in focus changed. -/
def modTile (s : State) (f : Tile → Tile) : State := { s with tile := f s.tile }
/-- The shuttle in focus changed. -/
def modMe (s : State) (f : Shuttle → Shuttle) : State := { s with me := f s.me }
/-- Device memory changed. -/
def modMem (s : State) (f : MemSys → MemSys) : State := { s with mem := f s.mem }
/-- The module controller's state changed. -/
def modModule (s : State) (f : Module → Module) : State := { s with module := f s.module }
/-- The scheduler's state changed. -/
def modLoom (s : State) (f : Loom → Loom) : State := { s with loom := f s.loom }

/-! ### Tiles and shuttles -/

/-- A tile by number; one not listed is as at reset. -/
def tileOf (s : State) (t : Nat) : Tile :=
  if s.tile.id = t then s.tile
  else match s.otherTiles.find? (fun x => x.id = t) with
    | some x => x
    | none => Tile.reset t

/-- A tile changed by number. -/
def modTileAt (s : State) (t : Nat) (f : Tile → Tile) : State :=
  if s.tile.id = t then { s with tile := f s.tile }
  else { s with otherTiles := upsert s.otherTiles (fun x => x.id = t) f (Tile.reset t) }

/-- A shuttle by place; one not listed is idle. -/
def shuttleAt (s : State) (p : Place) : Shuttle :=
  if s.me.place = p then s.me
  else match s.others.find? (fun x => x.place = p) with
    | some x => x
    | none => { place := p }

/-- A shuttle changed by place. -/
def modShuttle (s : State) (p : Place) (f : Shuttle → Shuttle) : State :=
  if s.me.place = p then { s with me := f s.me }
  else { s with others := upsert s.others (fun x => x.place = p) f { place := p } }

/-- Every shuttle listed, the one in focus first. -/
def allShuttles (s : State) : List Shuttle := s.me :: s.others

/-- Bring a tile into focus. -/
def focusTile (s : State) (t : Nat) : State :=
  if s.tile.id = t then s
  else { s with tile := tileOf s t, otherTiles := s.tile :: s.otherTiles.filter (fun x => x.id ≠ t) }

/-- Bring a shuttle and its tile into focus. -/
def focus (s : State) (p : Place) : State :=
  let s1 := focusTile s p.tile
  if s1.me.place = p then s1
  else { s1 with me := shuttleAt s1 p, others := s1.me :: s1.others.filter (fun x => x.place ≠ p) }

/-- A near-data unit by tier and number. -/
def ndOf (s : State) (m : Bool) (u : Nat) : NdUnit :=
  if s.nd.tierM = m ∧ s.nd.unit = u then s.nd
  else match s.otherNd.find? (fun x => x.tierM = m && x.unit = u) with
    | some x => x
    | none => { tierM := m, unit := u }

/-- Bring a near-data unit into focus. -/
def focusNd (s : State) (m : Bool) (u : Nat) : State :=
  if s.nd.tierM = m ∧ s.nd.unit = u then s
  else { s with nd := ndOf s m u, otherNd := s.nd :: s.otherNd.filter (fun x => !(x.tierM = m && x.unit = u)) }

/-- The tier and number of a unit numbered as the happenings number them: tier M 0 to 511, tier S from 512 (R331). -/
def ndNumber (u : Nat) : Bool × Nat := if u < 512 then (true, u) else (false, u - 512)

/-! ### Registers -/

/-- A g register; g0 is a register like the others when read, and a write to it is discarded, so it keeps reading 0 (R7, R89). -/
def getG (h : Shuttle) (r : BitVec 5) : Word := h.g[r.toNat]'(r.isLt)
/-- Write a g register: a write to g0 is discarded (R89). -/
def setG (h : Shuttle) (r : BitVec 5) (v : Word) : Shuttle :=
  if r = 0 then h else { h with g := h.g.set r.toNat v (r.isLt) }

/-- A SEQ predicate p0 to p15: p0 reads true (R44, R89). -/
def getP (h : Shuttle) (p : BitVec 6) : Bool := if p = 0 then true else h.p.getLsbD p.toNat
/-- Write p1 to p15 (R89). -/
def setP (h : Shuttle) (p : BitVec 6) (v : Bool) : Shuttle :=
  if p = 0 ∨ 16 ≤ p.toNat then h
  else { h with p := if v then h.p ||| (1#16 <<< p.toNat) else h.p &&& ~~~(1#16 <<< p.toNat) }

/-- Write a SEQ destination. -/
def setDest (h : Shuttle) (d : SeqDest) (v : Word) : Shuttle :=
  match d with
  | .g r => setG h r v
  | .p r => setP h r (v != 0)

/-- A b register. -/
def getB (h : Shuttle) (r : BitVec 2) : BReg := h.b[r.toNat]'(r.isLt)
/-- Write a b register. -/
def setB (h : Shuttle) (r : BitVec 2) (v : BReg) : Shuttle := { h with b := h.b.set r.toNat v (r.isLt) }

/-- The engine state of a shuttle. -/
def engOf (h : Shuttle) (e : Eng) : EngQ :=
  match e with
  | .str => h.str | .vec => h.vec | .mtx => h.mtx
/-- The engine state of a shuttle changed. -/
def modEng (h : Shuttle) (e : Eng) (f : EngQ → EngQ) : Shuttle :=
  match e with
  | .str => { h with str := f h.str }
  | .vec => { h with vec := f h.vec }
  | .mtx => { h with mtx := f h.mtx }

/-- A stream register. -/
def getS (h : Shuttle) (r : BitVec 4) : Option Stream := h.s[r.toNat]'(r.isLt)
/-- Write a stream register. -/
def setS (h : Shuttle) (r : BitVec 4) (v : Option Stream) : Shuttle := { h with s := h.s.set r.toNat v (r.isLt) }

/-- Raise floating-point flags into the issuing shuttle's FPFLAGS (R96). -/
def raise (s : State) (f : FpFlags) : State := modMe s (fun h => { h with fpflags := raiseInto h.fpflags f })

/-! ### Results that have not landed (R242, R243) -/

/-- The earliest landing cycle in a list of pending writes. -/
def earliest {α : Type} (l : List (Nat × Nat × α)) : Option Nat :=
  l.foldl (fun m x => match m with
    | some t => some (Nat.min t x.2.1)
    | none => some x.2.1) none

/-- The lower of two cycles that may be absent. -/
def minOpt (a b : Option Nat) : Option Nat :=
  match a, b with
  | some x, some y => some (Nat.min x y)
  | some x, none => some x
  | none, b => b

/-- The ring with a reservation's value landed (R243). -/
def landRing (h : Shuttle) (n : Nat) (v : TileBits) : Shuttle := { h with ring := h.ring.set ((h.reserved - 1 - n) % 16) v }

/-- A completion of a VEC instruction takes effect. -/
def applyDue (h : Shuttle) (x : Nat × VecDue) : Shuttle :=
  match x.2 with
  | .push q => { h with tok := h.tok.setIfInBounds q (h.tok.toList.getD q 0 + 1) }
  | .flags f => { h with fpflags := raiseInto h.fpflags f }
  | .fifo v => { h with vec := { h.vec with fifo := h.vec.fifo ++ [v] } }

/-- Every VEC write and completion due by a cycle takes effect, in issue order among equals (R213, R222, R242, R243, R246). -/
def landVec (h : Shuttle) (t : Nat) : Shuttle :=
  let ord {α : Type} (l : List (Nat × Nat × α)) : List (Nat × Nat × α) := (l.filter fun x => x.2.1 ≤ t).mergeSort (fun a b => a.2.1 ≤ b.2.1)
  let rest {α : Type} (l : List (Nat × Nat × α)) : List (Nat × Nat × α) := l.filter fun x => !(decide (x.2.1 ≤ t))
  let h1 := (ord h.vpend).foldl (fun x w => { x with v := x.v.setIfInBounds w.1 w.2.2 }) h
  let h2 := (ord h.ppend).foldl (fun x w => { x with vp := x.vp.setIfInBounds w.1 w.2.2 }) h1
  let h3 := (ord h.rpend).foldl (fun x w => landRing x w.1 w.2.2) h2
  let h4 := ((h.vdue.filter fun x => x.1 ≤ t).mergeSort (fun a b => a.1 ≤ b.1)).foldl applyDue h3
  { h4 with vpend := rest h.vpend, ppend := rest h.ppend, rpend := rest h.rpend, vdue := h.vdue.filter fun x => !(decide (x.1 ≤ t)) }

/-- The latest landing cycle in a list of pending writes, 0 for none. -/
def latest {α : Type} (l : List (Nat × Nat × α)) : Nat := l.foldl (fun m x => Nat.max m x.2.1) 0

/-- The cycle by which everything of VEC has landed, 0 where nothing is pending. -/
def vecLands (h : Shuttle) : Nat :=
  Nat.max (Nat.max (latest h.vpend) (Nat.max (latest h.ppend) (latest h.rpend))) (h.vdue.foldl (fun m x => Nat.max m x.1) 0)

/-- The cycle in which something of VEC lands next. -/
def vecNext (h : Shuttle) : Option Nat :=
  h.vdue.foldl (fun m x => minOpt m (some x.1)) (minOpt (earliest h.vpend) (minOpt (earliest h.ppend) (earliest h.rpend)))

/-- Tokens of a queue that instructions issued with results still to land have yet to push: VEC's and the sequencer's. -/
def pushesDue (h : Shuttle) (q : Nat) : Nat :=
  (h.vdue.filter fun x => x.2 = .push q).length + (h.pend.filter fun x => decide (q ≠ 0 ∧ x.push = q)).length
/-- The elements of an engine's FIFO, those that VEC has yet to append among them. -/
def fifoCount (h : Shuttle) (e : Eng) : Nat :=
  (engOf h e).fifo.length + if e = .vec then (h.vdue.filter fun x => match x.2 with
    | .fifo _ => true
    | _ => false).length else 0

/-- The newest contents of a named tile, VEC writes that have not landed among them. -/
def newestTile (h : Shuttle) (v : Nat) : TileBits := ((h.vpend.filter fun w => w.1 = v).map (·.2.2)).getLastD (h.v.toList.getD v 0)

/-- Every VEC write lands, and VEC's clock has reached the last of them: an entry completes with its results (R24, R49). -/
def settleVec (h : Shuttle) : Shuttle :=
  let t := vecLands h
  modEng (landVec h t) .vec (fun q => { q with clock := Nat.max q.clock t })

/-! ### Tokens (R20) -/

/-- A token counter. -/
def tokCount (h : Shuttle) (q : Nat) : Nat := h.tok.toList.getD q 0
/-- A token counter set. -/
def setTok (h : Shuttle) (q n : Nat) : Shuttle := { h with tok := h.tok.setIfInBounds q n }

/-- A token of a queue popped: the old contents of named tiles that it orders are settled, and the others are one token nearer (R9,
R185). Only tq9 and tq12 join VEC and MTX. -/
def popEffect (h : Shuttle) (q : Nat) : Shuttle :=
  if q = 12 ∨ q = 9 then
    { h with vOld := (h.vOld.filter fun o => !(decide (o.q = q ∧ o.ahead = 0))).map fun o => if o.q = q then { o with ahead := o.ahead - 1 } else o }
  else h

/-- A named tile written by VEC (queue 9) or by MTX (queue 12): its old contents stay visible to the other until a token pushed later is
popped (R9, R185); its INUSE and DIRTY bits are set (R262). -/
def noteTile (h : Shuttle) (v q : Nat) : Shuttle :=
  { h with
    vOld := h.vOld ++ [{ v := v, bits := newestTile h v, q := q, ahead := tokCount h q + pushesDue h q }]
    vInuse := h.vInuse ||| (1#8 <<< v)
    vDirty := h.vDirty ||| (1#8 <<< v) }

/-! ### Time -/

/-- The reference ticks that a reduced tile clock adds to a number of cycles (R415). -/
def slowTicks (n : Nat) : Nat := n * 2 * Config.slowdown / 5000

/-- TSTAMP in reference ticks: 1 GHz against the 2.5 GHz tile clock (R1), and what reductions of that clock add (R415); droop stretches do not affect
it (R416). -/
def tstampOf (s : State) : Nat :=
  s.cycles * 2 / 5 + s.module.slowTicks + s.module.throttled.elim 0 fun since => slowTicks (s.cycles - since)

/-- The band of a tile: sixteen tiles each (R1, R31). -/
def bandOf (tile : Nat) : Nat := tile / 16

/-- CYCLES on a tile: the clocks delivered, those that its band lost to droop left out (R94, R416). -/
def cyclesOf (s : State) (tile : Nat) : Nat := s.cycles - assoc s.lost (bandOf tile) 0

/-- The module's clock follows the latest agent. -/
def tickTo (s : State) (c : Nat) : State := { s with cycles := Nat.max s.cycles c }

/-! ### Fault records (R373 to R375) -/

/-- The numbers of the fault codes (R374). -/
def codeNum : Code → Nat
  | .illegal => 0x01 | .priv => 0x02 | .divergent => 0x03 | .rights => 0x04 | .bounds => 0x05 | .xlate => 0x06
  | .hostpage => 0x07 | .integrity => 0x08 | .poison => 0x09 | .sealwrap => 0x0A | .codedwrite => 0x0B | .overrate => 0x0C
  | .footprint => 0x0D | .coop => 0x0E | .trip => 0x0F | .barover => 0x10 | .mismatch => 0x11 | .watchdog => 0x12

/-- The 64 bytes of a record (R373). -/
def recBytes (r : FaultRec) : List Byte :=
  bytesOf 1 (codeNum r.code)
    ++ bytesOf 1 (r.eng % 8 + (if r.warn then 8 else 0) + (if r.ndTierM then 16 else 0))
    ++ bytesOf 1 r.tenant ++ bytesOf 1 r.stream ++ bytesOf 2 r.vtile ++ bytesOf 2 r.ptile
    ++ bytesOf 4 r.team ++ bytesOf 4 r.seqno ++ bytesOf 4 r.codepos ++ bytesOf 1 r.card ++ bytesOf 1 r.tag
    ++ bytesOf 2 r.obj ++ bytesOf 8 r.va ++ bytesOf 8 r.cpos ++ bytesOf 8 r.spos ++ bytesOf 4 r.sealed
    ++ bytesOf 4 r.tagBytes ++ bytesOf 8 r.aux

/-- CODEPOS of a line and slot (R373). -/
def codePos (line slot : Nat) : Nat := line % 2 ^ 22 + slot % 8 * 2 ^ 22

/-- A legal DEPTH of a fault queue (R375). -/
def fqDepthOk (d : Nat) : Bool := decide (16 ≤ d ∧ d ≤ 65536) && decide (2 ^ Nat.log2 d = d)

/-- The next sequence number: after 0xFFFF_FFFF comes 1 (R375). -/
def seqAfter (n : Nat) : Nat := if n = 0xFFFFFFFF then 1 else n + 1

/-! Device memory written by the device itself, at physical addresses: the home, with the whole sectors covered made clean (R382). -/

/-- Sectors wholly covered by `n` bytes at `a`. -/
def wholeSectors (a n : Nat) : List Nat :=
  (unitsOf a n 48).filter fun k => decide (a ≤ 48 * k) && decide (48 * k + 48 ≤ a + n)

/-- The bytes written at their home; sectors written whole become clean, a poisoned write poisons the sectors it touches (R382). -/
def homeWrite (m : MemSys) (pa : Nat) (bs : List Byte) (poisoned : Bool) : MemSys :=
  let whole := wholeSectors pa bs.length
  let clean := m.poison.filter (fun k => k ∉ whole)
  let tiles := unitsOf pa bs.length 6144
  { m with
    home := memWrite m.home pa bs
    poison := if poisoned then (unitsOf pa bs.length 48).foldl insertNat clean else clean
    stale := if m.stale = [] then [] else m.stale.filter fun k => k ∉ unitsOf pa bs.length 48
    cleaned := if whole = [] then m.cleaned else m.cleaned.map fun c =>
      if c.tile ∈ tiles then { c with sectors := (whole.filter (fun k => k / 128 = c.tile)).foldl insertNat c.sectors } else c }

/-- The L2 line presence after an access to a line: present, with the sectors that the access brought or wrote whole, and those it dirtied (R288). -/
def l2Touch (l : List L2Line) (line : Nat) (valid dirty : List Nat) (pol : Policy) (writer : Nat) : List L2Line :=
  upsert l (fun x => x.line = line)
    (fun x => { x with valid := valid.foldl insertNat x.valid, dirty := dirty.foldl insertNat x.dirty, keep := x.keep || pol.keep,
                       writer := if dirty = [] then x.writer else writer, msc := if dirty = [] then x.msc else pol.msc })
    { line := line }

/-- The entry of a page-table at a physical base and index (R369). -/
def pteAt (m : MemSys) (base idx : Nat) : Word := BitVec.ofNat 64 (memNat m.home (base + 8 * idx) 8)

/-- Base frames that a leaf's SIZE spans (R369). -/
def sizeSpan (size : Nat) : Nat := if size = 0 then 1 else if size = 1 then 64 else 4096

/-- Is a valid leaf well formed at a level, level 1 counted as 0 (R369, R370)? -/
def leafOk (level w : Nat) : Bool :=
  let size := bitsOf w 3 2
  let pfn := bitsOf w 63 32
  decide (level = 0 ∧ size ≤ 1 ∨ level = 1 ∧ size = 2) && decide (bitsOf w 31 21 = 0)
    && if bitsOf w 7 7 = 1 then decide (bitsOf w 20 12 = 0)
       else decide (pfn % sizeSpan size = 0) && decide (pfn + sizeSpan size ≤ Config.physFrames) && decide (bitsOf w 20 12 = pfn * 98304 / 2 ^ 30)

/-- The entry that an access uses at an index of a table at a level: the one there, or, where it is a well-formed leaf of a group of 64 or 4 whose
entries are not all equal, the member that `group` chooses (R370). -/
def groupEntry (m : MemSys) (group level base idx : Nat) : Word :=
  let e := pteAt m base idx
  let size := bitsOf e.toNat 3 2
  let n := if size = 1 then 64 else 4
  let first := idx / n * n
  if bitsOf e.toNat 1 0 ≠ 3 ∨ size = 0 ∨ !leafOk level e.toNat then e
  else if (List.range n).all (fun i => pteAt m base (first + i) = e) then e
  else pteAt m base (first + group % n)

/-- The leaf entry and level of a walk from a root for a base frame number, or none where it ends in XLATE (R369, R370). `group`
chooses a member of a group whose entries differ. -/
def walkFrom (m : MemSys) (group : Nat) (frame : Nat) : Nat → Nat → Option Word
  | 0, _ => none
  | level + 1, base =>
    let e := groupEntry m group level base (frame / 2 ^ (10 * level) % 1024)
    let w := e.toNat
    if w % 2 = 0 then none
    else if bitsOf w 1 1 = 0 then
      if bitsOf w 31 2 ≠ 0 ∨ level = 0 then none else walkFrom m group frame level (bitsOf w 63 32 * 8192)
    else if leafOk level w then some e
    else none

/-- The leaf entry that translates a virtual address for a tenant, read afresh (R369, R370). -/
def walkFresh (s : State) (t va : Nat) : Option Word :=
  if 2 ^ 56 ≤ va then none
  else walkFrom s.mem (Config.choose s.fresh) (va / 98304) 4 (ctxOf s t).xlBase.toNat

/-- The addresses of the entries that a walk for a base frame reads (R369). -/
def walkReads (m : MemSys) (group frame : Nat) : Nat → Nat → List Nat
  | 0, _ => []
  | level + 1, base =>
    let idx := frame / 2 ^ (10 * level) % 1024
    let v := (groupEntry m group level base idx).toNat
    (base + 8 * idx) :: (if bitsOf v 1 0 = 1 then walkReads m group frame level (bitsOf v 63 32 * 8192) else [])

/-- A tile's metadata; at reset unsealed and assigned to tenant 0 (R377). -/
def sealMeta (m : MemSys) (T : Nat) : SealMeta := assoc m.seals T {}

/-- Does a read of a physical address for a tenant deliver what stands there: it is the tenant's tile, or the L2 holds the sector; and it is not
poisoned (R377, R382)? -/
def lineReadable (m : MemSys) (t pa : Nat) : Bool :=
  (decide ((sealMeta m (pa / 6144)).owner = t) || m.l2.any (fun x => x.line = pa / 192 && decide (pa / 48 ∈ x.valid))) && decide (pa / 48 ∉ m.poison)

/-- A walk of the device itself: as `walkFresh`, where each table line can be read as memory of the tenant (R369). -/
def walkHome (s : State) (t va : Nat) : Option Word :=
  if (walkReads s.mem (Config.choose s.fresh) (va / 98304) 4 (ctxOf s t).xlBase.toNat).all (lineReadable s.mem t) then walkFresh s t va else none

/-- The byte address a leaf gives a virtual address: physical, or host for a HOST leaf (R365, R369). -/
def leafAddr (e : Word) (va : Nat) : Nat :=
  let v := e.toNat
  let f := va / 98304
  let size := bitsOf v 3 2
  let f0 := if size = 0 then f else if size = 1 then f / 64 * 64 else f / 4096 * 4096
  if bitsOf v 7 7 = 1 then bitsOf v 63 32 * 98304 + va % 98304 + (f - f0) * 98304
  else (bitsOf v 63 32 + f - f0) * 98304 + va % 98304

/-- Rights and attributes of a leaf (R370). -/
def leafR (e : Word) : Bool := e.getLsbD 4
/-- Write right. -/
def leafW (e : Word) : Bool := e.getLsbD 5
/-- CODED. -/
def leafCoded (e : Word) : Bool := e.getLsbD 6
/-- HOST. -/
def leafHost (e : Word) : Bool := e.getLsbD 7
/-- MSC policy; 3 acts as 0. -/
def leafMscp (e : Word) : Nat := bitsOf e.toNat 9 8 % 3
/-- L2 policy; 3 acts as 0. -/
def leafL2p (e : Word) : Nat := bitsOf e.toNat 11 10 % 3

/-- The physical address of a buffered sector. -/
def flyPa (x : Flying) : Nat :=
  match x.dst with
  | (.dev pa, _, _) :: _ => pa
  | _ => 0

/-- The old values of bytes that a tenant other than their tile's owner writes over are kept; the owner's own write ends that. -/
def noteForeign (m : MemSys) (t : Nat) (own : Bool) (pa n : Nat) : MemSys :=
  (List.range n).foldl (fun m i =>
    let a := pa + i
    if (sealMeta m (a / 6144)).owner = t ∨ own then { m with foreign := m.foreign.filter (fun x => x.1 ≠ a) }
    else if m.foreign.any (fun x => x.1 = a) then m
    else { m with foreign := (a, t, memGet m.home a) :: m.foreign }) m

/-- Bytes written at a home for a tenant, or as the owner of their tiles. The poison of a tile that is another tenant's stands as it was (R377, R382,
R385). -/
def tenantWrite (m : MemSys) (t : Nat) (own : Bool) (pa : Nat) (bs : List Byte) (poisoned : Bool) : MemSys :=
  let w := homeWrite (noteForeign m t own pa bs.length) pa bs poisoned
  let other (T : Nat) : Bool := decide ((sealMeta m T).owner ≠ t) && !own
  if (unitsOf pa bs.length 6144).any other then
    { w with
      poison := (w.poison.filter fun k => !other (k / 128)) ++ m.poison.filter fun k => other (k / 128)
      cleaned := w.cleaned.map fun c => if other c.tile then (m.cleaned.find? fun d => d.tile = c.tile).getD c else c }
  else w

/-- Where a byte of a fault queue lies: of the management queue at a device physical address, of a tenant's at a VA (R375). -/
def fqAddr (s : State) (mgmt : Bool) (t off : Nat) : Option Nat :=
  if mgmt then some (s.module.mgmtFq.toNat + off)
  else
    let va := (ctxOf s t).faultQ.toNat + off
    match walkHome s t va with
    | some e => if leafHost e then none else some (leafAddr e va)
    | none => none

/-- Where a fault queue's header lies. -/
def fqBase (s : State) (mgmt : Bool) (t : Nat) : Option Nat := fqAddr s mgmt t 0

/-- Is there room for a record: a legal DEPTH, and HEAD − TAIL below it (R375)? -/
def fqRoom (s : State) (base : Nat) : Bool :=
  let d := memNat s.mem.home base 4
  let h := memNat s.mem.home (base + 4) 4
  let t := memNat s.mem.home (base + 8) 4
  fqDepthOk d && decide ((h + 2 ^ 32 - t) % 2 ^ 32 ≠ d)

/-- Where the next record of a queue goes: the entry at HEAD, each entry translated by itself (R375). -/
def fqSlot (s : State) (mgmt : Bool) (t base : Nat) : Option Nat :=
  fqAddr s mgmt t (64 + 64 * (memNat s.mem.home (base + 4) 4 % memNat s.mem.home base 4))

/-- Does a copy hold sectors of the tile of a physical address in the base die's buffer, which is to be sealed before another write of the tile
(R367)? -/
def buffersTile (s : State) (pa : Nat) : Bool :=
  (allShuttles s).any fun h => h.copies.any fun c => c.buffered.any fun x => decide (flyPa x / 6144 = pa / 6144)

/-- Bytes that the device writes at an address for a tenant, or at a management address as the owner of its tile (R377, R410). -/
def ownPut (s : State) (t : Nat) (own : Bool) (pa : Nat) (bs : List Byte) : State :=
  { s with mem := tenantWrite s.mem t own pa bs false }

/-- The record written at its entry and HEAD advanced (R375). -/
def fqWrite (s : State) (mgmt : Bool) (t base slot : Nat) (r : FaultRec) : State :=
  let h := memNat s.mem.home (base + 4) 4
  ownPut (ownPut s t mgmt slot (recBytes r)) t mgmt (base + 4) (bytesOf 4 ((h + 1) % 2 ^ 32))

/-- The records of a queue that wait (R375). -/
def fqWaiting (s : State) (mgmt : Bool) (t : Nat) : List FaultRec :=
  if mgmt then s.module.mgmtWaiting else (ctxOf s t).waiting

/-- A record posted to a queue (R375): numbered, then written, or left waiting at its source: for room, behind the records that wait, or until a copy's
buffer over its place is sealed (R367). Answers the sequence number. -/
def postRec (s : State) (mgmt : Bool) (t : Nat) (r : FaultRec) : State × Nat :=
  let n := if mgmt then s.module.mgmtSeq else (ctxOf s t).nextSeq
  let r' := { r with seqno := n }
  let s1 := if mgmt then modModule s (fun m => { m with mgmtSeq := seqAfter n })
    else modCtx s t (fun c => { c with nextSeq := seqAfter n })
  let wait (s : State) : State :=
    if mgmt then modModule s (fun m => { m with mgmtWaiting := m.mgmtWaiting ++ [r'] })
    else modCtx s t (fun c => { c with waiting := c.waiting ++ [r'] })
  let signal (s : State) : State :=
    if mgmt then modModule s (fun m => { m with mgmtMsix := true }) else modCtx s t (fun c => { c with msix := true })
  match fqBase s mgmt t with
  | none => (wait s1, n)
  | some base =>
    match fqSlot s mgmt t base with
    | none => (wait s1, n)
    | some slot =>
      if fqWaiting s mgmt t = [] ∧ fqRoom s base ∧ !buffersTile s base ∧ !buffersTile s slot then (signal (fqWrite s1 mgmt t base slot r'), n)
      else (wait s1, n)

/-- A Page Request sent for a HOSTPAGE record, or left waiting for an allocation or its index (R365). -/
def sendPrq (c : Ctx) (q : PageReq) : Ctx :=
  let out := c.prq.filter (·.sent)
  let blocked := decide (c.prAlloc ≤ out.length) || out.any (fun x => x.idx = q.idx)
  { c with prq := c.prq ++ [{ q with sent := !blocked }] }

/-- Is the shuttle's launch the management function's own, so that its records go to that function's queue (R375)? -/
def mgmtLaunch (s : State) : Bool := s.loom.launches.any fun l => l.id = s.me.launch && decide (l.fn = 0)

/-- A record for a fault of the shuttle in focus, posted to its tenant's queue; a HOSTPAGE record also sends its request (R365). -/
def postMine (s : State) (r : FaultRec) (write : Bool) : State × Nat :=
  let h := s.me
  let r' := { r with tenant := h.tenant, vtile := h.vtile, ptile := h.place.tile, team := h.team }
  let (s1, n) := postRec s (mgmtLaunch s) h.tenant r'
  if r.code = .hostpage then
    (modCtx s1 h.tenant (fun c => sendPrq c { addr := r.aux, idx := n % 512, seqno := n, write := write }), n)
  else (s1, n)

/-- Does a record of the shuttle's tenant still wait for room (R375)? -/
def recWaits (s : State) (n : Nat) : Bool := (fqWaiting s (mgmtLaunch s) s.me.tenant).any fun r => r.seqno = n

/-! ### Taking a trap and returning from one (R92, R139) -/

/-- A token given back to a queue: the instruction that popped it did not execute, or executes again (R26, R28). -/
def unpop (h : Shuttle) (q : Nat) : Shuttle :=
  if q = 0 then h
  else { setTok h q (Nat.min 15 (tokCount h q + 1)) with vOld := h.vOld.map fun o => if o.q = q then { o with ahead := o.ahead + 1 } else o }

/-- Is a shuttle stalled in a wait that is a safe point (R28)? -/
def stallsSafe (h : Shuttle) : Bool :=
  match h.wait with
  | some (.bar _ _) | some (.tagAny _ _) | some (.tagAll _) | some .exit => true
  | _ => false

/-- A shuttle stalled in a wait that is a safe point stops at once; the wait executes again at resumption (R28, R398). -/
def stopInWait (h : Shuttle) : Shuttle :=
  if stallsSafe h then { (if h.popped then unpop h h.ctl.pop.toNat else h) with life := .stopped, wait := none, popped := false } else h

/-- Is a stream of the shuttle parked, for a translation or for a pick (R156, R157, R328)? -/
def anyParked (h : Shuttle) : Bool :=
  h.s.any fun x => match x with
    | some st => st.parked || st.resid
    | none => false

/-- Is a stream of a team's shuttles parked? A request to stop the gang waits meanwhile (R158, R328). -/
def teamParked (s : State) (team : Nat) : Bool := (allShuttles s).any fun h => decide (h.team = team ∧ h.life ≠ .idle) && anyParked h

/-- A shuttle asked to stop at its next safe point; a paired one in a wait that is such a point makes its compare at once (R398, R407). -/
def askStop (team : Nat) (h : Shuttle) : Shuttle :=
  if h.team = team ∧ !h.stopReq ∧ (h.life = .running ∨ h.life = .halted) then
    (if h.life = .halted then { h with stopReq := true }
      else if h.paired then { h with stopReq := true, compareDue := h.compareDue || stallsSafe h }
      else stopInWait { h with stopReq := true })
  else h

/-- The shuttles of a team asked to stop (R398 step 1). -/
def askTeam (s : State) (team : Nat) : State := { s with me := askStop team s.me, others := s.others.map (askStop team) }

/-- A request that the gang of a team stop at its safe points (R398): for good, where `stop` holds (R403, R404). While a stream of the gang
is parked the request waits (R158). -/
def requestStop (s : State) (team : Nat) (stop : Bool) : State :=
  let s1 := modLoom s (fun l => { l with gangs := l.gangs.map fun g =>
    if g.team = team ∧ (g.state = .running ∨ g.state = .stopping) then { g with state := .stopping, stop := g.stop || stop } else g })
  if teamParked s1 team then s1 else askTeam s1 team

/-- One SEQ result lands: its destination is written, then the token of its instruction is pushed (R8, R20, R91). -/
def landOne (h : Shuttle) (q : Pend) : Shuttle :=
  let x := setDest h q.dest q.val
  if q.push = 0 then x else setTok x q.push (tokCount x q.push + 1)

/-- Land every pending SEQ result, in the order in which they land (R26 step 1, R91). -/
def landAll (h : Shuttle) : Shuttle :=
  let sorted := h.pend.mergeSort (fun a b => a.land ≤ b.land)
  { sorted.foldl landOne h with pend := [], late := [] }

/-- Steps 3 and 4 of R92 for the shuttle in focus, with a cause, a VA and the address TRAPPC takes: a handler runs in privileged
mode, or the shuttle halts and its gang is stopped. The MODE of the last line and a pending branch are forgotten (DESIGN CHOICE: the manual
is silent; log entry 80). -/
def enterTrap (s : State) (cause va : Nat) (resume : Word) : State :=
  let h := landAll s.me
  if h.trapVec = 0 ∨ h.priv then
    requestStop { s with me := { h with life := .halted, wait := none, popped := false, dueTrap := none } } h.team true
  else
    { s with me := { h with
        trapCode := BitVec.ofNat 64 (cause % 256), trapVa := BitVec.ofNat 64 va, trapPc := resume,
        priv := true, pc := h.trapVec, delay := none, wait := none, popped := false, lastInter := none, dueTrap := none,
        clock := h.clock + 12 } }

/-- A precise trap of the shuttle in focus for a fault code (R92): the record is written, then the handler is entered; while the record
waits for room, the trap waits with it (R375). -/
def trapWith (s : State) (c : Code) (va : Nat) (r : FaultRec) (write : Bool) : State :=
  let pos := codePos (s.me.pc.toNat / 8) (s.me.pc.toNat % 8)
  let (s1, n) := postMine s { r with code := c, eng := 0, codepos := pos, va := va } write
  if recWaits s1 n then modMe s1 (fun h => { h with dueTrap := some (c, va, n), wait := none, popped := false })
  else enterTrap s1 (codeNum c) va s1.me.pc

/-- A precise trap whose record has no further field. -/
def trapOn (s : State) (c : Code) (va : Nat) : State := trapWith s c va {} false

/-- Return from a trap (R139): user mode, the code address in TRAPPC; engines take entries of the shuttle again. No line precedes the next
one (DESIGN CHOICE, log entry 80). -/
def sysretTo (s : State) : State :=
  modMe s (fun h => { h with priv := false, pc := h.trapPc, held := false, lastInter := none, delay := none })

/-! ### Aborting an engine entry (R49) -/

/-- The entry an engine is running ends: its results have landed, and it counts as completed (R24). -/
def endEntry (h : Shuttle) (e : Eng) : Shuttle :=
  modEng (if e = .vec then settleVec h else h) e (fun q => { q with
    cur := none
    done := q.done + 1
    lastInter := match q.cur with
      | some c => some c.inter
      | none => q.lastInter })

/-- The number of an engine in a record (R373). -/
def engNum : Eng → Nat
  | .str => 1 | .vec => 2 | .mtx => 3

/-- R49 for the shuttle in focus: the rest of the entry is discarded, a record names the engine, line and slot, the shuttle traps
before its next SEQ instruction and no engine starts an entry until `sysret`. While the record waits for room, the entry does not
complete (R375). -/
def abortWith (s : State) (e : Eng) (c : Code) (r : FaultRec) : State :=
  let cur := (engOf s.me e).cur
  let pos := match cur with
    | some x => codePos x.line x.slot
    | none => 0xFFFFFFFF
  let card := match cur with
    | some x => x.card.getD 0xFF
    | none => 0xFF
  let (s1, n) := postMine s { r with code := c, eng := engNum e, codepos := pos, card := card } false
  let waits := recWaits s1 n
  modMe s1 (fun h =>
    let h1 := if waits then modEng h e (fun q => { q with cur := q.cur.map fun x => { x with aborting := some n } }) else endEntry h e
    { h1 with
      held := true
      dueTrap := match h1.dueTrap with
        | some t => some t
        | none => some (c, r.va, n) })

/-- An abort whose record has no further field. -/
def abortEntry (s : State) (e : Eng) (c : Code) : State := abortWith s e c {}

end Sys2Proof.Machine
end

