-- ==== Sys2Proof/Machine/Walk.lean ====
section
/-! DEFINITION. Translation with the translations the module holds (R369 to R372), the device's own reads of tenant structures, the
object table (R143 to R146), and the tier maps (R312, R313). -/
namespace Sys2Proof.Machine

/-! ### Translation (R372) -/

/-- Base frames that a leaf spans, and the first of them for a base frame (R369). -/
def leafSpan (e : Word) : Nat := sizeSpan (bitsOf e.toNat 3 2)
/-- F0 of R369. -/
def frameBase (f : Nat) (e : Word) : Nat := f / leafSpan e * leafSpan e

/-- The translation the module holds for a tenant's base frame. -/
def tlbFind (s : State) (t f : Nat) : Option TlbEnt :=
  s.mem.tlb.find? fun x => x.tenant = t && x.frame = frameBase f x.pte

/-- A translation for a tenant's base frame that `xlinv` has invalidated and no `objsync` has ended (R138, R372). -/
def tlbOldFind (s : State) (t f : Nat) : Option TlbEnt :=
  s.mem.tlbOld.find? fun x => x.tenant = t && x.frame = frameBase f x.pte

/-- The device's own view of a virtual address: the home address a fresh walk gives, when it lies in device memory. -/
def homeOf (s : State) (t va : Nat) : Option Nat :=
  match walkHome s t va with
  | some e => if leafHost e then none else some (leafAddr e va)
  | none => none

/-- A little-endian number read by the device at its home; fields of tenant structures are naturally aligned. -/
def homeNat (s : State) (t va n : Nat) : Option Nat :=
  match homeOf s t va with
  | some pa => some (memNat s.mem.home pa n)
  | none => none

/-- Bytes read by the device, each translated by itself. -/
def homeRun (s : State) (t va : Nat) : Nat → Option (List Byte)
  | 0 => some []
  | n + 1 =>
    match homeOf s t va, homeRun s t (va + 1) n with
    | some pa, some bs => some (memGet s.mem.home pa :: bs)
    | _, _ => none

/-- Bytes read by the device: those of one frame lie side by side at its home, others are translated each by itself. -/
def homeBytes (s : State) (t va n : Nat) : Option (List Byte) :=
  if va % 98304 + n ≤ 98304 && decide (va + n ≤ 2 ^ 56) then
    if n = 0 then some [] else (homeOf s t va).map fun pa => memRead s.mem.home pa n
  else homeRun s t va n

/-- A little-endian number written by the device at its home; an address that does not translate takes nothing. -/
def homePut (s : State) (t va n v : Nat) : State :=
  match homeOf s t va with
  | some pa => ownPut s t false pa (bytesOf n v)
  | none => s

/-- Bytes written by the device, each translated by itself. -/
def homePutBytes (s : State) (t va : Nat) : List Byte → State
  | [] => s
  | b :: bs =>
    let s1 := match homeOf s t va with
      | some pa => ownPut s t false pa [b]
      | none => s
    homePutBytes s1 t (va + 1) bs

/-! ### The object table (R143, R144) -/

namespace Obj
/-- BASE. -/
def base (e : BitVec 256) : Nat := (e.extractLsb' 0 56).toNat
/-- SIZE. -/
def size (e : BitVec 256) : Nat := (e.extractLsb' 64 48).toNat
/-- TYPE. -/
def type (e : BitVec 256) : Nat := (e.extractLsb' 112 4).toNat
/-- VER. -/
def ver (e : BitVec 256) : Nat := (e.extractLsb' 116 4).toNat
/-- RIGHTS bits: 0 read, 1 write, 2 decode, 3 climb, 4 kick. -/
def right (e : BitVec 256) (i : Nat) : Bool := e.getLsbD (120 + i)
/-- FORMAT. -/
def format (e : BitVec 256) : Nat := (e.extractLsb' 128 8).toNat
/-- LOG2PICK, 0xFF for none. -/
def log2pick (e : BitVec 256) : Nat := (e.extractLsb' 136 8).toNat
/-- TIERMAP. -/
def tiermap (e : BitVec 256) : Nat := (e.extractLsb' 144 16).toNat
/-- SCALEBASE. -/
def scaleBase (e : BitVec 256) : Nat := (e.extractLsb' 160 56).toNat
/-- SCALESTRIDE. -/
def scaleStride (e : BitVec 256) : Nat := (e.extractLsb' 216 8).toNat
/-- ROWLEN. -/
def rowlen (e : BitVec 256) : Nat := (e.extractLsb' 224 24).toNat
/-- VALID, a TYPE of 7 or less, reserved bits 0 and SCALESTRIDE not 1 (R144). -/
def usable (e : BitVec 256) : Bool :=
  e.getLsbD 255 && decide (type e ≤ 7) && decide (e.extractLsb' 56 8 = 0) && decide (e.extractLsb' 125 3 = 0)
    && decide (e.extractLsb' 248 7 = 0) && decide (scaleStride e ≠ 1)
end Obj

/-- The 256 bits of 32 bytes. -/
def entryOf (bs : List Byte) : BitVec 256 := BitVec.ofNat 256 (natOfBytes bs)

/-- Read an object entry afresh, as the tier manager and the scheduler do. Entry 65,535 is never read (R146). -/
def entryFresh (s : State) (t idx : Nat) : Option (BitVec 256) :=
  if idx = 0xFFFF then none else (homeBytes s t ((ctxOf s t).objBase.toNat + 32 * idx) 32).map entryOf

/-- An object entry read whole by the device: the cached copy where it is the entry in memory, either of the two where they differ
until an `objsync` has passed (R137, R145), none where the table does not translate. -/
def objEntry (s : State) (t idx : Nat) : State × Option (BitVec 256) :=
  let fresh := entryFresh s t idx
  match s.mem.objs.find? (fun x => x.tenant = t && x.idx = idx) with
  | some x =>
    if some x.bits = fresh then (s, fresh)
    else if Config.chooseStale s.fresh then (bump s, some x.bits) else (bump s, fresh)
  | none =>
    match fresh with
    | some e => (modMem s (fun m => { m with objs := m.objs ++ [{ tenant := t, idx := idx, bits := e }] }), some e)
    | none => (s, none)

/-- The format code of twill (R81). -/
def fmtTwill : Nat := 12

/-- Bytes of sixteen elements of a format, by the codes of R54 and R81; 0 for twill and none. -/
def sixteenBytes (format : Nat) : Nat :=
  match format with
  | 0 => 64 | 1 => 32 | 2 => 32 | 3 => 16 | 4 => 16 | 5 => 64 | 6 => 32 | 7 => 16 | 8 => 16 | 9 => 16 | 10 => 10 | 11 => 6
  | 13 => 8 | _ => 0

/-- Bytes of `n` elements of a format; for twill the element is the 48-byte segment (R312). -/
def elemBytes (format n : Nat) : Nat := if format = fmtTwill then 48 * n else sixteenBytes format * n / 16

/-- Bits of `n` elements of a format (R312): an i4 element has half a byte, a twill one is the segment. -/
def elemBits (format n : Nat) : Nat := if format = fmtTwill then 384 * n else sixteenBytes format * n / 2

/-! ### Tier maps (R312, R313) -/

/-- An entry of a tier map as its 64-bit word. -/
abbrev TierEnt := BitVec 64

namespace Tier
/-- RES. -/
def res (e : TierEnt) : Nat := bitsOf e.toNat 1 0
/-- HED. -/
def hed (e : TierEnt) : Nat := bitsOf e.toNat 3 2
/-- STATE: 0 ready, 1 promoting, 2 lost, 3 parked-for-repair. -/
def state (e : TierEnt) : Nat := bitsOf e.toNat 5 4
/-- A copy bit: CS, CM, CC by tier. -/
def copy (e : TierEnt) (tier : Nat) : Bool := e.getLsbD (6 + tier)
/-- LS or LM. -/
def lost (e : TierEnt) (tier : Nat) : Bool := e.getLsbD (9 + tier)
/-- SEQ. -/
def seq (e : TierEnt) : Nat := bitsOf e.toNat 63 32
/-- An entry of its fields. -/
def make (res hed state : Nat) (cs cm cc ls lm : Bool) (seq : Nat) : TierEnt :=
  BitVec.ofNat 64 (res % 4 + hed % 4 * 4 + state % 4 * 16 + (if cs then 64 else 0) + (if cm then 128 else 0) + (if cc then 256 else 0)
    + (if ls then 512 else 0) + (if lm then 1024 else 0) + seq % 2 ^ 32 * 2 ^ 32)
/-- Is the entry well formed (R313)? -/
def wf (e : TierEnt) : Bool :=
  decide (hed e ≤ res e) && decide (res e ≠ 3) && decide (hed e ≠ 3) && copy e (res e) && copy e (hed e)
    && decide (bitsOf e.toNat 31 11 = 0)
/-- The entry with its heddle at a tier and SEQ one greater (R313). -/
def moved (e : TierEnt) (res hed state : Nat) : TierEnt :=
  make res hed state (copy e 0) (copy e 1) (copy e 2) (lost e 0) (lost e 1) (seq e + 1)
/-- The entry with another STATE. -/
def withState (e : TierEnt) (st : Nat) : TierEnt :=
  make (res e) (hed e) st (copy e 0) (copy e 1) (copy e 2) (lost e 0) (lost e 1) (seq e)
/-- The entry with a copy bit set or cleared. -/
def withCopy (e : TierEnt) (tier : Nat) (b : Bool) : TierEnt :=
  make (res e) (hed e) (state e) (if tier = 0 then b else copy e 0) (if tier = 1 then b else copy e 1)
    (if tier = 2 then b else copy e 2) (lost e 0) (lost e 1) (seq e)
/-- The entry with a lost bit set. -/
def withLost (e : TierEnt) (tier : Nat) : TierEnt :=
  make (res e) (hed e) (state e) (copy e 0) (copy e 1) (copy e 2) (lost e 0 || decide (tier = 0)) (lost e 1 || decide (tier = 1)) (seq e)
/-- The entry with another RES. -/
def withRes (e : TierEnt) (r : Nat) : TierEnt :=
  make r (hed e) (state e) (copy e 0) (copy e 1) (copy e 2) (lost e 0) (lost e 1) (seq e)
end Tier

/-- A tier map as the tier manager sees it: the tenant, its object and VA, the tensor's entry, the header's fields (R313), and
LOG2PICK of the tensor's entry (R312). -/
structure TMap where
  tenant : Nat
  idx : Nat
  base : Nat
  picks : Nat
  log2pick : Nat
  streamable : Bool
  tensor : Nat
  sched : Nat
  /-- The tensor's entry. -/
  entry : BitVec 256
deriving DecidableEq, Repr

/-- The tier map of an object index, where its entry is a usable tier map and its header reads. -/
def tmapOf (s : State) (t idx : Nat) : Option TMap :=
  match entryFresh s t idx with
  | some e =>
    if Obj.usable e && decide (Obj.type e = 5) then
      match homeBytes s t (Obj.base e) 10 with
      | some hd =>
        let n := natOfBytes hd
        let tensor := bitsOf n 63 48
        match entryFresh s t tensor with
        | some te => some { tenant := t, idx := idx, base := Obj.base e, picks := bitsOf n 31 0, log2pick := Obj.log2pick te,
                            streamable := decide (bitsOf n 40 40 = 1), tensor := tensor, sched := bitsOf n 79 64, entry := te }
        | none => none
      | none => none
    else none
  | none => none

/-- Entry p of a tier map. -/
def tierEnt (s : State) (m : TMap) (p : Nat) : Option TierEnt :=
  (homeNat s m.tenant (m.base + 64 + 8 * p) 8).map (BitVec.ofNat 64)
/-- Entry p written by the tier manager, as one word. -/
def putTier (s : State) (m : TMap) (p : Nat) (e : TierEnt) : State := homePut s m.tenant (m.base + 64 + 8 * p) 8 e.toNat

/-- The byte of the tensor that pick p begins in (R312). -/
def pickOff (m : TMap) (p : Nat) : Nat := elemBits (Obj.format m.entry) (p * 2 ^ m.log2pick) / 8
/-- Bytes that hold some of pick p; the last pick may be shorter. -/
def pickLen (m : TMap) (p : Nat) : Nat :=
  Nat.min ((elemBits (Obj.format m.entry) ((p + 1) * 2 ^ m.log2pick) + 7) / 8) (Obj.size m.entry) - pickOff m p

/-- The physical seal tiles that hold bytes of a range of a tenant's address space, without repeats (R312). -/
def tilesOf (s : State) (t va n : Nat) : List Nat :=
  (unitsOf va n 6144).foldl (fun l u =>
    match homeOf s t (u * 6144) with
    | some pa => if pa / 6144 ∈ l then l else l ++ [pa / 6144]
    | none => l) []

/-- The seal tiles of pick p. -/
def pickTiles (s : State) (m : TMap) (p : Nat) : List Nat := tilesOf s m.tenant (Obj.base m.entry + pickOff m p) (pickLen m p)

/-- The indices of a tenant's object table at which an entry may have TYPE 5: its byte 14 ends in that digit (R143). Only listed bytes of memory are
looked at, for an unlisted one is 0. -/
def mapIndices (s : State) (c : Ctx) : List Nat :=
  let base := c.objBase.toNat
  let cells := s.mem.home.filter fun x => decide (x.1 % 32 = (base + 14) % 32 ∧ x.2.toNat % 16 = 5)
  if cells = [] then []
  else (unitsOf base 2097152 98304).flatMap fun f =>
    match homeOf s c.tenant (f * 98304) with
    | none => []
    | some pf => cells.filterMap fun x =>
      let va := f * 98304 + (x.1 - pf)
      if pf ≤ x.1 ∧ x.1 < pf + 98304 ∧ base ≤ va ∧ va < base + 2097152 then some ((va - base) / 32) else none

/-- The tier maps of every tenant, which the tier manager keeps (R311, R313, R326). -/
def knownMaps (s : State) : List TMap := s.ctxs.flatMap fun c => (mapIndices s c).filterMap (tmapOf s c.tenant)

/-- Picks of a tier map with bytes in a physical seal tile. -/
def picksIn (s : State) (m : TMap) (tile : Nat) : List Nat := (List.range m.picks).filter fun p => tile ∈ pickTiles s m p

end Sys2Proof.Machine
end

