-- ==== Sys2Proof/Machine/Seal.lean ====
section
/-! DEFINITION. What stands between an L2 home and a DRAM row: seals and versions (R377 to R380), verification and poison (R381,
R382), lost picks (R326), the memory-side cache (R356), the buffer of a HINT 1 copy (R367), and reads and writes of device memory at
their home (R292). -/
namespace Sys2Proof.Machine

/-- A tile's metadata written. -/
def setMeta (m : MemSys) (T : Nat) (x : SealMeta) : MemSys := { m with seals := assocSet m.seals T x }

/-- The seal region of a tile (R376). -/
def regionOf (T : Nat) : Nat := 6144 * T / 2 ^ 30

/-- A pair's generations (R379). -/
def pairOf (m : MemSys) (t r : Nat) : Pair :=
  match m.pairs.find? (fun p => p.tenant = t && p.region = r) with
  | some p => p
  | none => { tenant := t, region := r }
/-- A pair changed. -/
def modPair (m : MemSys) (t r : Nat) (f : Pair → Pair) : MemSys :=
  { m with pairs := upsert m.pairs (fun p => p.tenant = t && p.region = r) f { tenant := t, region := r } }

/-- The SEAL field of a record: version and generation (R373). -/
def sealField (x : SealMeta) : Nat := x.version % 2 ^ 28 + x.gen % 16 * 2 ^ 28

/-- The 48-byte sectors that share bytes with the dirty 64-byte sectors of an MSC tile (R356). -/
def mscDirty (x : MscTile) : List Nat := x.dirty.flatMap fun k => unitsOf (64 * k) 64 48

/-- The 48-byte sectors of a line of a tile in the MSC. -/
def mscLine (T i : Nat) : List Nat := unitsOf (6144 * T + 2048 * i) 2048 48
/-- Does a tile in the MSC have a line whole: filled, or every sector of it written (R356, R384)? -/
def mscLineFull (x : MscTile) (i : Nat) : Bool := x.lines.getLsbD i || (mscLine x.tile i).all fun k => decide (k ∈ x.held)
/-- Does it have all three? -/
def mscFull (x : MscTile) : Bool := (List.range 3).all (mscLineFull x)

/-- The sectors of a tile that the L2 or the MSC holds: reads find them there and no fill changes them (R377, R381). -/
def heldIn (m : MemSys) (T : Nat) : List Nat :=
  ((m.l2.filter fun x => x.line / 32 = T).flatMap (·.valid)) ++
    (m.msc.filter fun x => x.tile = T).flatMap fun x => x.held ++
      if x.lines = 0 then []
      else ((List.range 128).map (· + 128 * T)).filter fun k =>
        x.lines.getLsbD (k % 128 * 48 / 2048) && x.lines.getLsbD ((k % 128 * 48 + 47) / 2048)

/-! ### Sealing (R379) -/

/-- The seal of a write that a tenant other than the owner made fails: in the sectors to be sealed the owner's bytes stand, and INTEGRITY goes
to the writer (R377, R385). -/
def dropForeign (s : State) (T : Nat) (secs : List Nat) : State :=
  let hit (x : Nat × Nat × Byte) : Bool := decide (x.1 / 48 ∈ secs)
  let bad := s.mem.foreign.filter hit
  let m1 := { s.mem with
    home := bad.foldl (fun h x => memSet h x.1 x.2.2) s.mem.home
    foreign := s.mem.foreign.filter fun x => !hit x }
  let writers := bad.foldl (fun l x => insertNat l x.2.1) []
  writers.foldl (fun st w => (postRec st false w
    { code := .integrity, eng := 6, tenant := w, aux := T, sealed := sealField (sealMeta m1 T) }).1) { s with mem := m1 }

/-! ### Units out of service (R362) -/

/-- The near-data unit of a physical seal tile at tier M: 64 × stack + pseudo-channel. -/
def unitOfTileM (T : Nat) : Nat := 64 * (T % 8) + T / 8 % 64

/-- Is a near-data unit out of service with its pseudo-channel, a bank of which is fenced, or with its channel (R362)? A bank's number over 32
is its pseudo-channel's. -/
def unitOut (s : State) (m : Bool) (u : Nat) : Bool :=
  s.module.errors.any fun c => c.fenced && match c.unit with
    | .hbmBank b => m && decide (b / 32 = u)
    | .nandBlock b => !m && decide (b % 64 = u)
    | .linkLane _ _ => false

/-! ### Seals (R377, R379) -/

/-- The seal itself: under the pair's current generation, or stalled with SEALWRAP (R379). Answers whether it was made. -/
def sealUnder (s : State) (T : Nat) : State × Bool :=
  let x := sealMeta s.mem T
  let r := regionOf T
  let p := pairOf s.mem x.owner r
  let stall := decide (x.gen = p.cur ∧ 2 ^ 28 - 1 ≤ x.version) && !p.armed
  if stall then
    if T ∈ s.mem.stalled then (s, false)
    else
      let s1 := (postRec s true 0 { code := .sealwrap, eng := 6, tenant := x.owner, aux := T, sealed := sealField x }).1
      (modMem s1 (fun m => { m with stalled := T :: m.stalled }), false)
  else
    let roll := decide (x.gen = p.cur ∧ 2 ^ 28 - 1 ≤ x.version)
    let cur := if roll then (p.cur + 1) % 16 else p.cur
    let v := if x.gen ≠ p.cur ∨ roll then 0 else x.version + 1
    let whole := match s.mem.cleaned.find? (fun c => c.tile = T) with
      | some c => decide (128 ≤ c.sectors.length)
      | none => false
    let st := if x.state = 2 && !whole then 2 else 1
    let m1 := if roll then modPair s.mem x.owner r (fun q => { q with cur := cur, old := some p.cur, armed := false }) else s.mem
    let m2 := setMeta m1 T { tag := Config.sealTag (memRead s.mem.home (6144 * T) 6144) x.owner cur v T st, version := v, gen := cur, state := st,
                             owner := x.owner }
    let m3 := { m2 with
      cleaned := if st = 1 then m2.cleaned.filter (fun c => c.tile ≠ T) else m2.cleaned
      stalled := m2.stalled.filter (· ≠ T)
      tampered := m2.tampered.filter (fun q => q.1 ≠ T) }
    let s1 := { s with mem := m3 }
    if v = 2 ^ 28 - 2 ^ 20 ∧ !p.armed then
      ((postRec s1 true 0 { code := .sealwrap, eng := 6, warn := true, tenant := x.owner, aux := T,
                            sealed := sealField (sealMeta m3 T) }).1, true)
    else (s1, true)

/-- A seal of a tile with these sectors of its contents new (R377, R379): where another tenant than the owner wrote them all, it fails and the tile
stands as it was sealed. Answers false where it stalls; that of a tile whose pseudo-channel is out of service waits likewise (R362; DESIGN CHOICE, log
entry 128). -/
def sealTile (s0 : State) (T : Nat) (secs : List Nat) : State × Bool :=
  if unitOut s0 true (unitOfTileM T) then (modMem s0 (fun m => { m with stalled := insertNat m.stalled T }), false) else
  let theirs := (secs.filter fun k => s0.mem.foreign.any fun x => x.1 / 48 = k)
  let s := if theirs = [] then s0 else dropForeign s0 T secs
  if theirs ≠ [] ∧ secs.all (fun k => k ∈ theirs) then (s, true) else sealUnder s T

/-! ### Quotas (R323, R324) -/

/-- The launch of a team. -/
def launchOf (s : State) (id : Nat) : Option Launch := s.loom.launches.find? fun l => l.id = id

/-- A quota of a tenant: 0 NAND, 1 HBM, 2 L2 pins, 3 streams, 4 unit time. -/
def quotaOf (s : State) (t k : Nat) : Quota := (ctxOf s t).quotas.toList.getD k {}
/-- A quota changed. -/
def modQuota (s : State) (t k : Nat) (f : Quota → Quota) : State :=
  modCtx s t (fun c => { c with quotas := c.quotas.setIfInBounds k (f (c.quotas.toList.getD k {})) })
/-- A charge that a limit refuses charges nothing. -/
def charge (s : State) (t k n : Nat) : Option State :=
  let q := quotaOf s t k
  if q.limit < q.charged + n ∨ 2 ^ 64 ≤ q.charged + n then none else some (modQuota s t k (fun q => { q with charged := q.charged + n }))
/-- A charge returned. -/
def uncharge (s : State) (t k n : Nat) : State := modQuota s t k (fun q => { q with charged := q.charged - n })
/-- A charge of a launch: its reservation first, then the quota (R324). -/
def chargeFor (s : State) (t launch k n : Nat) : Option State :=
  match launchOf s launch with
  | none => charge s t k n
  | some l =>
    let have' := l.resv.getD k 0
    let draw := Nat.min have' n
    let s1 := modLoom s (fun q => { q with launches := q.launches.map fun x =>
      if x.id = launch then { x with resv := x.resv.set k (have' - draw) } else x })
    if n = draw then some s1 else charge s1 t k (n - draw)

/-- A charge of a launch returned: to its reservation as far as that was drawn on, then to the quota. -/
def unchargeFor (s : State) (t launch k n : Nat) : State :=
  match launchOf s launch with
  | none => uncharge s t k n
  | some l =>
    let have' := l.resv.getD k 0
    let back := Nat.min n (l.full.getD k 0 - have')
    let s1 := modLoom s (fun q => { q with launches := q.launches.map fun x =>
      if x.id = launch then { x with resv := x.resv.set k (have' + back) } else x })
    uncharge s1 t k (n - back)

/-- The HBM quota charged for a pick's tiles filled from NAND (R311, R323). -/
def chargeHbm (s : State) (m : TMap) (p : Nat) (launch : Option Nat) : Option State :=
  let n := 6144 * (pickTiles s m p).length
  let drawn := match launch.bind (launchOf s) with
    | some l => Nat.min (l.resv.getD 1 0) n
    | none => 0
  let c : HbmCharge := { tenant := m.tenant, tmap := m.idx, pick := p, launch := launch, bytes := n, drawn := drawn }
  let made := match launch with
    | some l => chargeFor s m.tenant l 1 n
    | none => charge s m.tenant 1 n
  made.map fun t => { t with hbm := t.hbm ++ [c] }

/-- A pick's copy in HBM is dropped: what was charged for it returns (R323). -/
def dropHbm (s : State) (m : TMap) (p : Nat) : State :=
  let mine (c : HbmCharge) : Bool := decide (c.tenant = m.tenant ∧ c.tmap = m.idx ∧ c.pick = p)
  (s.hbm.filter mine).foldl (fun st c => match c.launch with
    | some l => unchargeFor st c.tenant l 1 c.bytes
    | none => uncharge st c.tenant 1 c.bytes) { s with hbm := s.hbm.filter fun c => !mine c }

/-! ### Lost picks (R326) -/

/-- The highest tier above a bound that holds a copy. -/
def higherCopy (e : TierEnt) (tier : Nat) : Option Nat :=
  if tier < 2 ∧ Tier.copy e 2 then some 2 else if tier < 1 ∧ Tier.copy e 1 then some 1 else none

/-- Steps 1 to 3 of R326 on one entry, for a tier that lost its copy. -/
def loseEntry (e : TierEnt) (tier : Nat) : TierEnt :=
  let e1 := Tier.withCopy (Tier.withLost e tier) tier false
  match higherCopy e1 tier with
  | some up => if Tier.hed e1 = tier then Tier.moved e1 up up (Tier.state e1) else Tier.withRes e1 up
  | none => if Tier.hed e1 = tier then Tier.withState e1 3 else e1

/-- The report of a lost frame or tile at a tier (R326): every pick with bytes in it, in every tier map the manager knows, and one
INTEGRITY record for each map that lost a pick. Answers whether any pick was lost. -/
def reportLost (s : State) (tiles : List Nat) (tier : Nat) : State × Bool :=
  (knownMaps s).foldl (fun acc m =>
    let ps := tiles.flatMap (picksIn s m)
    if ps = [] then acc
    else
      let s1 := ps.foldl (fun st p => match tierEnt st m p with
        | some e => putTier (if tier = 1 then dropHbm st m p else st) m p (loseEntry e tier)
        | none => st) acc.1
      let first := ps.foldl Nat.min (ps.headD 0)
      ((postRec s1 false m.tenant { code := .integrity, eng := 6, tenant := m.tenant, obj := m.idx, aux := first }).1, true))
    (s, false)

/-- The tiles of the lost frames that some tiles lie in (R359, R360). -/
def lostFrameTiles (s : State) (tiles : List Nat) : List Nat :=
  (((tiles.map (· / 8)).filter fun f => f ∈ s.module.nandLost).eraseDups).flatMap fun f => (List.range 8).map (· + 8 * f)

/-! ### Verification (R377, R381) -/

/-- The altered metadata lines and nodes that cover a tile are met: each is a tag failure of every tile that it covers (R378). -/
def meetMeta (m : MemSys) (T : Nat) : MemSys :=
  let hit (x : Nat × Nat × Bool) : Bool := decide (x.1 ≤ T ∧ T < x.1 + x.2.1)
  let bad := m.badMeta.filter hit
  if bad = [] then m
  else { m with
    badMeta := m.badMeta.filter fun x => !hit x
    tampered := (bad.flatMap fun x => (List.range x.2.1).map fun i => (x.1 + i, x.2.2)) ++ m.tampered }

/-- What a fill that verifies brings besides the sealed contents: of an unsealed tile zeros, of a poisoned one every sector poisoned, where no
cache holds the sector (R377, R382). -/
def refreshed (m : MemSys) (T : Nat) : MemSys :=
  let st := (sealMeta m T).state
  if st = 0 then
    if m.stale.any (fun k => k / 128 = T) then
      let held := heldIn m T
      let out := m.stale.filter fun k => decide (k / 128 = T) && decide (k ∉ held)
      { m with home := out.foldl (fun h k => memZero h (48 * k) 48) m.home, stale := m.stale.filter fun k => k ∉ out }
    else m
  else if st = 2 then
    let held := heldIn m T
    { m with poison := (((List.range 128).map (· + 128 * T)).filter fun k => k ∉ held).foldl insertNat m.poison }
  else m

/-- A fill or read-verify of a tile for an accessing tenant; `own` is an access that acts as the owner, for which the owner's is the tenant of a
record. Answers whether the tile's sectors are delivered as they stand (poisoned ones as poisoned); a tenant that does not own the tile gets
poisoned data and INTEGRITY. A tag failure is retried once; the second failure poisons the tile. A tile whose pseudo-channel is out of service cannot
be read, and fails (R362; DESIGN CHOICE, log entry 128). -/
def verifyTile (s0 : State) (t0 : Nat) (own : Bool) (T : Nat) : State × Bool :=
  let x := sealMeta s0.mem T
  let t := if own then x.owner else t0
  if x.owner ≠ t then
    ((postRec s0 false t { code := .integrity, eng := 6, tenant := t, aux := T, sealed := sealField x }).1, false)
  else
    let s := modMem s0 (fun m => meetMeta m T)
    let out := unitOut s true (unitOfTileM T) && decide (x.state ≠ 2)
    let bad := s.mem.tampered.find? (fun q => q.1 = T)
    match bad, decide (3 ≤ x.state) || out with
    | none, false => (modMem s (fun m => refreshed m T), true)
    | some (_, false), false => (modMem s (fun m => refreshed { m with tampered := m.tampered.filter (fun q => q.1 ≠ T) } T), true)
    | _, _ =>
      let held := heldIn s.mem T
      let all := ((List.range 128).map (· + 128 * T)).filter (fun k => k ∉ held)
      let m1 := setMeta s.mem T { x with state := 2 }
      let m2 := { m1 with
        poison := all.foldl insertNat m1.poison
        cleaned := { tile := T, sectors := [] } :: m1.cleaned.filter (fun c => c.tile ≠ T)
        tampered := m1.tampered.filter (fun q => q.1 ≠ T) }
      let s1 := if out then { s with mem := m2 } else (sealUnder { s with mem := m2 } T).1
      let (s2, lost) := reportLost s1 [T] 1
      if lost then (s2, true)
      else
        ((postRec s2 false t { code := .integrity, eng := 6, tenant := t, aux := T, sealed := sealField (sealMeta s2.mem T) }).1, true)

/-! ### The memory-side cache (R356) -/

/-- Is a tile in the MSC with all three lines? -/
def mscHas (m : MemSys) (T : Nat) : Bool := m.msc.any fun x => x.tile = T && mscFull x

/-- A tile leaves the MSC: a dirty one is sealed whole, its missing lines read and verified first (R384); a stalled seal keeps it. -/
def mscDrop (s : State) (x : MscTile) : State :=
  let drop (st : State) : State := modMem st (fun m => { m with msc := m.msc.filter fun y => y.tile ≠ x.tile })
  if x.dirty = [] then drop s
  else
    let s1 := if mscFull x then s else (verifyTile s 0 true x.tile).1
    let (s2, ok) := sealTile s1 x.tile (mscDirty x)
    if ok then drop s2 else s2

/-- The number of sets of a die's MSC: 64 MiB of 16 ways, each of a tile's three lines of 2 KiB (R356). -/
def mscSets : Nat := 64 * 2 ^ 20 / (16 * 6144)

/-- The set of a tile in the MSC of its stack; which tiles share one is left to the device, but the sets there are hold 64 MiB (R356). -/
def mscSetOf (T : Nat) : Nat × Nat := (T % 8, Config.mscSet T % mscSets)

/-- The tile that leaves a full set of the MSC to make room for another, one of policy keep last; for a speculative fill only a clean one may
(R154, R356). None where there is room; the second component says whether there is any after that. -/
def mscVictim (s : State) (T : Nat) (spec : Bool) : Option MscTile × Bool :=
  if s.mem.msc.length < 16 then (none, true)
  else
    let set := s.mem.msc.filter fun x => decide (mscSetOf x.tile = mscSetOf T)
    if set.length < 16 ∨ set.any (fun x => x.tile = T) then (none, true)
    else
      let free := set.filter fun x => !spec || x.dirty.isEmpty
      match free.find? (fun x => !x.keep) with
      | some x => (some x, true)
      | none => (free.head?, free.head?.isSome)

/-- Room made for a tile in the MSC of its stack. -/
def mscRoom (s : State) (T : Nat) : State := ((mscVictim s T false).1).elim s (mscDrop s)

/-- A tile filled whole from DRAM into the MSC, verified first. Policy 1 passes it through without allocating (R356); so does a speculative fill
for which a dirty tile would have to leave (R154). -/
def mscFillTile (s : State) (t : Nat) (own : Bool) (T policy : Nat) (spec : Bool := false) : State × Bool :=
  if mscHas s.mem T then
    let x := sealMeta s.mem T
    if x.owner ≠ t ∧ !own then
      ((postRec s false t { code := .integrity, eng := 6, tenant := t, aux := T, sealed := sealField x }).1, false)
    else (s, true)
  else
    let (s1, ok) := verifyTile s t own T
    let (out, room) := mscVictim s1 T spec
    if !ok ∨ policy = 1 ∨ !room then (s1, ok)
    else
      (modMem (out.elim s1 (mscDrop s1)) (fun m => { m with
        msc := upsert m.msc (fun x => x.tile = T) (fun x => { x with lines := 7, keep := x.keep || decide (policy = 2) }) { tile := T } }),
       ok)

/-- The marks of 48-byte sectors written into the MSC, `whole` of them whole: those it then holds, and the 64-byte sectors made dirty (R356). -/
def mscMark (m : MemSys) (T : Nat) (sectors whole : List Nat) (keep : Bool) : MemSys :=
  { m with
    msc := upsert m.msc (fun x => x.tile = T)
      (fun x => { x with keep := x.keep || keep, held := whole.foldl insertNat x.held,
                         dirty := (sectors.flatMap fun k => unitsOf (48 * k) 48 64).foldl insertNat x.dirty }) { tile := T } }

/-- 48-byte sectors of a tile written into the MSC under a policy (R356): 1 seals the tile from a buffer of three lines, its missing bytes
read and verified first, and keeps nothing there: where the seal stalls, its writer holds the sectors dirty (R379). Answers whether the sectors
are the MSC's or sealed. -/
def mscWrite (s : State) (T : Nat) (sectors whole : List Nat) (policy : Nat) : State × Bool :=
  let marked (st : State) : State := modMem st (fun m => mscMark m T sectors whole (decide (policy = 2)))
  if policy = 1 ∧ !s.mem.msc.any (fun x => x.tile = T) then
    match (marked s).mem.msc.find? (fun x => x.tile = T) with
    | some x =>
      let s1 := mscDrop (marked s) x
      if s1.mem.msc.any (fun y => y.tile = T) then (modMem s1 (fun m => { m with msc := m.msc.filter fun y => y.tile ≠ T }), false) else (s1, true)
    | none => (s, true)
  else (marked (mscRoom s T), true)

/-! ### The buffer of a HINT 1 copy (R367) and the end of a copy (R161) -/

/-- A tag's byte count raised. -/
def addTagBytes (h : Shuttle) (tag n : Nat) : Shuttle :=
  { h with tagBytes := h.tagBytes.setIfInBounds tag (h.tagBytes.toList.getD tag 0 + n) }
/-- A tag's byte count set. -/
def setTagBytes (h : Shuttle) (tag n : Nat) : Shuttle := { h with tagBytes := h.tagBytes.setIfInBounds tag n }
/-- A tag's TAGREADY bit set. -/
def setReady (h : Shuttle) (tag : Nat) : Shuttle := { h with tagReady := h.tagReady ||| (1#64 <<< tag) }
/-- A tag's TAGREADY bit cleared. -/
def clearReady (h : Shuttle) (tag : Nat) : Shuttle := { h with tagReady := h.tagReady &&& ~~~(1#64 <<< tag) }

/-- A copy changed, by its tag. -/
def modCopy (h : Shuttle) (tag : Nat) (f : CopyOp → CopyOp) : Shuttle :=
  { h with copies := h.copies.map fun c => if c.tag = tag then f c else c }

/-- Does a copy move in sectors? -/
def movesSectors (k : CopyKind) : Bool :=
  match k with
  | .copy | .copy2d | .fill | .gather | .scatter | .slzput => true
  | _ => false

/-- Are the copies that must complete before this one complete: the earlier ones of its class, or every earlier one where either is of
class 0 (R163)? -/
def copyFirst (h : Shuttle) (tag : Nat) : Bool :=
  match h.copies.find? (fun c => c.tag = tag) with
  | none => true
  | some c => (h.copies.takeWhile (fun d => d.tag ≠ tag)).all fun d =>
      d.kind = .promote || !(decide (d.cls = c.cls) || decide (d.cls = 0) || decide (c.cls = 0))

/-- A copy whose every sector is done ends and sets its tag (R161). A copy of 0 bytes waits for those ordered before it (R163). -/
def finishCopies (h : Shuttle) : Shuttle :=
  let ended := h.copies.filter fun c => movesSectors c.kind && c.issued && c.fly.isEmpty && c.buffered.isEmpty && c.stop.isNone
    && !c.parked && copyFirst h c.tag
  ended.foldl (fun x c => { setReady x c.tag with copies := x.copies.filter (fun d => d.tag ≠ c.tag) }) h

/-- Does a copy's buffer hold every byte of a 48-byte sector? -/
def coveredBy (l : List Flying) (k : Nat) : Bool :=
  (List.range 48).all fun i => l.any fun x => decide (flyPa x ≤ 48 * k + i ∧ 48 * k + i < flyPa x + x.bytes.length)

/-- Does a copy's buffer hold each of a tile's 128 sectors (R367)? -/
def bufferWhole (l : List Flying) (T : Nat) : Bool := (List.range 128).all fun i => coveredBy l (128 * T + i)

/-- The sectors of one tile that a copy holds in the base die's buffer take their place in home order as the tile is sealed; they are
done (R367). A tile wholly in the buffer is sealed with no read; otherwise the missing sectors are read and verified first. A seal that
SEALWRAP stalls leaves them in the buffer (R385). -/
def flushBuffer (s : State) (p : Place) (tag T : Nat) : State :=
  match (shuttleAt s p).copies.find? (fun c => c.tag = tag) with
  | none => s
  | some c =>
    let mine := c.buffered.filter fun x => flyPa x / 6144 = T
    if mine = [] then s
    else
      let t := (shuttleAt s p).tenant
      let whole := bufferWhole mine T
      let s1 := if whole ∨ (sealMeta s.mem T).owner ≠ t then s else (verifyTile s t false T).1
      let m2 := mine.foldl (fun m x => tenantWrite m t false (flyPa x) x.bytes x.poisoned) s1.mem
      let (s3, sealed) := sealTile { s1 with mem := m2 } T (mine.flatMap fun x => unitsOf (flyPa x) x.bytes.length 48)
      if !sealed then
        modMem s3 (fun m => { m with
          home := s1.mem.home, poison := s1.mem.poison, cleaned := s1.mem.cleaned, foreign := s1.mem.foreign, stale := s1.mem.stale })
      else
        modShuttle s3 p (fun h =>
          finishCopies (modCopy (addTagBytes h tag (mine.foldl (fun n x => n + x.bytes.length) 0)) tag
            (fun d => { d with doneSet := mine.foldl (fun l x => insertNat l x.idx) d.doneSet,
                               buffered := d.buffered.filter fun x => flyPa x / 6144 ≠ T })))

/-- Every buffer of a copy is sealed, as it completes, parks or fails (R367). -/
def flushCopy (s : State) (p : Place) (tag : Nat) : State :=
  match (shuttleAt s p).copies.find? (fun c => c.tag = tag) with
  | none => s
  | some c => ((c.buffered.map fun x => flyPa x / 6144).foldl insertNat []).reverse.foldl (fun st T => flushBuffer st p tag T) s

/-- Every buffer for a tile is sealed before another write reaches a sector of the tile (R367). -/
def flushTile (s : State) (T : Nat) : State :=
  let holders := (allShuttles s).flatMap fun h =>
    (h.copies.filter (fun c => c.buffered.any fun b => flyPa b / 6144 = T)).map fun c => (h.place, c.tag)
  holders.foldl (fun st x => flushBuffer st x.1 x.2 T) s

/-! ### The L2 (R288, R300) -/

/-- The die and the slice of it that are the home of a tile's lines (R288). -/
def homeSlice (T : Nat) : Nat × Nat := (T % 2, T / 2 % 192)

/-- A line of the L2 written back: the buffers of its tile are sealed (R367), and its dirty sectors are the MSC's. A line of a tile whose
seal is stalled, or then stalls, stays dirty at its home (R379). -/
def writeBack (s : State) (line : Nat) : State :=
  match s.mem.l2.find? (fun x => x.line = line) with
  | none => s
  | some x =>
    if x.dirty = [] then s
    else
      let s1 := flushTile s (line / 32)
      if line / 32 ∈ s1.mem.stalled then s1
      else
        let (s2, taken) := mscWrite s1 (line / 32) x.dirty (x.dirty.filter fun k => k ∈ x.valid) x.msc
        if taken then modMem s2 (fun m => { m with l2 := m.l2.map fun y => if y.line = line then { y with dirty := [] } else y }) else s2

/-- The L2 copy of a line invalidated, its dirty sectors written back first. -/
def l2Invalidate (s : State) (line : Nat) : State :=
  modMem (writeBack s line) (fun m => { m with l2 := m.l2.filter fun x => decide (x.line ≠ line) || !x.dirty.isEmpty })

/-- Lines of 192 bytes that a slice of 2 MiB holds. -/
def sliceLines : Nat := 2097152 / 192

/-- The line that leaves a full slice to make room for another, none of a pinned tile, one of policy keep last; for a speculative fill only a
clean one may (R154). None where there is room; the second component says whether there is any after that. -/
def l2Victim (s : State) (line : Nat) (spec : Bool) : Option L2Line × Bool :=
  if s.mem.l2.length < sliceLines then (none, true)
  else
    let slice := s.mem.l2.filter fun x => decide (homeSlice (x.line / 32) = homeSlice (line / 32))
    if slice.length < sliceLines ∨ slice.any (fun x => x.line = line) then (none, true)
    else
      let free := slice.filter fun x => (!s.mem.pins.any fun p => p.tile = x.line / 32) && (!spec || x.dirty.isEmpty)
      match free.find? (fun x => !x.keep) with
      | some x => (some x, true)
      | none => (free.head?, free.head?.isSome || !spec)

/-- Room made for a line in its home slice. -/
def l2Room (s : State) (line : Nat) : State := ((l2Victim s line false).1).elim s (fun x => l2Invalidate s x.line)

/-! ### Reads and writes of device memory at their home (R292) -/

/-- The policy of a leaf and an instruction's HINT (R43, R370): hint 1 no allocate, hint 2 keep. -/
def policyOf (e : Word) (hint : Nat) : Policy :=
  { alloc := decide (leafL2p e ≠ 1) && decide (hint ≠ 1), keep := decide (leafL2p e = 2) || decide (hint = 2), msc := leafMscp e }

/-- The four sectors of an L2 line. -/
def lineSectors (line : Nat) : List Nat := (List.range 4).map (· + 4 * line)

/-- Sectors of an L2 line for an access: those it holds, or a fill of the line from the MSC or from DRAM; answers false where the data is
poisoned for this tenant. -/
def l2Fill (s : State) (t : Nat) (own : Bool) (line : Nat) (secs : List Nat) (pol : Policy) : State × Bool :=
  if s.mem.l2.any (fun x => x.line = line && secs.all fun k => decide (k ∈ x.valid)) then (s, true)
  else
    let (s1, ok) := mscFillTile s t own (line / 32) pol.msc pol.spec
    if !ok then (s1, false)
    else if s1.mem.l2.any (fun x => x.line = line) then (modMem s1 (fun m => { m with l2 := l2Touch m.l2 line (lineSectors line) [] pol 0 }), true)
    else
      let (out, room) := l2Victim s1 line pol.spec
      if pol.alloc && room then
        (modMem (out.elim s1 (fun x => l2Invalidate s1 x.line)) (fun m => { m with l2 := l2Touch m.l2 line (lineSectors line) [] pol 0 }), true)
      else (s1, true)

/-- The table lines of a walk read through the L2 as memory of the accessing tenant (R369, R372): answers false where one of them is not
the tenant's or is poisoned, and gives no translation. -/
def walkThrough (s : State) (t va : Nat) : State × Bool :=
  (walkReads s.mem (Config.choose s.fresh) (va / 98304) 4 (ctxOf s t).xlBase.toNat).foldl (fun acc a =>
    let (u, ok) := l2Fill acc.1 t false (a / 192) [a / 48] {}
    (u, acc.2 && ok && !decide (a / 48 ∈ u.mem.poison))) (s, true)

/-- A walk through the L2: the leaf it finds (R369). -/
def walkNow (s : State) (t va : Nat) : State × Option Word :=
  let (s1, read) := walkThrough s t va
  (s1, if read then walkFresh s1 t va else none)

/-- The leaf by which an access translates without what `xlinv` invalidated: the held translation where it is the fresh one, either of the two
where they differ, and a walk where none is held. A walk that ends in a fault is not kept. -/
def translateHeld (s : State) (t va : Nat) : State × Option Word :=
  match tlbFind s t (va / 98304) with
  | some x =>
    if some x.pte = walkFresh s t va then (s, some x.pte)
    else if Config.chooseStale s.fresh then (bump s, some x.pte) else walkNow (bump s) t va
  | none =>
    match walkNow s t va with
    | (s1, some e) => (modMem s1 (fun m => { m with tlb := m.tlb ++ [{ tenant := t, frame := frameBase (va / 98304) e, pte := e }] }), some e)
    | r => r

/-- The leaf an access translates by (R372): until an `xlinv` and an `objsync` have passed, the old one or the new one. -/
def translate (s : State) (t va : Nat) : State × Option Word :=
  match tlbOldFind s t (va / 98304) with
  | some x =>
    if some x.pte = walkFresh s t va then translateHeld s t va
    else if Config.chooseStale s.fresh then (bump s, some x.pte) else translateHeld (bump s) t va
  | none => translateHeld s t va

/-- Bytes that a tenant gets from a tile that does not verify for it: free values, delivered as poisoned (R377). -/
def garbage (s : State) (n : Nat) : List Byte := (List.range n).map fun i => Config.freeByte (s.fresh * 65536 + i)

/-- A read of device memory at its home for a tenant: the bytes, and whether any of them is poisoned (R292, R377, R382). -/
def devRead (s : State) (t : Nat) (own : Bool) (pa n : Nat) (pol : Policy) : State × List Byte × Bool :=
  let (s1, ok) := (unitsOf pa n 192).foldl (fun acc line =>
    let (st, good) := l2Fill acc.1 t own line ((unitsOf pa n 48).filter fun k => k / 4 = line) pol
    (st, acc.2 && good)) (s, true)
  if ok then (s1, memRead s1.mem.home pa n, (unitsOf pa n 48).any fun k => k ∈ s1.mem.poison)
  else (bump s1, garbage s1 n, true)

/-- A write that touches a fault queue's TAIL ends that queue's outstanding signal (R375). -/
def endSignals (s : State) (pa n : Nat) : State :=
  let hit (base : Nat) : Bool := decide (base + 8 < pa + n ∧ pa < base + 12)
  let s1 := if s.ctxs.any (·.msix) then
      { s with ctxs := s.ctxs.map fun c => if c.msix && (match homeOf s c.tenant c.faultQ.toNat with
        | some a => hit a
        | none => false) then { c with msix := false } else c }
    else s
  if s.module.mgmtMsix && hit s.module.mgmtFq.toNat then modModule s1 (fun m => { m with mgmtMsix := false }) else s1

/-- Does a kick outstanding hold the frame of a physical address (R300, R335)? -/
def kickHolds (k : Kick) (pa : Nat) : Bool :=
  k.pages.any fun p => decide (leafAddr p.2 (p.1 * 98304) ≤ pa ∧ pa < leafAddr p.2 (p.1 * 98304) + 98304)

/-- A unit's kicks with a function applied: the running body's and the queued ones. -/
def mapKicks (f : Kick → Kick) (u : NdUnit) : NdUnit := { u with queue := u.queue.map f, body := u.body.map fun b => { b with kick := f b.kick } }

/-- The bytes that some agent other than its body stores while a kick holds their frame: either value then survives (R300, R304). -/
def noteStore (s : State) (pa n : Nat) : State :=
  if s.nd.queue.isEmpty && s.nd.body.isNone && s.otherNd.isEmpty then s
  else
    let mark (k : Kick) : Kick :=
      { k with stored := ((List.range n).map (· + pa)).foldl (fun l a => if kickHolds k a then insertNat l a else l) k.stored }
    { s with nd := mapKicks mark s.nd, otherNd := s.otherNd.map (mapKicks mark) }

/-- The byte that a running body has written and that has not taken its place (R300). -/
def bodyByte (s : State) (a : Nat) : Option Byte :=
  firstSome (fun u : NdUnit => u.body.bind fun b => (b.writes.reverse.find? fun w => w.1 = a).map (·.2)) (s.nd :: s.otherNd)

/-- Bytes that a tile reads at their home while bodies write them: for each byte the old value or the one written (R300). -/
def duringKick (s : State) (pa : Nat) (bs : List Byte) : State × List Byte :=
  if (s.nd :: s.otherNd).all fun u => u.body.isNone then (s, bs)
  else
    let seen := (List.range bs.length).map fun i => bodyByte s (pa + i)
    if seen.all Option.isNone then (s, bs)
    else (bump s, (List.range bs.length).map fun i => match seen.getD i none with
      | some b => if Config.chooseStale (s.fresh * 65536 + i) then bs.getD i 0 else b
      | none => bs.getD i 0)

/-- A read as a tile meets it while bodies run (R292, R300). -/
def tileRead (s : State) (t : Nat) (own : Bool) (pa n : Nat) (pol : Policy) : State × List Byte × Bool :=
  let (s1, bs, bad) := devRead s t own pa n pol
  let (s2, seen) := duringKick s1 pa bs
  (s2, seen, bad)

/-- Bytes that take their place at their home for a tenant: buffers for their tiles are sealed first (R367). -/
def putHome (s : State) (t : Nat) (own : Bool) (pa : Nat) (bs : List Byte) (poisoned : Bool) : State :=
  let s1 := (unitsOf pa bs.length 6144).foldl flushTile (endSignals s pa bs.length)
  { s1 with mem := tenantWrite s1.mem t own pa bs poisoned }

/-- A write of device memory at its home for a tenant (R292): the bytes take their place, and the sectors are dirty in the L2, or in the MSC
where the access does not allocate; where the seal of such a write stalls, in the L2 after all (R379). -/
def devWrite (s : State) (t : Nat) (own : Bool) (pa : Nat) (bs : List Byte) (poisoned : Bool) (pol : Policy) : State :=
  let s2 := putHome (noteStore s pa bs.length) t own pa bs poisoned
  let secs := unitsOf pa bs.length 48
  let whole := wholeSectors pa bs.length
  (unitsOf pa bs.length 192).foldl (fun st line =>
    let mine := secs.filter (fun k => k / 4 = line)
    let full := whole.filter (fun k => k / 4 = line)
    let touch (u : State) : State := modMem u (fun m => { m with l2 := l2Touch m.l2 line full mine pol t })
    if st.mem.l2.any (fun x => x.line = line) then touch st
    else if pol.alloc then touch (l2Room st line)
    else
      let (u, taken) := mscWrite st (line / 32) mine full pol.msc
      if taken then u else touch u) s2

/-- A tier map's entry written by the tier manager: buffers of copies for its tile are sealed first (R313, R367). -/
def putTierHome (s : State) (m : TMap) (p : Nat) (e : TierEnt) : State :=
  putTier ((homeOf s m.tenant (m.base + 64 + 8 * p)).elim s fun pa => flushTile s (pa / 6144)) m p e

end Sys2Proof.Machine
end

