-- ==== Sys2Proof/Machine/Access.lean ====
section
/-! DEFINITION. Where an address leads and what an access does there: the checks in the order of R371, the scratchpad ranges (R286,
R289), host pages (R365, R302), fabric windows (R352, R413), the L1 (R291), residency of picks (R311, R328), the holds of a paired
shuttle (R405), and SEQ loads and stores with their order (R113). -/
namespace Sys2Proof.Machine

/-- What an access does. -/
inductive Use where
  | load | store | atomic
deriving DecidableEq, Repr

/-- A fault that an access meets: code, VA, AUX, and whether a Page Request would ask to write. -/
structure Trouble where
  code : Code
  va : Nat
  aux : Nat := 0
  write : Bool := false
deriving DecidableEq, Repr

/-- Who asks: a tenant; a shuttle, which has scratchpad ranges; a twill reader or encoder, which may touch CODED pages (R228); an
access that acts as the owner of its tiles (R377); the tier map repair, which its guard lets through (R326); an access in home order. -/
structure Asker where
  tenant : Nat
  shuttle : Bool := true
  coded : Bool := false
  hint : Nat := 0
  own : Bool := false
  repair : Bool := false
  /-- A speculative fetch (R154). -/
  spec : Bool := false
  /-- It reads bytes only as they have taken their place in home order: an atomic, the host (R299, R300, R302). -/
  home : Bool := false
deriving DecidableEq, Repr

/-! ### Teams and their scratchpads -/

/-- The scratchpad top of a tile: 1 MiB minus the L1 share (R146). -/
def scratchTop (x : Tile) : Nat := Config.sramBytes - x.l1share

/-- The gang of a team. -/
def gangOf (s : State) (team : Nat) : Option Gang := s.loom.gangs.find? fun g => g.team = team && g.state ≠ .done
/-- The places of the side of a gang that a place belongs to (R405). -/
def sideOf (g : Gang) (p : Place) : List Place := if p ∈ g.places1 then g.places1 else g.places
/-- The physical tile of a virtual tile of the shuttle's team (R286). -/
def tileOfV (s : State) (v : Nat) : Option Nat :=
  match gangOf s s.me.team with
  | some g => if v < g.nTiles then ((sideOf g s.me.place)[v * g.perTile]?).map (·.tile) else none
  | none => none

/-- The scratchpad area of a queue control word: first byte and size (R35). -/
def qcwArea (q : Word) : Nat × Nat :=
  let v := q.toNat
  (64 * bitsOf v 13 0, bitsOf v 27 16 * (8 * 2 ^ bitsOf v 30 28))
/-- A queue control word of a tile by number. -/
def qcwOf (x : Tile) (n : Nat) : Word := x.qcw.toList.getD n 0
/-- DEPTH of a queue control word. -/
def qcwDepth (q : Word) : Nat := bitsOf q.toNat 27 16
/-- Element bytes of a queue control word. -/
def qcwElem (q : Word) : Nat := 8 * 2 ^ bitsOf q.toNat 30 28

/-- The footprint of a team on a tile (R37): its QCW areas and its scratchpad regions. -/
def footprint (s : State) (tile team launch : Nat) : List (Nat × Nat) :=
  let slots := ((allShuttles s).filter fun h => h.place.tile = tile && h.team = team && h.life ≠ .idle).map (·.place.slot)
  let x := tileOf s tile
  let areas := slots.flatMap fun j => (List.range 4).map fun r => qcwArea (qcwOf x (4 * j + r))
  let regs := match launchOf s launch with
    | some l => l.regions.map fun r => (r.base, r.size)
    | none => []
  areas ++ regs

/-- Does a tile host shuttles of a team other than this one? -/
def sharesTile (s : State) (tile team : Nat) : Bool :=
  (allShuttles s).any fun h => h.place.tile = tile && h.life ≠ .idle && h.team ≠ team

/-- May the shuttle in focus reach these bytes of a tile's scratchpad: below the top, and inside its footprint where the tile hosts
another team (R146, R289)? -/
def scratchOk (s : State) (tile o n : Nat) : Bool :=
  decide (o + n ≤ scratchTop (tileOf s tile)) &&
    (!sharesTile s tile s.me.team ||
      let fp := footprint s tile s.me.team s.me.launch
      (List.range n).all fun i => fp.any fun a => decide (a.1 ≤ o + i ∧ o + i < a.1 + a.2))

/-! ### Windows, guards and host pages -/

/-- The fabric window and offset of a VA, where it lies in one (R413). -/
def windowOf (va : Nat) : Option (Nat × Nat) :=
  if Config.fabricBase ≤ va ∧ va < Config.fabricBase + 64 * 2 ^ 40 then
    some ((va - Config.fabricBase) / 2 ^ 40, (va - Config.fabricBase) % 2 ^ 40)
  else none

/-- A tenant's fabric window entry. -/
def windowEntry (s : State) (t w : Nat) : Window := assoc (ctxOf s t).windows w {}

/-- Does a write reach a line of a tier map that an admitted CLIMB launch holds still (R314)? -/
def guardedLine (s : State) (pa n : Nat) : Bool :=
  s.loom.launches.any fun l => l.climb && l.maps.any fun idx =>
    match tmapOf s l.tenant idx with
    | none => false
    | some m =>
      let len := 64 + 8 * m.picks
      (unitsOf m.base len 98304).any fun f =>
        match homeOf s l.tenant (f * 98304) with
        | none => false
        | some fp =>
          let lo := Nat.max m.base (f * 98304)
          let hi := Nat.min (m.base + len) ((f + 1) * 98304)
          let a := (fp + (lo - f * 98304)) / 192 * 192
          let b := (fp + (hi - f * 98304) + 191) / 192 * 192
          decide (a < pa + n ∧ pa < b)

/-- A host page as the ATC holds it, or as the host translates it (R365, R412). -/
def hostPage (s : State) (t page : Nat) (write : Bool) : State × Bool :=
  let c := ctxOf s t
  let ok (q : Nat × Bool × Bool) : Bool := decide (q.1 = page) && (if write then q.2.2 else q.2.1)
  if c.atc.any ok then (s, true)
  else
    match c.hostPages.find? ok with
    | some q => (modCtx s t (fun c => { c with atc := (q :: c.atc.filter (fun x => x.1 ≠ page)).take 4096 }), true)
    | none => (s, false)

/-! ### Where a VA leads (R289, R371) -/

/-- The checks on a leaf in the order of R371, and the place it gives. -/
def leafChecks (s : State) (q : Asker) (use : Use) (va n : Nat) (e : Word) : State × Except Trouble (Loc × Policy) :=
  let write := use ≠ .load
  let a := leafAddr e va
  if use = .atomic ∧ (leafHost e ∨ leafCoded e) then (s, .error { code := .rights, va := va })
  else
    let (s1, there) := if leafHost e then hostPage s q.tenant (a / 4096) write else (s, true)
    if !there then (s1, .error { code := .hostpage, va := va, aux := a / 4096 * 4096, write := write })
    else if (use ≠ .store ∧ !leafR e) ∨ (write ∧ !leafW e) then (s1, .error { code := .rights, va := va })
    else if leafCoded e ∧ !q.coded then
      (s1, .error { code := if use = .load then .rights else .codedwrite, va := va })
    else if leafHost e then (s1, .ok (.host a, {}))
    else if write ∧ !q.repair ∧ guardedLine s1 a n then (s1, .error { code := .rights, va := va })
    else (s1, .ok (.dev a, { policyOf e q.hint with spec := q.spec }))

/-- Where `n` bytes at a VA lie, for bytes inside one 4 KiB block (R286, R289, R371, R413). -/
def resolve (s : State) (q : Asker) (use : Use) (va n : Nat) : State × Except Trouble (Loc × Policy) :=
  let bounds : State × Except Trouble (Loc × Policy) := (s, .error { code := .bounds, va := va })
  if 2 ^ 56 ≤ va then (s, .error { code := .xlate, va := va })
  else if Config.teamWindow ≤ va then
    if !q.shuttle then bounds
    else if Config.localRange ≤ va then
      let o := va - Config.localRange
      if scratchOk s s.me.place.tile o n then (s, .ok (.scratch s.me.place.tile o, {})) else bounds
    else if va < Config.teamWindow + 2 ^ 30 ∧ s.me.teamWin ≠ 0 then
      let o := (va - Config.teamWindow) % 2 ^ 20
      match tileOfV s ((va - Config.teamWindow) / 2 ^ 20) with
      | some tile => if scratchOk s tile o n then (s, .ok (.scratch tile o, {})) else bounds
      | none => bounds
    else bounds
  else
    match windowOf va with
    | some (w, off) =>
      let x := windowEntry s q.tenant w
      if x.size < off + n then (s, .error { code := .xlate, va := va })
      else if use = .store then (s, .ok (.fabric w off, {}))
      else (s, .error { code := .rights, va := va })
    | none =>
      match translate s q.tenant va with
      | (s1, none) => (s1, .error { code := .xlate, va := va })
      | (s1, some e) => leafChecks s1 q use va n e

/-- Where a run of bytes lies, in pieces that do not cross a 4 KiB boundary; the first fault met ends it. -/
def resolveRun (s : State) (q : Asker) (use : Use) : Nat → Nat → Nat → State × Except Trouble (List (Loc × Policy × Nat))
  | 0, _, _ => (s, .ok [])
  | fuel + 1, va, n =>
    if n = 0 then (s, .ok [])
    else
      let k := Nat.min n (4096 - va % 4096)
      match resolve s q use va k with
      | (s1, .error x) => (s1, .error x)
      | (s1, .ok (l, p)) =>
        match resolveRun s1 q use fuel (va + k) (n - k) with
        | (s2, .error x) => (s2, .error x)
        | (s2, .ok rest) => (s2, .ok ((l, p, k) :: rest))

/-- Pieces of device memory that lie end to end under one policy joined: a sector is one piece whatever 4 KiB boundary it crosses. -/
def joinPieces : List (Loc × Policy × Nat) → List (Loc × Policy × Nat)
  | [] => []
  | x :: rest =>
    match x.1, joinPieces rest with
    | .dev a, (.dev b, p, n) :: more => if b = a + x.2.2 ∧ p = x.2.1 then (.dev a, p, x.2.2 + n) :: more else x :: (.dev b, p, n) :: more
    | _, more => x :: more

/-- Pieces of a run of `n` bytes. -/
def resolveAll (s : State) (q : Asker) (use : Use) (va n : Nat) : State × Except Trouble (List (Loc × Policy × Nat)) :=
  match resolveRun s q use (n / 4096 + 2) va n with
  | (s1, .ok ps) => (s1, .ok (joinPieces ps))
  | r => r

/-! ### Reading and writing at a place -/

/-- Is a place in a fabric window? -/
def inFabric (l : Loc) : Bool :=
  match l with
  | .fabric _ _ => true
  | _ => false

/-- The address of a place moved on. -/
def locPlus (l : Loc) (k : Nat) : Loc :=
  match l with
  | .dev a => .dev (a + k)
  | .scratch t o => .scratch t (o + k)
  | .host a => .host (a + k)
  | .fabric w o => .fabric w (o + k)

/-- Where byte b of one place lies within another, if it does. -/
def locDelta (x y : Loc) : Option Int :=
  match x, y with
  | .dev a, .dev b => some ((b : Int) - a)
  | .scratch t a, .scratch u b => if t = u then some ((b : Int) - a) else none
  | .host a, .host b => some ((b : Int) - a)
  | .fabric v a, .fabric w b => if v = w then some ((b : Int) - a) else none
  | _, _ => none

/-- Do two runs of bytes share a byte? -/
def locOverlap (x : Loc) (n : Nat) (y : Loc) (m : Nat) : Bool :=
  match locDelta x y with
  | some d => decide (d < n ∧ -(m : Int) < d)
  | none => false

/-- Bytes laid over others where places coincide. -/
def overlay (base : Loc) (bs : List Byte) (w : HeldWrite) : List Byte :=
  match locDelta w.loc base with
  | none => bs
  | some d => (List.range bs.length).map fun (i : Nat) =>
    let k : Int := d + Int.ofNat i
    if 0 ≤ k ∧ k < w.bytes.length then w.bytes.getD k.toNat 0 else bs.getD i 0

/-- The scratchpad of a tile written (R382: whole sectors clean, poisoned ones marked). -/
def scratchWrite (x : Tile) (o : Nat) (bs : List Byte) (poisoned : Bool) : Tile :=
  let clean := x.scratchPoison.filter fun k => k ∉ wholeSectors o bs.length
  { x with
    scratch := memWrite x.scratch o bs
    scratchPoison := if poisoned then (unitsOf o bs.length 48).foldl insertNat clean else clean }

/-- The bytes at a place for a tenant, and whether any is poisoned. -/
def readAt (s : State) (q : Asker) (l : Loc) (p : Policy) (n : Nat) : State × List Byte × Bool :=
  match l with
  | .dev pa => if q.home then devRead s q.tenant q.own pa n p else tileRead s q.tenant q.own pa n p
  | .scratch t o =>
    let x := tileOf s t
    (s, memRead x.scratch o n, (unitsOf o n 48).any fun k => k ∈ x.scratchPoison)
  | .host a => (s, memRead s.mem.host a n, false)
  | .fabric _ _ => (s, List.replicate n 0, false)

/-- The first port of a mask that works; port 0 where none does, and the store waits for it (R353). -/
def pickPort (mask : Nat) (down : BitVec 8) : Nat :=
  ((List.range 8).find? fun i => mask / 2 ^ i % 2 = 1 && !down.getLsbD i).getD 0

/-- A remote store sent into a window (R352); `cls` is the class of one that SEQ makes. -/
def sendRemote (s : State) (t w off : Nat) (bs : List Byte) (poisoned : Bool) (tag : Option (Nat × Nat)) (cls : Option Nat := none) : State :=
  let x := windowEntry s t w
  let r : Remote := { sender := 0, tenant := t, window := w, off := off, bytes := bs, port := pickPort x.ports s.fabric.portsDown,
                      place := s.me.place, poisoned := poisoned, copyTag := tag, cls := cls }
  { s with fabric := { s.fabric with stores := s.fabric.stores ++ [(s.fabric.nextId, r)], nextId := s.fabric.nextId + 1 } }

/-- A contribution sent to a landing zone: it arrives there (R349). -/
def zoneSend (s : State) (t obj base size : Nat) (c : Contrib) : State :=
  let new : Zone := { tenant := t, obj := obj, base := base, size := size, queue := [c] }
  let mine (z : Zone) : Bool := z.tenant = t && z.base = base
  if s.zones.any mine then { s with zones := s.zones.map fun z => if mine z then { z with queue := z.queue ++ [c] } else z }
  else { s with zones := s.zones ++ [new] }

/-- A byte at a place as it stands, with no effect. -/
def peekLoc (s : State) (l : Loc) : Byte :=
  match l with
  | .dev a => memGet s.mem.home a
  | .scratch t o => memGet (tileOf s t).scratch o
  | .host a => memGet s.mem.host a
  | .fabric _ _ => 0

/-- A byte at a place as an asker would find it there: a paired shuttle finds what it holds back (R405). -/
def peekFor (s : State) (q : Asker) (l : Loc) : Byte :=
  if q.shuttle then (s.me.holdBuf.foldl (overlay l) [peekLoc s l]).headD 0 else peekLoc s l

/-- Bytes as an asker would find them where they stand, with no effect; none where one of them does not translate or is not the asker's to
read. -/
def peekAt (s : State) (q : Asker) (va : Nat) : Nat → Option (List Byte)
  | 0 => some []
  | n + 1 =>
    match (resolve s q .load va 1).2, peekAt s q (va + 1) n with
    | .ok x, some bs => some (peekFor s q x.1 :: bs)
    | _, _ => none

/-- Bytes written at a place for a tenant. -/
def writeAt (s : State) (q : Asker) (l : Loc) (p : Policy) (bs : List Byte) (poisoned : Bool) : State :=
  match l with
  | .dev pa => devWrite s q.tenant q.own pa bs poisoned p
  | .scratch t o => modTileAt s t (fun x => scratchWrite x o bs poisoned)
  | .host a => modMem s (fun m => { m with host := memWrite m.host a bs })
  | .fabric w off => sendRemote s q.tenant w off bs poisoned none

/-! ### The holds of a paired shuttle (R405) -/

/-- Bytes held since the last compare. -/
def heldBytes (h : Shuttle) : Nat := h.holdBuf.foldl (fun n w => n + w.bytes.length) 0
/-- Is a place beyond the shuttle's own tile's scratchpad? -/
def beyondTile (h : Shuttle) (l : Loc) : Bool :=
  match l with
  | .scratch t _ => decide (t ≠ h.place.tile)
  | _ => true
/-- Would a write pass the 256 KiB of the hold? -/
def holdFull (h : Shuttle) (l : Loc) (n : Nat) : Bool := h.paired && beyondTile h l && decide (262144 < heldBytes h + n)

/-- A read of the shuttle in focus: its own held bytes lie over the home's, poisoned as they are (R382, R405). -/
def readMine (s : State) (q : Asker) (l : Loc) (p : Policy) (n : Nat) : State × List Byte × Bool :=
  let (s1, bs, bad) := readAt s q l p n
  let lies (w : HeldWrite) : Bool := locOverlap w.loc w.bytes.length l n
  let covered := (List.range n).all fun i => s1.me.holdBuf.any fun w => locOverlap w.loc w.bytes.length (locPlus l i) 1
  (s1, s1.me.holdBuf.foldl (overlay l) bs, (bad && !covered) || s1.me.holdBuf.any fun w => w.poisoned && lies w)

/-- A write of the shuttle in focus: held where it is paired. -/
def writeMine (s : State) (q : Asker) (l : Loc) (p : Policy) (bs : List Byte) (poisoned : Bool) : State :=
  if s.me.paired && beyondTile s.me l then modMe s (fun h => { h with holdBuf := h.holdBuf ++ [{ loc := l, bytes := bs, pol := p, poisoned := poisoned }] })
  else writeAt s q l p bs poisoned

/-- The pieces of a run read one after another. -/
def readPieces (s : State) (q : Asker) : List (Loc × Policy × Nat) → State × List Byte × Bool
  | [] => (s, [], false)
  | (l, p, n) :: rest =>
    let (s1, bs, bad) := readMine s q l p n
    let (s2, more, bad2) := readPieces s1 q rest
    (s2, bs ++ more, bad || bad2)

/-- The pieces of a run written one after another. -/
def writePieces (s : State) (q : Asker) : List (Loc × Policy × Nat) → List Byte → Bool → State
  | [], _, _ => s
  | (l, p, n) :: rest, bs, poisoned => writePieces (writeMine s q l p (bs.take n) poisoned) q rest (bs.drop n) poisoned

/-! ### Residency of picks (R311, R328) -/

/-- The picks of a tier map that a range of VAs touches. -/
def picksTouched (m : TMap) (va n : Nat) : List Nat :=
  let b := Obj.base m.entry
  if va + n ≤ b ∨ b + Obj.size m.entry ≤ va then []
  else (List.range m.picks).filter fun p => decide (va < b + pickOff m p + pickLen m p ∧ b + pickOff m p < va + n)

/-- A pick's tiles filled from NAND into HBM on demand, charged to the HBM quota (R311, R323); none where the charge is refused or the
frame is lost, which R326 reports. -/
def fillPick (s : State) (m : TMap) (p : Nat) : State × Bool :=
  let lost := lostFrameTiles s (pickTiles s m p)
  if lost ≠ [] then ((reportLost s lost 0).1, false)
  else
    match chargeHbm s m p none with
    | none => (s, false)
    | some s1 =>
      match tierEnt s1 m p with
      | some e =>
        let e1 := Tier.withCopy e 1 true
        (putTierHome s1 m p (if Tier.res e1 < 1 then Tier.withRes e1 1 else e1), true)
      | none => (s1, false)

/-- A tier C access of a tenant to a range: every pick it touches is filled on demand; false where a pick is lost or parked for repair or its
fill is refused, and the access parks (R311, R328). -/
def residentFor (s : State) (t va n : Nat) : State × Bool :=
  (knownMaps s).foldl (fun acc m =>
    if m.tenant ≠ t then acc
    else (picksTouched m va n).foldl (fun a p =>
      match tierEnt a.1 m p with
      | none => a
      | some e =>
        if 2 ≤ Tier.state e then (a.1, false)
        else if Tier.copy e 1 || Tier.copy e 2 then a
        else
          let (s1, ok) := fillPick a.1 m p
          (s1, a.2 && ok)) acc) (s, true)

/-- Does an access touch a pick that is lost or parked for repair? One that meets poison there parks instead of faulting (R328). -/
def touchesLost (s : State) (t va n : Nat) : Bool :=
  (knownMaps s).any fun m => decide (m.tenant = t) && (picksTouched m va n).any fun p =>
    match tierEnt s m p with
    | some e => decide (2 ≤ Tier.state e)
    | none => false

/-! ### The L1 (R291) -/

/-- A tile's L1 invalidated whole, and its scale cache with it (R160). -/
def flashL1 (x : Tile) : Tile := { x with l1 := [], scale := [] }
/-- A store's bytes written into a line that is present. -/
def l1Store (x : Tile) (pa : Nat) (bs : List Byte) : Tile :=
  { x with l1 := x.l1.map fun l =>
      { l with bytes := (List.range 192).map fun i =>
          let a := 192 * l.line + i
          if pa ≤ a ∧ a < pa + bs.length then bs.getD (a - pa) 0 else l.bytes.getD i 0 } }
/-- The lines of an atomic's address invalidated in the issuing tile. -/
def l1Drop (x : Tile) (pa n : Nat) : Tile := { x with l1 := x.l1.filter fun l => l.line ∉ unitsOf pa n 192 }
/-- A line filled; the L1 share bounds the lines held. -/
def l1Put (x : Tile) (l : L1Line) : Tile :=
  { x with l1 := (l :: x.l1.filter (fun y => y.line ≠ l.line)).take (x.l1share / 192) }

/-! ### SEQ stores that have not performed (R113) -/

/-- Are two accesses of one shuttle ordered by their classes: the same class, or either class 0 (R113)? -/
def classOrdered (x y : PStore) : Bool := decide (x.cls = y.cls) || decide (x.cls = 0) || decide (y.cls = 0)

/-- Does a store meet `n` bytes at a place? -/
def meets (l : Loc) (n : Nat) (x : PStore) : Bool := locOverlap x.loc x.bytes.length l n

/-- Are two accesses of one shuttle ordered: by their classes, or by bytes they share (R113)? -/
def ordered (x y : PStore) : Bool := classOrdered x y || meets y.loc y.bytes.length x

/-- The pending stores that must perform before a target, and the rest, both oldest first: those ordered before it, and those
ordered before one of these. -/
def splitStores (target : PStore → Bool) : List PStore → List PStore × List PStore
  | [] => ([], [])
  | x :: xs =>
    let (need, keep) := splitStores target xs
    if target x || need.any (ordered x) then (x :: need, keep) else (need, x :: keep)

/-- The asker of the shuttle in focus. -/
def meAsker (s : State) (hint : Nat) : Asker := { tenant := s.me.tenant, hint := hint }

/-- A store performs at its home, translated as it was at its issue; one to a peer is sent with its class (R113, R352). -/
def performStore (s : State) (x : PStore) : State :=
  match x.loc with
  | .fabric w off => sendRemote s s.me.tenant w off x.bytes false none (some x.cls)
  | l => writeAt s (meAsker s 0) l x.pol x.bytes false

/-- Pending stores that must precede a target perform, oldest first. -/
def drainFor (s : State) (target : PStore → Bool) : State :=
  let (need, keep) := splitStores target s.me.stores
  need.foldl performStore (modMe s (fun h => { h with stores := keep }))

/-- Every pending store performs (a release over all classes). -/
def drainAll (s : State) : State := drainFor s (fun _ => true)

/-- The pending stores of the other shuttles of the tile that meet `n` bytes of device memory perform, each with those ordered before it: a value
that another shuttle of the tile has seen in the L1, or that a line is about to be filled without, stands at its home (R119, R291, R296). -/
def performOver (s : State) (pa n : Nat) : State :=
  let here := s.me.place
  let near := s.others.filter fun h => h.place.tile = here.tile && h.stores.any (meets (.dev pa) n)
  (near.map (·.place)).foldl (fun t p => focus (drainFor (focus t p) (meets (.dev pa) n)) here) s

/-! ### Releases and their scopes (R119, R294, R296) -/

/-- Is a class in a mask? -/
def inMask (mask cls : Nat) : Bool := decide (mask / 2 ^ cls % 2 = 1)

/-- Does a release over a class mask cover a store: by its class, or by a load in those classes that returned its bytes (R119, R296)? -/
def covers (mask : Nat) (x : PStore) : Bool := inMask mask x.cls || decide (x.obs &&& mask ≠ 0)

/-- A release of the shuttle in focus over a class mask for every agent: its stores perform (R119). -/
def release (s : State) (mask : Nat) : State := drainFor s (covers mask)

/-- The stores that a release at a scope covers, and those ordered before them, marked as performed for the agents inside (R294, R296); first
the covered ones, then all. -/
def markStores (target : PStore → Bool) (scope : Nat) : List PStore → List PStore × List PStore
  | [] => ([], [])
  | x :: xs =>
    let (need, out) := markStores target scope xs
    if target x || need.any (ordered x) then (x :: need, { x with vis := some (Nat.max (x.vis.getD 0) scope) } :: out)
    else (need, x :: out)

/-- Does a store go to a peer? -/
def toPeer (x : PStore) : Bool :=
  match x.loc with
  | .fabric _ _ => true
  | _ => false

/-- A release of the shuttle in focus at a scope. From PACKAGE on its stores perform at their homes. At a nearer one they are performed for the
agents inside, and stand for the others until they reach their homes (R294); a store to a peer is sent, as it is to be acknowledged (R119). -/
def releaseAt (s : State) (mask scope : Nat) : State :=
  if 5 ≤ scope then release s mask
  else
    modMe (drainFor s (fun x => covers mask x && toPeer x)) (fun h => { h with stores := (markStores (covers mask) scope h.stores).2 })

/-- Tiles of the physical unit of a scope (R294). -/
def scopeTiles : Nat → Nat
  | 2 => 4 | 3 => 16 | 4 => 192 | _ => 1

/-- Does a scope reckoned from one shuttle's place take in another's (R294)? -/
def scopeHolds (scope : Nat) (p q : Place) : Bool :=
  if scope = 0 then decide (p = q) else decide (p.tile / scopeTiles scope = q.tile / scopeTiles scope)

/-- Has a store of the shuttle at one place been performed for an agent at another (R294)? A sequencer needs none of its own. -/
def shownTo (q : Place) (eng : Bool) (p : Place) (x : PStore) : Bool :=
  (eng || decide (p ≠ q)) && x.vis.any fun k => scopeHolds k p q

/-- Before an agent at a place acts, every store that a release has performed for it reaches its home (R294). -/
def surface (s : State) (q : Place) (eng : Bool) : State :=
  let from' := (allShuttles s).filter fun h => h.stores.any (shownTo q eng h.place)
  from'.foldl (fun t h => focus (drainFor (focus t h.place) (shownTo q eng h.place)) s.me.place) s

/-- The shuttle's own pending stores lie over bytes read at a place, though they have not reached their home (R113, R293). -/
def forward (h : Shuttle) (l : Loc) (bs : List Byte) : List Byte :=
  h.stores.foldl (fun b x => overlay l b { loc := x.loc, bytes := x.bytes }) bs

/-! ### SEQ loads and stores (R110 to R113) -/

/-- The trouble of poisoned data; AUX names the physical tile (R373). -/
def poisonAt (va : Nat) (l : Loc) : Trouble :=
  { code := .poison, va := va, aux := match l with
    | .dev pa => pa / 6144
    | _ => 0 }

/-- The shuttle's own pending stores whose bytes a load of a class returns are marked: a release over that class covers them (R296). -/
def markObs (h : Shuttle) (l : Loc) (n cls : Nat) : Shuttle :=
  { h with stores := h.stores.map fun x => if meets l n x then { x with obs := x.obs ||| 2 ^ cls } else x }

/-- A hit in the L1 binds the line's bytes, so that the stores of the tile's shuttles that it returns stand at their home (R293, R296): the
others', after the own pending ones unless the line holds these. -/
def bindHit (s : State) (pa n : Nat) (bs : List Byte) : State :=
  performOver (if forward s.me (.dev pa) bs = bs then s else drainFor s (meets (.dev pa) n)) pa n

/-- A SEQ load of `n` bytes (R111, R113, R291, R293): the value, a fault, or a park (none). From a home it follows the earlier stores of its class,
and returns the own stores to its bytes in any case; in the L1 it takes the line's bytes. A line is filled with every store of the tile's
shuttles to it at its home. -/
def seqLoad (s : State) (va n cls hint : Nat) : State × Option (Except Trouble Nat) :=
  match resolve s (meAsker s hint) .load va n with
  | (s1, .error x) => (s1, some (.error x))
  | (s1, .ok (l, pol)) =>
    let (s2, there) := match l with
      | .dev _ => residentFor s1 s1.me.tenant va n
      | _ => (s1, true)
    if !there then (s2, none)
    else
      let probe : PStore := { loc := l, bytes := List.replicate n 0, cls := cls, va := va }
      let finish (r : State × List Byte × Bool) : State × Option (Except Trouble Nat) :=
        let bs := r.1.me.holdBuf.foldl (overlay l) r.2.1
        if r.2.2 then (r.1, if touchesLost r.1 r.1.me.tenant va n then none else some (.error (poisonAt va l)))
        else (modMe r.1 (fun h => markObs h l n cls), some (.ok (natOfBytes bs)))
      let own (r : State × List Byte × Bool) : State × List Byte × Bool := (r.1, forward r.1.me l r.2.1, r.2.2)
      match l with
      | .dev pa =>
        if decide (hint ≠ 3) && decide (s2.tile.l1share ≠ 0) then
          match s2.tile.l1.find? (fun y => y.line = pa / 192) with
          | some y =>
            let bs := (y.bytes.drop (pa % 192)).take n
            finish (bindHit s2 pa n bs, bs, (unitsOf pa n 48).any fun k => k ∈ y.poison)
          | none =>
            let line := pa / 192 * 192
            let s3 := performOver (drainFor s2 (fun x => classOrdered x probe || meets (.dev line) 192 x)) line 192
            let (s4, bytes, bad) := tileRead s3 s3.me.tenant false line 192 pol
            let foreignFill := decide ((sealMeta s4.mem (pa / 6144)).owner ≠ s4.me.tenant)
            let poison := (unitsOf line 192 48).filter fun k => k ∈ s4.mem.poison
            let s5 := if foreignFill ∨ (bad ∧ touchesLost s4 s4.me.tenant va n) then s4
              else modTile s4 (fun x => l1Put x { line := pa / 192, bytes := bytes, poison := poison })
            finish (s5, (bytes.drop (pa % 192)).take n, bad && (foreignFill || (unitsOf pa n 48).any fun k => k ∈ poison))
        else finish (own (tileRead (drainFor s2 (fun x => classOrdered x probe)) s2.me.tenant false pa n pol))
      | _ => finish (own (readAt (drainFor s2 (fun x => classOrdered x probe)) (meAsker s hint) l pol n))

/-- Does a place lie in the flag page of a fabric window: its slot (R352, R413)? -/
def flagSlot (s : State) (t : Nat) (l : Loc) : Option (Nat × Nat) :=
  match l with
  | .fabric w off =>
    let x := windowEntry s t w
    if x.size ≤ off + 4096 then some (w, (off + 4096 - x.size) / 8) else none
  | _ => none

/-- A release flag sent by the shuttle in focus, after the remote stores it issued earlier to that peer (R352). -/
def sendFlag (s : State) (w slot seq : Nat) : State :=
  let t := s.me.tenant
  let peer := (windowEntry s t w).peer
  let before := (s.fabric.stores.filter fun x =>
    decide (x.2.place = s.me.place ∧ x.2.tenant = t ∧ (windowEntry s t x.2.window).peer = peer)).map (·.1)
  let f : FlagMsg := { tenant := t, window := w, slot := slot, seq := seq, place := s.me.place,
                       port := pickPort (windowEntry s t w).ports s.fabric.portsDown, after := before }
  { s with fabric := { s.fabric with flags := s.fabric.flags ++ [(s.fabric.nextId, f)], nextId := s.fabric.nextId + 1 } }

/-- A SEQ store of `n` bytes (R112, R113, R291, R352, R405): it issues; a fault, or a park (none). A paired shuttle holds it; a `st.64` to a flag
page sends its flag. -/
def seqStore (s : State) (va n v cls hint : Nat) : State × Option (Except Trouble Unit) :=
  match resolve s (meAsker s (if hint = 4 then 0 else hint)) .store va n with
  | (s1, .error x) => (s1, some (.error x))
  | (s1, .ok (l, pol)) =>
    let (s2, there) := match l with
      | .dev _ => residentFor s1 s1.me.tenant va n
      | _ => (s1, true)
    if !there then (s2, none)
    else if holdFull s2.me l n then (s2, some (.error { code := .bounds, va := va }))
    else
      let bs := bytesOf n v
      let flag := flagSlot s2 s2.me.tenant l
      if flag.isSome ∧ n = 8 ∧ 2 ^ 32 ≤ v % 2 ^ 64 then (s2, some (.error { code := .bounds, va := va }))
      else if s2.me.paired && beyondTile s2.me l then
        (modMe s2 (fun h => { h with holdBuf := h.holdBuf ++ [{ loc := l, bytes := bs, pol := pol }] }), some (.ok ()))
      else
        let s3 := match l with
          | .dev pa => modTile s2 (fun x => l1Store x pa bs)
          | _ => s2
        match flag, decide (n = 8) with
        | some (w, slot), true => (sendFlag (drainAll s3) w slot (v % 2 ^ 32), some (.ok ()))
        | _, _ => (modMe s3 (fun h => { h with stores := h.stores ++ [{ loc := l, bytes := bs, cls := cls, va := va, pol := pol }] }), some (.ok ()))

/-! ### Acquires (R155, R291) -/

/-- Every fetched and uncommitted block of the shuttle's input streams in the classes of a mask is discarded, with its held fault, and
fetch begins again at CPOS (R155). -/
def discardBlocks (h : Shuttle) (mask : Nat) : Shuttle :=
  { h with s := h.s.map fun x => match x with
      | some st =>
        if !st.desc.out && decide (mask / 2 ^ st.desc.cls % 2 = 1) && !st.parked then
          some { st with buf := [], spos := st.cpos, flying := false }
        else some st
      | none => none }

/-- An acquire of the shuttle in focus over a class mask: its tile's L1 and scale cache are invalidated, its speculation is
discarded. -/
def acquire (s : State) (mask : Nat) : State := modMe (modTile s flashL1) (fun h => discardBlocks h mask)
/-- An acquire over every class. -/
def acquireAll (s : State) : State := acquire s 65535

end Sys2Proof.Machine
end

