-- ==== Sys2Proof/Machine/Code.lean ====
section
/-! DEFINITION. Code lines and code addresses (R38 to R42), the kernel header (R87), and the chain of a shuttle's SEQ code. -/
namespace Sys2Proof.Machine

namespace Link
/-- ENG of a line (R39). -/
def eng (l : BitVec 512) : Nat := (l.extractLsb' 29 3).toNat
/-- NEXT. -/
def next (l : BitVec 512) : Nat := (l.extractLsb' 7 22).toNat
/-- SLOTS. -/
def slots (l : BitVec 512) : Nat := (l.extractLsb' 4 3).toNat
/-- MODE: interlocked. -/
def inter (l : BitVec 512) : Bool := l.getLsbD 3
/-- PERM. -/
def perm (l : BitVec 512) : Nat := (l.extractLsb' 1 2).toNat
/-- LAST. -/
def last (l : BitVec 512) : Bool := l.getLsbD 0
end Link

/-- Instruction slot i of a line (R38). -/
def slotWord (l : BitVec 512) (i : Nat) : IWord := l.extractLsb' (32 + 96 * i) 96

/-- A line that breaks a rule of R40 for the engine that meets it. -/
def breach (l : BitVec 512) (eng : Nat) : Bool :=
  decide (Link.eng l ≠ eng) || decide (5 < Link.slots l) || decide (Link.perm l = 3)

/-- A code address of a line and slot (R41). -/
def codeAddr (line slot : Nat) : Word := BitVec.ofNat 64 (8 * line + slot)
/-- The line of a code address. -/
def lineOf (a : Word) : Nat := a.toNat / 8 % 2 ^ 22
/-- The slot of a code address. -/
def slotOf (a : Word) : Nat := a.toNat % 8

/-- The VA of a line of the shuttle's image (R38). -/
def lineVa (h : Shuttle) (n : Nat) : Nat := h.kern.codeBase + 64 * n

/-- The 512 bits of 64 bytes. -/
def bits512 (bs : List Byte) : BitVec 512 := BitVec.ofNat 512 (natOfBytes bs)

/-- A line as it stands in memory now. -/
def peekLine (s : State) (h : Shuttle) (n : Nat) : Option (BitVec 512) := (homeBytes s h.tenant (lineVa h n) 64).map bits512

/-- A line fetched whole (R42): the held copy where it is the line in memory, either of the two where they differ until an `objsync`
has passed (R137). -/
def fetchLine (s : State) (n : Nat) : State × Except Trouble (BitVec 512) :=
  let va := lineVa s.me n
  let t := s.me.tenant
  match s.mem.lines.find? (fun x => x.tenant = t && x.va = va) with
  | some x =>
    if some x.bits = peekLine s s.me n then (s, .ok x.bits)
    else if Config.chooseStale s.fresh then (bump s, .ok x.bits)
    else fresh (bump s) va t
  | none => fresh s va t
where
  /-- The line read through its home. -/
  fresh (s : State) (va t : Nat) : State × Except Trouble (BitVec 512) :=
    match resolve s { tenant := t } .load va 64 with
    | (s1, .error x) => (s1, .error x)
    | (s1, .ok (l, p)) =>
      let (s2, bs, bad) := readAt s1 { tenant := t } l p 64
      if bad then (s2, .error (poisonAt va l))
      else
        (modMem s2 (fun m => { m with
          lines := { tenant := t, va := va, bits := bits512 bs } :: m.lines.filter fun x => !(x.tenant = t && x.va = va) }),
         .ok (bits512 bs))

/-- The lines of a chain from a line, in order, with their bits; it stops at a LAST line, at a line outside the image, or at one it
has passed (R40). -/
def chainFrom (s : State) (h : Shuttle) : Nat → List Nat → Nat → List (Nat × BitVec 512)
  | 0, _, _ => []
  | fuel + 1, seen, n =>
    if h.kern.lines ≤ n ∨ n ∈ seen then []
    else
      match peekLine s h n with
      | none => []
      | some l => (n, l) :: (if Link.last l then [] else chainFrom s h fuel (n :: seen) (Link.next l))

/-- The code addresses of a shuttle's SEQ chain with their words, in chain order (R41). -/
def seqChain (s : State) (h : Shuttle) : List (Word × IWord) :=
  (chainFrom s h h.kern.lines [] h.kern.seqHead).flatMap fun x =>
    (List.range (Nat.min 5 (Link.slots x.2))).map fun i => (codeAddr x.1 i, slotWord x.2 i)

/-- Is a code address legal for a branch, `sysret` or a handler of the shuttle (R41)? -/
def targetOk (s : State) (h : Shuttle) (a : Word) : Bool :=
  decide (a.toNat < 2 ^ 25) && (seqChain s h).any fun x => x.1 = a

/-- The place of a code address in a chain. -/
def chainIndex (c : List (Word × IWord)) (a : Word) : Option Nat := c.findIdx? fun x => x.1 = a

/-- The opcode of a word. -/
def opOf (w : IWord) : Nat := (unpack w).op.toNat

/-- May an indirect branch land at a code address (R29, R104): on a `safept`, or at the instruction after a `brl` or after the
delay slots of one? -/
def indirectOk (s : State) (h : Shuttle) (a : Word) : Bool :=
  let c := seqChain s h
  match chainIndex c a with
  | none => false
  | some i =>
    let at' (k : Nat) : Option IWord := (listAt c k).map (·.2)
    let isBrl (k : Nat) : Bool := match at' k with
      | some w => decide (opOf w = 0x04A)
      | none => false
    let delay (k : Nat) : Nat := match at' k with
      | some w => (unpack w).c.toNat % 4
      | none => 0
    (match at' i with
      | some w => decide (opOf w = 0x002)
      | none => false)
    || (decide (1 ≤ i) && isBrl (i - 1))
    || (List.range 4).any fun d => decide (d + 1 ≤ i) && isBrl (i - 1 - d) && decide (delay (i - 1 - d) = d)

/-- May a word stand in a delay slot (R105)? A word that fails R48 may not, whatever its opcode (DEDUCED, log entry 118). -/
def delayOk (w : IWord) : Bool :=
  let op := opOf w
  match decodeOn .seq w with
  | .error _ => false
  | .ok (.getsr _ _ sr _) => decide (sr ≠ srTagbytes)
  | .ok _ =>
    decide (op = 0 ∨ (0x010 ≤ op ∧ op ≤ 0x013) ∨ (0x018 ≤ op ∧ op ≤ 0x029) ∨ (0x030 ≤ op ∧ op ≤ 0x044) ∨ op = 0x048)

/-- The `d` instructions after a code address, where each may stand in a delay slot, and the address after them (R104, R105). -/
def delaySlots (s : State) (h : Shuttle) (a : Word) (d : Nat) : Option Word :=
  let c := seqChain s h
  match chainIndex c a with
  | none => if d = 0 then some (a + 1) else none
  | some i =>
    let ws := (c.drop (i + 1)).take d
    if ws.length = d ∧ ws.all (fun x => delayOk x.2) then
      match listAt c (i + 1 + d) with
      | some x => some x.1
      | none => match listAt c (i + d) with
        | some x => some (x.1 + 1)
        | none => some (a + 1)
    else none

/-- The code address after the shuttle's pc, in chain order, from the line in hand (R41): past the last valid slot of a LAST line it is
that slot's own address, where the next issue traps. -/
def nextPc (h : Shuttle) : Word :=
  match h.hand with
  | none => h.pc + 1
  | some (_, l) =>
    if slotOf h.pc + 1 < Link.slots l ∨ Link.last l then h.pc + 1 else codeAddr (Link.next l) 0

/-- Is the line in hand exposed (R23)? -/
def exposed (h : Shuttle) : Bool :=
  match h.hand with
  | some (_, l) => !Link.inter l
  | none => false

/-! ### The kernel header (R87) -/

/-- The header's fields, read by the device from a kernel object's entry; none where it does not read. -/
def kernHeader (s : State) (t idx : Nat) (e : BitVec 256) : Option (Kern × List Byte) :=
  match homeBytes s t (Obj.base e) 64 with
  | none => none
  | some hd =>
    let f (a n : Nat) : Nat := natOfBytes ((hd.drop a).take n)
    some ({ obj := idx, base := Obj.base e, codeBase := f 0 8, lines := f 8 4, seqHead := f 12 4, strOff := f 16 4,
            nStream := f 20 2, nSafe := f 22 2, safeOff := f 24 4 }, hd)

/-- The declared maximum duration of an entry head for an engine, from the safe-point map; none where the map names no such head
(R87). -/
def safeRecord (s : State) (t : Nat) (k : Kern) (head eng : Nat) : Option Nat :=
  firstSome (fun i =>
    match homeBytes s t (k.base + k.safeOff + 16 * i) 16 with
    | some bs =>
      if natOfBytes (bs.take 4) = head ∧ natOfBytes ((bs.drop 8).take 1) = eng then some (natOfBytes ((bs.drop 4).take 4)) else none
    | none => none) (List.range k.nSafe)

end Sys2Proof.Machine
end

