-- ==== Sys2Proof/Machine/Num.lean ====
section
/-! DEFINITION. The arithmetic of "Number formats, rounding and the reed order" (R204 to R219): element formats, exact
values, round, fadd, prod, the reed order, the B16M blocks, and conversions. Every operation forms its exact result and rounds it once. -/
namespace Sys2Proof.Machine

/-! ### Formats (R205) -/

/-- The binary floating-point formats. -/
inductive Fmt where
  | f32 | bf16 | f16 | e4m3 | e5m2
deriving DecidableEq, Repr

/-- Width in bits (R205). -/
def Fmt.width : Fmt → Nat
  | .f32 => 32 | .bf16 => 16 | .f16 => 16 | .e4m3 => 8 | .e5m2 => 8
/-- Width of the fraction field (R205). -/
def Fmt.frac : Fmt → Nat
  | .f32 => 23 | .bf16 => 7 | .f16 => 10 | .e4m3 => 3 | .e5m2 => 2
/-- Width of the exponent field (R205). -/
def Fmt.ebits : Fmt → Nat
  | .f32 => 8 | .bf16 => 8 | .f16 => 5 | .e4m3 => 4 | .e5m2 => 5
/-- Exponent bias (R205). -/
def Fmt.bias : Fmt → Nat
  | .f32 => 127 | .bf16 => 127 | .f16 => 15 | .e4m3 => 7 | .e5m2 => 15
/-- The canonical NaN (R205, R206). -/
def Fmt.cnan : Fmt → Nat
  | .f32 => 0x7FC00000 | .bf16 => 0x7FC0 | .f16 => 0x7E00 | .e4m3 => 0x7F | .e5m2 => 0x7E
/-- The encoding of the largest finite magnitude (R205). -/
def Fmt.maxFin : Fmt → Nat
  | .f32 => 0x7F7FFFFF | .bf16 => 0x7F7F | .f16 => 0x7BFF | .e4m3 => 0x7E | .e5m2 => 0x7B
/-- The encoding of +infinity, where the format has one (R205: E4M3 has none). -/
def Fmt.infBits : Fmt → Option Nat
  | .f32 => some 0x7F800000 | .bf16 => some 0x7F80 | .f16 => some 0x7C00 | .e4m3 => none | .e5m2 => some 0x7C
/-- The largest exponent field that encodes normal values. -/
def Fmt.maxExp : Fmt → Nat
  | .f32 => 254 | .bf16 => 254 | .f16 => 30 | .e4m3 => 15 | .e5m2 => 30
/-- The largest finite significand, as an integer of frac + 1 bits. -/
def Fmt.maxSig (f : Fmt) : Nat := match f with
  | .e4m3 => 14
  | _ => 2 ^ (f.frac + 1) - 1
/-- The least exponent of a normal value, 1 − bias. -/
def Fmt.emin (f : Fmt) : Int := 1 - (f.bias : Int)

/-- The sign bit of an encoding, set. -/
def Fmt.withSign (f : Fmt) (neg : Bool) (mag : Nat) : Nat := if neg then mag + 2 ^ (f.width - 1) else mag

/-! ### Exact values -/

/-- An exact value: a NaN, an infinity, or (−1)^neg × m × 2^e, where m = 0 is a signed zero. -/
inductive FV where
  | nan
  | inf (neg : Bool)
  | fin (neg : Bool) (m : Nat) (e : Int)
deriving DecidableEq, Repr

/-- The value an encoding holds (R205): every NaN encoding is a NaN, subnormals are kept. -/
def FV.decode (f : Fmt) (bits : Nat) : FV :=
  let fr := bits % 2 ^ f.frac
  let ex := bits / 2 ^ f.frac % 2 ^ f.ebits
  let neg := decide (bits / 2 ^ (f.width - 1) % 2 = 1)
  if ex = 0 then .fin neg fr (f.emin - f.frac)
  else if ex ≤ f.maxExp ∧ ¬ (f = .e4m3 ∧ ex = 15 ∧ fr = 7) then .fin neg (2 ^ f.frac + fr) ((ex : Int) - f.bias - f.frac)
  else if f ≠ .e4m3 ∧ fr = 0 then .inf neg
  else .nan

/-- The value of a signed integer. -/
def FV.ofInt (i : Int) : FV := .fin (decide (i < 0)) i.natAbs 0

/-- A NaN? -/
def FV.isNan : FV → Bool
  | .nan => true | _ => false
/-- A zero of either sign? -/
def FV.isZero : FV → Bool
  | .fin _ 0 _ => true | _ => false
/-- An infinity? -/
def FV.isInf : FV → Bool
  | .inf _ => true | _ => false
/-- The sign bit. -/
def FV.neg : FV → Bool
  | .nan => false | .inf n => n | .fin n _ _ => n
/-- The value with its sign inverted. -/
def FV.negate : FV → FV
  | .nan => .nan | .inf n => .inf (!n) | .fin n m e => .fin (!n) m e
/-- The magnitude of the value with the sign given. -/
def FV.withSign (neg : Bool) : FV → FV
  | .nan => .nan | .inf _ => .inf neg | .fin _ m e => .fin neg m e

/-- The integer m × 2^(e − base) for base ≤ e. -/
def scaleTo (m : Nat) (e base : Int) : Nat := m * 2 ^ (e - base).toNat

/-- The signed integer of a finite value at a common exponent. -/
def signedAt (neg : Bool) (m : Nat) (e base : Int) : Int :=
  if neg then - (scaleTo m e base : Int) else (scaleTo m e base : Int)

/-- The exact sum, with the flag of ∞ − ∞ (R214): an exact zero sum is +0, but for −0 + −0. -/
def FV.add (a b : FV) : FV × FpFlags :=
  match a, b with
  | .nan, _ => (.nan, 0)
  | _, .nan => (.nan, 0)
  | .inf x, .inf y => if x = y then (.inf x, 0) else (.nan, Flag.nv)
  | .inf x, .fin _ _ _ => (.inf x, 0)
  | .fin _ _ _, .inf y => (.inf y, 0)
  | .fin n1 m1 e1, .fin n2 m2 e2 =>
    if m1 = 0 ∧ m2 = 0 then (.fin (n1 && n2) 0 0, 0)
    else
      let base := if e1 ≤ e2 then e1 else e2
      let s := signedAt n1 m1 e1 base + signedAt n2 m2 e2 base
      if s = 0 then (.fin false 0 0, 0) else (.fin (decide (s < 0)) s.natAbs base, 0)

/-- The exact product, with the flag of 0 × ∞ (R187, R248); a zero product of integers has its operands' sign too (DEDUCED, log entry 88). -/
def FV.mul (a b : FV) : FV × FpFlags :=
  match a, b with
  | .nan, _ => (.nan, 0)
  | _, .nan => (.nan, 0)
  | .inf x, .inf y => (.inf (x != y), 0)
  | .inf x, .fin n m _ => if m = 0 then (.nan, Flag.nv) else (.inf (x != n), 0)
  | .fin n m _, .inf y => if m = 0 then (.nan, Flag.nv) else (.inf (n != y), 0)
  | .fin n1 m1 e1, .fin n2 m2 e2 => (.fin (n1 != n2) (m1 * m2) (e1 + e2), 0)

/-- The exact fused value (±(a × b)) + c (R248): a NaN operand alone raises nothing. -/
def FV.fma (negProd : Bool) (a b c : FV) : FV × FpFlags :=
  if a.isNan || b.isNan || c.isNan then (.nan, 0)
  else
    let (p, f) := a.mul b
    let p' := if negProd then p.negate else p
    if f ≠ 0 then (.nan, f) else p'.add c

/-- The order of two values that are not NaN, −0 and +0 taken as equal. -/
def FV.le (a b : FV) : Bool :=
  match a, b with
  | .nan, _ => false
  | _, .nan => false
  | .inf true, _ => true
  | _, .inf false => true
  | .inf false, .inf true => false
  | .inf false, .fin _ _ _ => false
  | .fin _ _ _, .inf true => false
  | .fin n1 m1 e1, .fin n2 m2 e2 =>
    let base := if e1 ≤ e2 then e1 else e2
    decide (signedAt n1 m1 e1 base ≤ signedAt n2 m2 e2 base)
/-- Numeric equality; −0 equals +0 and a NaN equals nothing (R250). -/
def FV.eqv (a b : FV) : Bool := a.le b && b.le a
/-- The order of `vmin` and `vmax`: as numbers, with −0 below +0 (R248). -/
def FV.leSigned (a b : FV) : Bool :=
  if a.isZero && b.isZero then a.neg || !b.neg else a.le b

/-! ### Rounding (R210, R211) -/

/-- One field of the overflow table (R135). -/
inductive OvfMode where
  | satfinite | inf | nan
deriving DecidableEq, Repr

/-- The mode a two-bit field selects; 3 is refused by `ovf.load` before it is ever installed (R135). -/
def OvfMode.ofBits (b : BitVec 2) : OvfMode :=
  if b = 0 then .satfinite else if b = 1 then .inf else .nan

/-- The overflow table: bits [9:0] of `ovf.load`'s word (R135). -/
abbrev OvfTable := BitVec 10

/-- The field of the table for a floating format; FP32 has none and overflows to infinity (R211). -/
def ovfFor (t : OvfTable) : Fmt → OvfMode
  | .f32 => .inf
  | .bf16 => .ofBits (t.extractLsb' 0 2)
  | .f16 => .ofBits (t.extractLsb' 2 2)
  | .e4m3 => .ofBits (t.extractLsb' 4 2)
  | .e5m2 => .ofBits (t.extractLsb' 6 2)
/-- The field of the table for B16M (R135). -/
def ovfB16 (t : OvfTable) : OvfMode := .ofBits (t.extractLsb' 8 2)

/-- Does the mode round the magnitude of a value of this sign towards zero? (R211) -/
def Rnd.toZero (mode : Rnd) (neg : Bool) : Bool :=
  match mode with
  | .rne => false | .rtz => true | .rdn => !neg | .rup => neg

/-- The result of an overflow (R211). -/
def overflowTo (t : OvfTable) (f : Fmt) (mode : Rnd) (neg : Bool) : Nat :=
  if Rnd.toZero mode neg then f.withSign neg f.maxFin
  else match ovfFor t f with
    | .satfinite => f.withSign neg f.maxFin
    | .inf => match f.infBits with
      | some i => f.withSign neg i
      | none => f.cnan
    | .nan => f.cnan

/-- An infinite value delivered in a format (R211). -/
def infTo (t : OvfTable) (f : Fmt) (neg : Bool) : Nat × FpFlags :=
  match f.infBits with
  | some i => (f.withSign neg i, 0)
  | none => if ovfFor t f = .satfinite then (f.withSign neg f.maxFin, Flag.nx) else (f.cnan, Flag.nv)

/-- Does a discarded part round the magnitude up? `rem` of `2 ^ s` was discarded, plus something below one if `sticky`. -/
def roundsUp (mode : Rnd) (neg : Bool) (q rem s : Nat) (sticky : Bool) : Bool :=
  let inexact := decide (rem ≠ 0) || sticky
  match mode with
  | .rtz => false
  | .rdn => neg && inexact
  | .rup => !neg && inexact
  | .rne =>
    if s = 0 then false
    else
      let half := 2 ^ (s - 1)
      decide (half < rem) || (decide (rem = half) && (sticky || decide (q % 2 = 1)))

/-- The helper `round` of R210 on the finite nonzero magnitude m × 2^e, or one strictly between m × 2^e and (m + 1) × 2^e
when `sticky` holds. -/
def roundMag (t : OvfTable) (f : Fmt) (mode : Rnd) (neg : Bool) (m : Nat) (e : Int) (sticky : Bool) : Nat × FpFlags :=
  let x : Int := (Nat.log2 m : Int) + e
  let qe : Int := (if x < f.emin then f.emin else x) - f.frac
  let s : Nat := (qe - e).toNat
  let q : Nat := if e ≤ qe then m / 2 ^ s else m * 2 ^ (e - qe).toNat
  let rem : Nat := if e ≤ qe then m % 2 ^ s else 0
  let inexact := decide (rem ≠ 0) || sticky
  let q' := if roundsUp mode neg q rem s sticky then q + 1 else q
  let nx := raiseIf inexact Flag.nx
  let uf := raiseIf (inexact && decide (x < f.emin)) Flag.uf
  let big := decide (2 ^ (f.frac + 1) ≤ q')
  let q2 := if big then q' / 2 else q'
  let ex : Int := qe + f.frac + f.bias + (if big then 1 else 0)
  if q' = 0 then (f.withSign neg 0, nx ||| uf)
  else if q2 < 2 ^ f.frac then (f.withSign neg q2, nx ||| uf)
  else if (f.maxExp : Int) < ex ∨ (ex = f.maxExp ∧ f.maxSig < q2) then (overflowTo t f mode neg, nx ||| uf ||| Flag.ofl ||| Flag.nx)
  else (f.withSign neg (ex.toNat * 2 ^ f.frac + (q2 - 2 ^ f.frac)), nx ||| uf)

/-- The helper `round` of R210. -/
def roundTo (t : OvfTable) (f : Fmt) (mode : Rnd) (v : FV) : Nat × FpFlags :=
  match v with
  | .nan => (f.cnan, 0)
  | .inf n => infTo t f n
  | .fin n 0 _ => (f.withSign n 0, 0)
  | .fin n (m + 1) e => roundMag t f mode n (m + 1) e false

/-- The table under which FP32 results round: it is never read for FP32 (R211). -/
def noTable : OvfTable := 0

/-- A value rounded to FP32 by RNE. -/
def roundF32 (v : FV) : Nat × FpFlags := roundTo noTable .f32 .rne v

/-- The value of an FP32 encoding. -/
def f32 (bits : Nat) : FV := FV.decode .f32 bits

/-- An exact operation followed by the one rounding of R210, RNE. -/
def roundedRne (t : OvfTable) (f : Fmt) (r : FV × FpFlags) : Nat × FpFlags :=
  let (b, fl) := roundTo t f .rne r.1
  (b, r.2 ||| fl)

/-- fadd of R214 on FP32 encodings: the only adder of the reed tree. -/
def fadd (a b : Nat) : Nat × FpFlags := roundedRne noTable .f32 ((f32 a).add (f32 b))

/-- The product of two operand elements, rounded once into FP32 (R187). -/
def prod (x y : FV) : Nat × FpFlags := roundedRne noTable .f32 (x.mul y)

/-! ### The reed order (R215) -/

/-- The largest power of two strictly less than n, for n ≥ 2 (R215). -/
def pow2Below (n : Nat) : Nat := 2 ^ Nat.log2 (n - 1)

/-- reed of R215 over a nonempty list, with node function `node`; `fuel` at least the length. The flags of every node are joined. -/
def reedFuel {α : Type} (node : α → α → α × FpFlags) (dflt : α) : Nat → List α → α × FpFlags
  | 0, l => (l.headD dflt, 0)
  | k + 1, l =>
    if l.length ≤ 1 then (l.headD dflt, 0)
    else
      let h := pow2Below l.length
      let a := reedFuel node dflt k (l.take h)
      let b := reedFuel node dflt k (l.drop h)
      let r := node a.1 b.1
      (r.1, a.2 ||| b.2 ||| r.2)

/-- reed over a list; the sum of zero terms is the default (R215: +0). -/
def reedOf {α : Type} (node : α → α → α × FpFlags) (dflt : α) (l : List α) : α × FpFlags :=
  reedFuel node dflt l.length l

/-- The reed sum of FP32 encodings. -/
def reedSum (l : List Nat) : Nat × FpFlags := reedOf fadd 0 l

/-- The flags of a list of valued results, and the values. -/
def unzipFlags {α : Type} (l : List (α × FpFlags)) : List α × FpFlags := (l.map (·.1), joinFlags (l.map (·.2)))

/-- One K-chunk: the reed sum of the products of two equally long lists of elements (R187, R190). -/
def chunkSum (xs ys : List FV) : Nat × FpFlags :=
  let (ps, f1) := unzipFlags ((xs.zip ys).map fun p => prod p.1 p.2)
  let (s, f2) := reedSum ps
  (s, f1 ||| f2)

/-! ### Integers and conversions (R212) -/

/-- An exact value rounded to an integer by a mode; none for a NaN or an infinity. -/
def roundToInt (mode : Rnd) (v : FV) : Option (Int × Bool) :=
  match v with
  | .nan => none
  | .inf _ => none
  | .fin neg m e =>
    if 0 ≤ e then some (signedAt neg m e 0, false)
    else
      let s := (-e).toNat
      let q := m / 2 ^ s
      let rem := m % 2 ^ s
      let q' := if roundsUp mode neg q rem s false then q + 1 else q
      some (if neg then - (q' : Int) else (q' : Int), decide (rem ≠ 0))

/-- An integer clamped to bounds, and whether it was clamped. -/
def clampInt (lo hi i : Int) : Int × Bool :=
  if i < lo then (lo, true) else if hi < i then (hi, true) else (i, false)

/-- Floating point to an integer range: NaN gives 0 with NV; out of range saturates with NV and no NX (R212). -/
def fvToInt (mode : Rnd) (lo hi : Int) (v : FV) : Int × FpFlags :=
  match v with
  | .nan => (0, Flag.nv)
  | .inf true => (lo, Flag.nv)
  | .inf false => (hi, Flag.nv)
  | .fin n m e =>
    match roundToInt mode (.fin n m e) with
    | none => (0, Flag.nv)
    | some (i, inexact) =>
      let (c, sat) := clampInt lo hi i
      if sat then (c, Flag.nv) else (c, raiseIf inexact Flag.nx)

/-- The bounds of an integer type of `w` bits (R207). -/
def intLo (signed : Bool) (w : Nat) : Int := if signed then - (2 ^ (w - 1) : Nat) else 0
/-- The upper bound of an integer type of `w` bits (R207). -/
def intHi (signed : Bool) (w : Nat) : Int := if signed then (2 ^ (w - 1) : Nat) - 1 else (2 ^ w : Nat) - 1

/-- The encoding of an integer at width w. -/
def intBits (w : Nat) (i : Int) : Nat := (BitVec.ofInt w i).toNat
/-- The value of an encoding of an integer type. -/
def intValue (signed : Bool) (w bits : Nat) : Int := if signed then signedOf w bits else ((bits % 2 ^ w : Nat) : Int)

/-! ### B16M blocks (R208, R209) -/

/-- Element i of a B16Mm block: payload bits as one number, shared exponent and shift byte (R208). -/
def b16Value (m payload ex mu i : Nat) : FV :=
  if ex = 255 then .nan
  else
    let fld := payload / 2 ^ ((m + 1) * i) % 2 ^ (m + 1)
    let mag := fld % 2 ^ m
    let neg := decide (fld / 2 ^ m = 1)
    let muq := mu / 2 ^ (2 * (i / 4)) % 4
    .fin neg mag ((ex : Int) - 127 - muq - m + 1)

/-- The exponent of the largest power of two not above a nonzero finite magnitude. -/
def FV.log2 : FV → Int
  | .fin _ m e => (Nat.log2 m : Int) + e
  | _ => 0

/-- |x| < 2^k for a finite value. -/
def FV.below (v : FV) (k : Int) : Bool :=
  match v with
  | .fin _ 0 _ => true
  | .fin _ m e => decide ((Nat.log2 m : Int) + e < k)
  | _ => false

/-- The greatest of the binary exponents of the block's nonzero elements, at least −127 (R209). -/
def b16Xp (xs : List FV) : Int :=
  xs.foldl (fun a v => if v.isZero then a else if a < v.log2 then v.log2 else a) (-127)

/-- A quad's shift: the largest d in 0..3 such that every magnitude lies below 2^(Xp + 1 − d) (R209). -/
def b16Shift (xp : Int) (quad : List FV) : Nat :=
  if quad.any (·.isInf) then 0
  else if quad.all (fun v => v.below (xp + 1 - 3)) then 3
  else if quad.all (fun v => v.below (xp + 1 - 2)) then 2
  else if quad.all (fun v => v.below (xp + 1 - 1)) then 1
  else 0

/-- One element's magnitude field and whether it was inexact (R209): the magnitude rounded by rnd, then saturated at 2^m − 1. -/
def b16Mag (m : Nat) (rnd : Rnd) (unit : Int) (v : FV) : Nat × Bool :=
  match v with
  | .inf _ => (2 ^ m - 1, true)
  | .nan => (0, false)
  | .fin neg k e =>
    let s := (unit - e).toNat
    let q := if unit ≤ e then k * 2 ^ (e - unit).toNat else k / 2 ^ s
    let rem := if unit ≤ e then 0 else k % 2 ^ s
    let q' := if roundsUp rnd neg q rem s false then q + 1 else q
    if 2 ^ m ≤ q' then (2 ^ m - 1, decide (rem ≠ 0 ∨ q' ≠ 2 ^ m - 1)) else (q', decide (rem ≠ 0))

/-- `encode_b16m` of R209: payload, E, µ and flags, for sixteen values. -/
def b16Encode (t : OvfTable) (m : Nat) (rnd : Rnd) (xs : List FV) : Nat × Nat × Nat × FpFlags :=
  if xs.any (·.isNan) then (0, 255, 0, Flag.nv)
  else
    let anyInf := xs.any (·.isInf)
    if anyInf && ovfB16 t != .satfinite then (0, 255, 0, Flag.nv)
    else
      let xp : Int := if anyInf then 127 else b16Xp xs
      let quads := [xs.take 4, (xs.drop 4).take 4, (xs.drop 8).take 4, (xs.drop 12).take 4]
      let mus := quads.map (b16Shift xp)
      let mu := mus.getD 0 0 + 4 * mus.getD 1 0 + 16 * mus.getD 2 0 + 64 * mus.getD 3 0
      let fields := (List.range 16).map fun i =>
        let v := xs.getD i (.fin false 0 0)
        let r := b16Mag m rnd (xp - mus.getD (i / 4) 0 - m + 1) v
        ((if v.neg then 2 ^ m else 0) + r.1, r.2)
      let payload := (fields.map (·.1)).foldr (fun x acc => x + 2 ^ (m + 1) * acc) 0
      (payload, (xp + 127).toNat, mu,
        raiseIf anyInf (Flag.ofl ||| Flag.nx) ||| raiseIf (fields.any (·.2)) Flag.nx)

/-- Bytes of a B16M payload group: 2 (m + 1) (R208). -/
def b16Bytes (m : Nat) : Nat := 2 * (m + 1)

end Sys2Proof.Machine
end

