-- ==== Sys2Proof/Machine/SeqCore.lean ====
section
/-! DEFINITION. What every SEQ instruction shares (R20, R21, R23, R26, R89 to R92): the landing of results, the token pop and push, the
guard, the advance of the pc through delay slots, waiting and trapping. -/
namespace Sys2Proof.Machine

/-- How the body of a SEQ instruction ends. -/
inductive SeqRes where
  /-- Its effects are done in so many issue cycles; the pc advances. -/
  | done (s : State) (occ : Nat)
  /-- Its effects are done, the pc among them. -/
  | jump (s : State) (occ : Nat)
  /-- Its effects are done but for the acknowledgement that its PUSH waits for; the pc advances. -/
  | owed (s : State) (occ : Nat)
  /-- It waits; nothing of it is done but its POP. -/
  | wait (s : State) (w : Wait)
  /-- It traps with a fault (R92). -/
  | trap (s : State) (x : Trouble) (r : FaultRec)

/-- A trap whose record has no field of the instruction's own. -/
def SeqRes.fault (s : State) (x : Trouble) : SeqRes := .trap s x {}

/-! ### Landing (R23, R91) -/

/-- Results land in order of their cycles; of two in one cycle the later-issued one's value stays (R91). -/
def landSome (h : Shuttle) (due : List Pend) (rest : List Pend) : Shuttle :=
  { (due.mergeSort (fun a b => a.land ≤ b.land)).foldl landOne h with pend := rest }

/-- Before an instruction reads its operands: in an exposed line the results that are due have landed; in an interlocked one it waits
for all of them, also for those that it neither reads nor writes (R23; DESIGN CHOICE, log entry 109). -/
def settle (h : Shuttle) : Shuttle :=
  if exposed h then landSome h (h.pend.filter fun q => q.land ≤ h.clock) (h.pend.filter fun q => !(decide (q.land ≤ h.clock)))
  else
    let t := h.pend.foldl (fun c q => Nat.max c q.land) h.clock
    { landSome h h.pend [] with clock := t, late := [] }

/-- A result that never reaches its register, since another of the same destination lands after it; its token is pushed all the same. -/
def lostPend (q : Pend) : Pend := { q with dest := .p 0 }

/-- A result of fixed latency lands at issue + latency (R91); one of a single cycle in an interlocked line is there at once, as no instruction
can issue before it lands. In an exposed line an earlier result of variable latency for the same destination may land last: that is open, and
this one is then lost. -/
def setResult (s : State) (d : SeqDest) (v : Word) (lat : Nat) : State :=
  let new (h : Shuttle) : Pend := { dest := d, val := v, land := h.clock + lat, issue := h.clock }
  if exposed s.me ∧ d ∈ s.me.late then
    bump (modMe s (fun h => { h with pend := h.pend ++ [if Config.chooseStale s.fresh then lostPend (new h) else new h] }))
  else if exposed s.me ∨ 1 < lat then modMe s (fun h => { h with pend := h.pend ++ [new h] })
  else modMe s (fun h => setDest h d v)

/-- A result of variable latency that lands: of those of fixed latency pending for the same destination it may be the last, which is open
(R91). In an exposed line one issued later may yet land before it. -/
def landVariable (s : State) (d : SeqDest) (v : Word) : State :=
  let put (h : Shuttle) : Shuttle :=
    let h1 := setDest h d v
    if exposed h ∧ d ∉ h.late then { h1 with late := d :: h1.late } else h1
  if s.me.pend.any (fun q => q.dest = d) then
    let last := Config.chooseStale s.fresh
    bump (modMe s (fun h =>
      let h1 := put h
      if last then { h1 with pend := h1.pend.map fun q => if q.dest = d then lostPend q else q } else h1))
  else modMe s put

/-- A result of variable latency. It is always interlocked, so that its destination is read only once it has landed (R91); in an exposed
line an earlier one of variable latency for the same destination may land after it, which is open. -/
def setVariable (s : State) (d : SeqDest) (v : Word) : State :=
  if exposed s.me ∧ d ∈ s.me.late then
    if Config.chooseStale s.fresh then bump s else landVariable (bump s) d v
  else landVariable s d v

/-! ### Guard and operands (R44, R89) -/

/-- The effective guard of a SEQ, STR or MTX instruction, with a reader of p0 to p15 (R44). -/
def guardWith (p : BitVec 6 → Bool) (c : Ctl) : Bool := (p c.ga != c.gan) && (p c.gb != c.gbn)

/-- The value of a source of a binary instruction (R46, R89, R97). -/
def srcVal (h : Shuttle) (x : GSrc) : Word :=
  match x with
  | .reg g => getG h g
  | .imm7 i => i.signExtend 64
  | .imm20 i => i.signExtend 64

/-- The value of a g register or a space-7 immediate (R89). -/
def gOrImmVal (h : Shuttle) (x : GOrImm) : Word :=
  match x with
  | .reg g => getG h g
  | .imm7 i => i.signExtend 64

/-! ### The pc and the token operations -/

/-- The pc past an instruction: the next of the chain, or the address that follows the last delay slot (R41, R104). -/
def stepPc (h : Shuttle) : Shuttle :=
  match h.delay with
  | some (n, a) =>
    if n ≤ 1 then { h with pc := a, delay := none } else { h with pc := nextPc h, delay := some (n - 1, a) }
  | none => { h with pc := nextPc h }

/-- Has the instruction that issued in a cycle a result that has yet to land? -/
def owesResult (h : Shuttle) (at' : Nat) : Bool := h.pend.any fun x => x.issue = at'

/-- The PUSH of an instruction that issued in a cycle, its other effects done: a token now, or with its result once that lands; where the tokens
counted and those still to be pushed are 15, it waits (R8, R20; log entry 109). -/
def pushTo (h : Shuttle) (q at' : Nat) : Shuttle :=
  if q = 0 then h
  else if 15 ≤ tokCount h q + pushesDue h q then
    { h with wait := some (if owesResult h at' then .pushRes q at' else .pushTok q) }
  else if owesResult h at' then { h with pend := h.pend.map fun x => if x.issue = at' then { x with push := q } else x }
  else setTok h q (tokCount h q + 1)

/-- The end of a SEQ instruction: its issue cycles, the stall count of an exposed line (R23), its PUSH. -/
def endSeq (s : State) (c : Ctl) (occ : Nat) : State :=
  let stall := if exposed s.me then c.sched.toNat else 0
  let s1 := modMe s (fun h =>
    pushTo { h with clock := h.clock + occ + stall, popped := false, wait := none, compareOk := false } c.push.toNat h.clock)
  tickTo s1 s1.me.clock

/-- A SEQ instruction with its pc advance. -/
def finishSeq (s : State) (c : Ctl) (occ : Nat) : State := endSeq (modMe s stepPc) c occ

/-! ### Traps of the sequencer (R26, R92) -/

/-- The drain of R26 in the sequencer: every result issued earlier lands, every store issued earlier performs. -/
def drainTrap (s : State) : State := drainAll (modMe s landAll)

/-- Are remote stores of the shuttle in focus not acknowledged (R112, R352)? -/
def remotePending (s : State) : Bool := s.fabric.stores.any fun x => decide (x.2.place = s.me.place ∧ x.2.sender = 0)

/-- Are remote stores or release flags of the shuttle in focus not acknowledged (R112, R353)? -/
def unacknowledged (s : State) : Bool := remotePending s || s.fabric.flags.any fun x => decide (x.2.place = s.me.place ∧ x.2.sender = 0)

/-- A precise trap after the drain of R26, which waits until every store issued earlier is acknowledged: only then has it completed (R92,
R112). -/
def trapDrained (s : State) (c : Code) (va : Nat) (r : FaultRec) (write : Bool) : State :=
  let t := drainTrap s
  if unacknowledged t then modMe t (fun h => { h with wait := some (.drain c va write r), popped := false })
  else trapWith t c va r write

/-- A precise trap of the shuttle in focus for a fault that an instruction met (R92). -/
def faultTrap (s : State) (x : Trouble) (r : FaultRec) : State :=
  trapDrained s x.code x.va { r with aux := if x.aux = 0 then r.aux else x.aux } x.write

/-- A precise trap at decode or before an instruction (R48, R92). -/
def decodeTrap (s : State) (c : Code) : State := trapDrained s c 0 {} false

/-- A SEQ instruction that ends as its body says, its POP done. -/
def settleRes (c : Ctl) (r : SeqRes) : State :=
  match r with
  | .done t occ => finishSeq t c occ
  | .jump t occ => endSeq t c occ
  | .owed t occ => modMe (finishSeq t { c with push := 0 } occ) (fun h => { h with wait := some (.pushAck c.push.toNat) })
  | .wait t w => modMe t (fun h => { h with wait := some w, popped := true, ctl := c })
  | .trap t x r => faultTrap (modMe t (fun h => unpop h c.pop.toNat)) x r

/-- Has the POP of an instruction yet to wait for its token? -/
def popBlocked (h : Shuttle) (c : Ctl) : Bool := c.pop ≠ 0 && !h.popped && decide (tokCount h c.pop.toNat = 0)

/-- The shuttle has observed what its engines completed: its releases cover the copies and the blocks of its output streams that it has seen
(R119, R163). -/
def observe (h : Shuttle) : Shuttle :=
  { h with
    copies := h.copies.map fun c => { c with seen := true }
    s := h.s.map fun x => x.map fun st => if st.desc.out then { st with seen := st.cpos } else st }

/-- Tokens taken from a queue into SEQ: what was pushed before them is observed (R8, R119). -/
def takeToken (h : Shuttle) (q n : Nat) : Shuttle := observe (popEffect (setTok h q (tokCount h q - n)) q)

/-- The POP of an instruction, done once (R20). -/
def doPop (h : Shuttle) (c : Ctl) : Shuttle :=
  if c.pop = 0 ∨ h.popped then h
  else { takeToken h c.pop.toNat 1 with popped := true }

/-- A SEQ instruction (R20, R21, R90): its POP, its guard, its body, its PUSH. -/
def seqRun (c : Ctl) (body : State → SeqRes) (s : State) : State :=
  let s0 := modMe s settle
  if popBlocked s0.me c then modMe s0 (fun h => { h with wait := some (.popTok c.pop.toNat), ctl := c })
  else
    let s1 := modMe s0 (fun h => { doPop h c with wait := none })
    if guardWith (getP s1.me) c then settleRes c (body s1) else finishSeq s1 c 1

/-- The outcome of a SEQ instruction. -/
def seqInstr (c : Ctl) (body : State → SeqRes) (s : State) : Host.Outcome State Fault Refusal := .next (seqRun c body s)

/-- A privileged SEQ instruction: in user mode it traps PRIV at decode, before its POP (R48, R92). -/
def privInstr (c : Ctl) (body : State → SeqRes) (s : State) : Host.Outcome State Fault Refusal :=
  if s.me.priv then seqInstr c body s else .next (decodeTrap s .priv)

/-- A trap at decode, before the POP (R48). -/
def seqIllegal (s : State) : Host.Outcome State Fault Refusal := .next (decodeTrap s .illegal)

end Sys2Proof.Machine
end

