-- ==== Sys2Proof/Machine/EngCore.lean ====
section
/-! DEFINITION. What every engine instruction shares (R8, R17 to R27, R48, R49): starting an entry, the line in hand, the token pop and
push, the guard on the snapshot, squashed slots of a loop body, the walk through lines, stalling and aborting. -/
namespace Sys2Proof.Machine

/-- How the body of an engine instruction ends. -/
inductive EngRes where
  /-- Every effect is done. -/
  | done (s : State)
  /-- It is not ready; nothing of it is done but its POP (R17). -/
  | stall (s : State)
  /-- It waits on what the entry's budget leaves out (R71). -/
  | hold (s : State)
  /-- Its entry is aborted (R49). -/
  | abort (s : State) (c : Code) (r : FaultRec)

/-- The entry an engine is running for a shuttle; where there is none, the values a fresh entry captures from nothing. -/
def curOf (h : Shuttle) (e : Eng) : Cur := (engOf h e).cur.getD {}
/-- The running entry changed. -/
def modCur (h : Shuttle) (e : Eng) (f : Cur → Cur) : Shuttle := modEng h e (fun q => { q with cur := q.cur.map f })

/-- A k register: the value the entry captured (R19). -/
def kVal (h : Shuttle) (e : Eng) (k : BitVec 2) : Word :=
  let x := (curOf h e).entry
  if k = 0 then x.k0 else if k = 1 then x.k1 else if k = 2 then x.k2 else x.k3
/-- A k register or a space-7 immediate from 0 (R166). -/
def kOrImmVal (h : Shuttle) (e : Eng) (x : KOrImm) : Word :=
  match x with
  | .k r => kVal h e r
  | .imm i => i.signExtend 64

/-- p0 to p15 as the entry's snapshot (R19). -/
def snapP (h : Shuttle) (e : Eng) (p : BitVec 6) : Bool := if p = 0 then true else (curOf h e).entry.preds.getLsbD p.toNat

/-- The overflow table in force for an engine's entry (R135). -/
def ovfOf (h : Shuttle) (e : Eng) : OvfTable := (curOf h e).entry.ovf

/-! ### The walk (R18, R27) -/

/-- What an entry holds once the instruction or the padding line in hand is behind it; only instructions count towards the originals of a
withdrawn group (R267, R280). -/
def Cur.past (x : Cur) (issued : Bool) : Cur :=
  let n := if issued then x.withheld - 1 else x.withheld
  { x with popped := false, bodyDone := false, ctl := {}, stalled := false, holds := false, begun := false, behind := none, coopAt := none, coopMatched := false,
           coopLost := false,
           withheld := n, card := if n = 0 then none else x.card }

/-- Does the entry end with the instruction in hand (R18, R27)? -/
def Cur.ends (c : Cur) : Bool :=
  let l := c.hand.getD 0
  !decide (c.slot + 1 < Nat.min 5 (Link.slots l)) && (decide (c.left ≤ 1) || Link.last l) && match c.entry.loop with
    | some t => !decide (c.iter + 1 < t + c.stages - 1)
    | none => true

/-- The position of the next instruction: the next slot, or slot 0 of the next line, or the next pass of a loop body, or the end of the
entry. -/
def stepEng (issued : Bool) (h : Shuttle) (e : Eng) : Shuttle :=
  match (engOf h e).cur with
  | none => h
  | some c =>
    let l := c.hand.getD 0
    let next (x : Cur) : Cur := x.past issued
    if c.slot + 1 < Nat.min 5 (Link.slots l) then modCur h e (fun x => { next x with slot := x.slot + 1 })
    else if c.left ≤ 1 ∨ Link.last l then
      match c.entry.loop with
      | some t =>
        if c.iter + 1 < t + c.stages - 1 then
          modCur h e (fun x => { next x with line := x.entry.head, slot := 0, left := x.entry.lines, hand := none, iter := x.iter + 1 })
        else endEntry h e
      | none => endEntry h e
    else modCur h e (fun x => { next x with line := Link.next l, slot := 0, left := x.left - 1, hand := none })

/-- Past an instruction. -/
def advanceEng (h : Shuttle) (e : Eng) : Shuttle := stepEng true h e
/-- Past a padding line (R18). -/
def skipLine (h : Shuttle) (e : Eng) : Shuttle := stepEng false h e

/-- Is a slot of a loop body squashed in the step under way (R27)? -/
def squashed (c : Cur) (ctl : Ctl) : Bool :=
  match c.entry.loop with
  | none => false
  | some t => decide (c.iter < ctl.sched.toNat) || decide (t ≤ c.iter - ctl.sched.toNat)

/-- Cycles of an engine that its entry's budget counts (R71). -/
def spendEng (h : Shuttle) (e : Eng) (n : Nat) : Shuttle :=
  modCur (modEng h e (fun q => { q with clock := q.clock + n })) e (fun x => { x with spent := x.spent + n })

/-- The issue cycles of an engine instruction: one, and the stall count of an exposed line outside a loop body (R23). -/
def tickEng (h : Shuttle) (e : Eng) (c : Ctl) : Shuttle :=
  let x := curOf h e
  spendEng h e (1 + if x.inter ∨ x.entry.loop.isSome then 0 else c.sched.toNat)

/-- What VEC has due by its clock lands. -/
def landDue (h : Shuttle) (e : Eng) : Shuttle := if e = .vec then landVec h h.vec.clock else h

/-- A stalled instruction takes a cycle, which its entry's budget counts unless the wait is one that R71 leaves out. -/
def stallEng (s : State) (e : Eng) (c : Ctl) (counts : Bool) : State :=
  modMe s (fun h => landDue (modCur (modEng h e (fun q => { q with clock := q.clock + 1 })) e
    (fun x => { x with ctl := c, stalled := true, holds := !counts, spent := if counts then x.spent + 1 else x.spent })) e)

/-- An engine's clock moved on to a cycle: its entry's budget counts the time, unless the last wait of the instruction in hand is one that R71
leaves out. -/
def passTo (h : Shuttle) (e : Eng) (t : Nat) : Shuttle :=
  let n := t - (engOf h e).clock
  modCur (modEng h e (fun q => { q with clock := q.clock + n })) e (fun x => { x with spent := if x.holds then x.spent else x.spent + n })

/-- The engine code of a line (R39). -/
def engCode : Eng → Nat
  | .str => 1 | .vec => 2 | .mtx => 3

/-- The budget of an entry: its declared figure, times its steps for a loop (R71). -/
def budget (s : State) (c : Cur) (e : Eng) : Option Nat :=
  match safeRecord s s.me.tenant s.me.kern c.entry.head (engCode e) with
  | none => none
  | some d => some (match c.entry.loop with
      | some t => d * (t + c.stages - 1)
      | none => d)

/-- The cycles to the completion of the instruction in hand, its effects made: the last of a VEC entry completes with every result (R222). -/
def toCompletion (h : Shuttle) (e : Eng) : Nat :=
  if e = .vec ∧ (curOf h e).ends then Nat.max 1 (vecLands h - h.vec.clock) else 1

/-- Does the instruction in hand, its effects made in `s`, complete only past the budget that its entry has in the state before (R71)? -/
def overBudget (before s : State) (e : Eng) : Bool :=
  (budget before (curOf before.me e) e).any fun n => decide (n < (curOf s.me e).spent + toCompletion s.me e)

/-- The entry has come to its budget with the instruction in hand in progress: it is aborted with WATCHDOG, and that instruction, where its effects
are not made, has none (R49, R71; DESIGN CHOICE, log entry 111). -/
def overran (s : State) (e : Eng) : State :=
  let left := ((budget s (curOf s.me e) e).getD 0) - (curOf s.me e).spent
  abortEntry (modMe s (fun h => spendEng h e left)) e .watchdog

/-- Does an engine of the shuttle hold no entry, or an entry that waits on a token pop, on a full output FIFO, or behind such an entry
(R24)? -/
def engStuck (h : Shuttle) (e : Eng) : Bool :=
  let q := engOf h e
  match q.cur with
  | some c => decide (16 ≤ fifoCount h e) || (c.ctl.pop ≠ 0 && !c.popped && decide (tokCount h c.ctl.pop.toNat = 0))
  | none => q.queue.isEmpty

/-! ### The choice among shuttles (R17) -/

/-- The place of an engine in a tile's records of its issues. -/
def engIndex : Eng → Nat
  | .str => 0 | .vec => 1 | .mtx => 2

/-- The engine issued for the shuttle in focus, in the cycle of its clock (R17). -/
def servedEng (s : State) (e : Eng) : State :=
  modTile s (fun t => { t with served := t.served.setIfInBounds (engIndex e) s.me.place.slot,
                               free := t.free.setIfInBounds (engIndex e) ((engOf s.me e).clock + 1) })

/-- The PUSH of an instruction: a token now, or, where results of VEC have yet to land, once they have: an instruction completes with
every earlier one (R20, R222). -/
def pushEng (h : Shuttle) (e : Eng) (q : Nat) : Shuttle :=
  if q = 0 then h
  else if e = .vec ∧ (vecNext h).isSome then
    landVec { h with vdue := h.vdue ++ [(Nat.max h.vec.clock (vecLands h), .push q)] } h.vec.clock
  else setTok h q (tokCount h q + 1)

/-- The end of an engine instruction whose effects are made: its PUSH, which waits at a count of 15, and the step to the next (R20). It issued when
its effects were made (R17). -/
def endEng (s : State) (e : Eng) (c : Ctl) : State :=
  let q := c.push.toNat
  let s0 := if (curOf s.me e).bodyDone then s else servedEng s e
  let s1 := if q ≠ 0 ∧ 15 ≤ tokCount s.me q + pushesDue s.me q then
      modMe s0 (fun h => landDue (modCur (spendEng h e 1) e (fun x => { x with popped := true, bodyDone := true, stalled := true, holds := false, ctl := c })) e)
    else modMe s0 (fun h => advanceEng (tickEng (pushEng h e q) e c) e)
  tickTo s1 (engOf s1.me e).clock

/-- The end of an engine instruction within the entry's budget; past it, the abort from the state before (R71). -/
def finishEng (before s : State) (e : Eng) (c : Ctl) : State := if overBudget before s e then overran before e else endEng s e c

/-- The POP of an engine instruction has yet to wait for its token (R20). -/
def popBlockedEng (h : Shuttle) (e : Eng) (c : Ctl) : Bool :=
  c.pop ≠ 0 && !(curOf h e).popped && decide (tokCount h c.pop.toNat = 0)

/-- The POP, done once. -/
def doPopEng (h : Shuttle) (e : Eng) (c : Ctl) : Shuttle :=
  if c.pop = 0 ∨ (curOf h e).popped then h
  else popEffect (modCur (setTok h c.pop.toNat (tokCount h c.pop.toNat - 1)) e (fun x => { x with popped := true })) c.pop.toNat

/-- An engine instruction (R20, R21, R27, R49): squashed, waiting, or run by its body. -/
def engRun (e : Eng) (c : Ctl) (squash : State → State) (body : State → EngRes) (s : State) : State :=
  let cur := curOf s.me e
  if squashed cur c then
    if overBudget s s e then overran s e else modMe (servedEng (squash s) e) (fun h => advanceEng (tickEng h e c) e)
  else if cur.bodyDone then finishEng s s e c
  else if popBlockedEng s.me e c then stallEng s e c false
  else
    let s0 := modMe s (fun h => doPopEng h e c)
    match body s0 with
    | .done t => finishEng s0 t e c
    | .stall t => stallEng t e c true
    | .hold t => stallEng t e c false
    | .abort t code r => abortWith (modMe t (fun h => unpop h c.pop.toNat)) e code r

/-- An instruction of STR or MTX: its guard is uniform (R44). Limits that depend on the state are its body's, tested once the POP is done and
under a true guard (DEDUCED, log entry 86). -/
def uniformInstr (e : Eng) (c : Ctl) (body : State → EngRes) (s : State) : Host.Outcome State Fault Refusal :=
  .next (engRun e c id (fun t => if guardWith (snapP t.me e) c then body t else .done t) s)

/-- An instruction refused at decode: its entry is aborted before the POP (R48, R49). -/
def engIllegal (e : Eng) (c : Code) (s : State) : Host.Outcome State Fault Refusal := .next (abortEntry s e c)

/-- An element appended to an engine's output FIFO (R22). -/
def appendFifo (s : State) (e : Eng) (v : Word) : State :=
  modMe s (fun h => modEng h e (fun q => { q with fifo := q.fifo ++ [v] }))

/-! ### Starting entries (R8, R18, R24, R87) -/

/-- The lines of a loop body, for its stage count (R27). -/
def bodyLines (s : State) (h : Shuttle) : Nat → Nat → List (BitVec 512)
  | 0, _ => []
  | k + 1, n =>
    match peekLine s h n with
    | none => []
    | some l => l :: (if Link.last l then [] else bodyLines s h k (Link.next l))

/-- S: one more than the largest SCHED of the body (R27). -/
def stageCount (s : State) (h : Shuttle) (x : Entry) : Nat :=
  1 + (bodyLines s h x.lines x.head).foldl (fun m l =>
    (List.range (Nat.min 5 (Link.slots l))).foldl (fun k i => Nat.max k (unpack (slotWord l i)).sched.toNat) m) 0

/-- Has every entry pushed before an entry completed (R24)? -/
def beforeDone (h : Shuttle) (x : Entry) : Bool :=
  decide (x.before.1 ≤ h.str.done ∧ x.before.2.1 ≤ h.vec.done ∧ x.before.2.2 ≤ h.mtx.done)

/-- The next entry of an engine's queue starts, unless the engine is busy, `sysret` is awaited, or a MODE crossing waits (R8, R24, R49). -/
def startEntry (s : State) (e : Eng) : State :=
  let q := engOf s.me e
  match q.cur, q.queue with
  | none, x :: rest =>
    if s.me.held then s
    else
      if s.me.kern.lines ≤ x.head then
        abortEntry (modMe s (fun h => modEng h e (fun q => { q with queue := rest, cur := some { entry := x, line := x.head } }))) e .illegal
      else match fetchLine s x.head with
      | (s1, .error t) =>
        let s2 := modMe s1 (fun h => modEng h e (fun q => { q with queue := rest, cur := some { entry := x, line := x.head } }))
        abortWith s2 e t.code { va := t.va, aux := t.aux }
      | (s1, .ok l) =>
        let inter := Link.inter l
        if q.lastInter = some (!inter) ∧ !beforeDone s1.me x then s1
        else
          let c : Cur := { entry := x, line := x.head, left := x.lines, hand := some l, inter := inter,
                           stages := if x.loop.isSome then stageCount s1 s1.me x else 1, deck := (ctxOf s1 s1.me.tenant).deck }
          let s2 := modMe s1 (fun h => modEng h e (fun q => { q with queue := rest, cur := some c, clock := Nat.max q.clock h.clock }))
          if (safeRecord s2 s2.me.tenant s2.me.kern x.head (engCode e)).isNone then abortEntry s2 e .illegal
          else if x.loop = some 0 ∧ c.stages = 1 then modMe s2 (fun h => endEntry h e)
          else s2
  | _, _ => s

end Sys2Proof.Machine
end

