-- ==== Sys2Proof/Machine/SeqAlu.lean ====
section
/-! DEFINITION. Integer arithmetic, compares, predicate logic and branch targets of the sequencer (R97 to R103). -/
namespace Sys2Proof.Machine

/-- A binary instruction: g[A] gets a function of the values of B and C (R97), landing after its latency (R141). -/
def seqBinary (c : Ctl) (a b : BitVec 5) (x : GSrc) (f : Word → Word → Word) (lat occ : Nat) (s : State) :
    Host.Outcome State Fault Refusal :=
  seqInstr c (fun t => .done (setResult t (.g a) (f (getG t.me b) (srcVal t.me x)) lat) occ) s

/-- A unary instruction: g[A] gets a function of the value of B (R99). -/
def seqUnary (c : Ctl) (a b : BitVec 5) (f : Word → Word) (s : State) : Host.Outcome State Fault Refusal :=
  seqInstr c (fun t => .done (setResult t (.g a) (f (getG t.me b)) 1) 1) s

/-- The shift count c[5:0] (R97). -/
def shiftOf (x : Word) : Nat := x.toNat % 64

/-- The high half of the signed product (R97). -/
def mulHigh (b c : Word) : Word := wordOfInt (b.toInt * c.toInt / (2 ^ 64 : Nat))
/-- Signed division towards zero (R98). -/
def divSigned (b c : Word) : Word := if c = 0 then BitVec.allOnes 64 else wordOfInt (b.toInt.tdiv c.toInt)
/-- Signed remainder with the sign of the dividend (R98). -/
def remSigned (b c : Word) : Word := if c = 0 then b else wordOfInt (b.toInt.tmod c.toInt)
/-- Unsigned division (R98). -/
def divUnsigned (b c : Word) : Word := if c = 0 then BitVec.allOnes 64 else BitVec.ofNat 64 (b.toNat / c.toNat)
/-- Unsigned remainder (R98). -/
def remUnsigned (b c : Word) : Word := if c = 0 then b else BitVec.ofNat 64 (b.toNat % c.toNat)

/-- Leading zeros, 64 for 0 (R99). -/
def leadingZeros (b : Word) : Word := if b = 0 then 64 else BitVec.ofNat 64 (63 - Nat.log2 b.toNat)
/-- Set bits (R99). -/
def setBits (b : Word) : Word := BitVec.ofNat 64 ((List.range 64).countP fun i => b.getLsbD i)
/-- b[n−1:0] zero-extended (R99). -/
def extZero (n : Nat) (b : Word) : Word := BitVec.ofNat 64 (b.toNat % 2 ^ n)
/-- b[n−1:0] sign-extended from bit n − 1 (R99). -/
def extSign (n : Nat) (b : Word) : Word := wordOfInt (signedOf n b.toNat)

/-- `add` (R97). -/
def execAdd (c : Ctl) (a b : BitVec 5) (x : GSrc) (s : State) := seqBinary c a b x (fun b c => b + c) 1 1 s
/-- `sub` (R97). -/
def execSub (c : Ctl) (a b : BitVec 5) (x : GSrc) (s : State) := seqBinary c a b x (fun b c => b - c) 1 1 s
/-- `mul` (R97). -/
def execMul (c : Ctl) (a b : BitVec 5) (x : GSrc) (s : State) := seqBinary c a b x (fun b c => b * c) 3 1 s
/-- `mulh` (R97). -/
def execMulh (c : Ctl) (a b : BitVec 5) (x : GSrc) (s : State) := seqBinary c a b x mulHigh 4 1 s
/-- `div` (R98). -/
def execDiv (c : Ctl) (a b : BitVec 5) (x : GSrc) (s : State) := seqBinary c a b x divSigned 36 36 s
/-- `divu` (R98). -/
def execDivu (c : Ctl) (a b : BitVec 5) (x : GSrc) (s : State) := seqBinary c a b x divUnsigned 36 36 s
/-- `rem` (R98). -/
def execRem (c : Ctl) (a b : BitVec 5) (x : GSrc) (s : State) := seqBinary c a b x remSigned 36 36 s
/-- `remu` (R98). -/
def execRemu (c : Ctl) (a b : BitVec 5) (x : GSrc) (s : State) := seqBinary c a b x remUnsigned 36 36 s
/-- `and` (R97). -/
def execAnd (c : Ctl) (a b : BitVec 5) (x : GSrc) (s : State) := seqBinary c a b x (fun b c => b &&& c) 1 1 s
/-- `or` (R97). -/
def execOr (c : Ctl) (a b : BitVec 5) (x : GSrc) (s : State) := seqBinary c a b x (fun b c => b ||| c) 1 1 s
/-- `xor` (R97). -/
def execXor (c : Ctl) (a b : BitVec 5) (x : GSrc) (s : State) := seqBinary c a b x (fun b c => b ^^^ c) 1 1 s
/-- `andn`: b and not c (R97). -/
def execAndn (c : Ctl) (a b : BitVec 5) (x : GSrc) (s : State) := seqBinary c a b x (fun b c => b &&& ~~~c) 1 1 s
/-- `shl` (R97). -/
def execShl (c : Ctl) (a b : BitVec 5) (x : GSrc) (s : State) := seqBinary c a b x (fun b c => b <<< shiftOf c) 1 1 s
/-- `shr` (R97). -/
def execShr (c : Ctl) (a b : BitVec 5) (x : GSrc) (s : State) := seqBinary c a b x (fun b c => b >>> shiftOf c) 1 1 s
/-- `sra` (R97). -/
def execSra (c : Ctl) (a b : BitVec 5) (x : GSrc) (s : State) := seqBinary c a b x (fun b c => b.sshiftRight (shiftOf c)) 1 1 s
/-- `rotl` (R97). -/
def execRotl (c : Ctl) (a b : BitVec 5) (x : GSrc) (s : State) := seqBinary c a b x (fun b c => b.rotateLeft (shiftOf c)) 1 1 s
/-- `min`: signed minimum (R97). -/
def execMin (c : Ctl) (a b : BitVec 5) (x : GSrc) (s : State) :=
  seqBinary c a b x (fun b c => if b.toInt ≤ c.toInt then b else c) 1 1 s
/-- `max`: signed maximum (R97). -/
def execMax (c : Ctl) (a b : BitVec 5) (x : GSrc) (s : State) :=
  seqBinary c a b x (fun b c => if b.toInt ≤ c.toInt then c else b) 1 1 s
/-- `minu`: unsigned minimum (R97). -/
def execMinu (c : Ctl) (a b : BitVec 5) (x : GSrc) (s : State) :=
  seqBinary c a b x (fun b c => if b.toNat ≤ c.toNat then b else c) 1 1 s
/-- `maxu`: unsigned maximum (R97). -/
def execMaxu (c : Ctl) (a b : BitVec 5) (x : GSrc) (s : State) :=
  seqBinary c a b x (fun b c => if b.toNat ≤ c.toNat then c else b) 1 1 s
/-- `clz` (R99). -/
def execClz (c : Ctl) (a b : BitVec 5) (s : State) := seqUnary c a b leadingZeros s
/-- `popc` (R99). -/
def execPopc (c : Ctl) (a b : BitVec 5) (s : State) := seqUnary c a b setBits s
/-- `ext.z` (R99). -/
def execExtZ (c : Ctl) (a b : BitVec 5) (n : BitVec 7) (s : State) := seqUnary c a b (extZero n.toNat) s
/-- `ext.s` (R99). -/
def execExtS (c : Ctl) (a b : BitVec 5) (n : BitVec 7) (s : State) := seqUnary c a b (extSign n.toNat) s

/-- The immediate of `ldi`: sign-extended at 20 and 30 bits, zero-extended at 40 (R100). -/
def ldiVal (i : LdiImm) : Word :=
  match i with
  | .imm20 i => i.signExtend 64
  | .imm30 i => i.signExtend 64
  | .imm40 i => i.setWidth 64

/-- `ldi` (R100). -/
def execLdi (c : Ctl) (a : BitVec 5) (i : LdiImm) (s : State) : Host.Outcome State Fault Refusal :=
  seqInstr c (fun t => .done (setResult t (.g a) (ldiVal i) 1) 1) s

/-- `mov` from a g or a b register (R100). -/
def execMov (c : Ctl) (a : BitVec 5) (x : GOrB) (s : State) : Host.Outcome State Fault Refusal :=
  seqInstr c (fun t => .done (setResult t (.g a) (match x with
    | .g r => getG t.me r
    | .b r => (getB t.me r).addr) 1) 1) s

/-- The test of a compare (R101). -/
def seqTest (cc : SeqCc) (b x : Word) : Bool :=
  match cc with
  | .eq => b == x
  | .ne => b != x
  | .lt => decide (b.toInt < x.toInt)
  | .ge => decide (x.toInt ≤ b.toInt)
  | .le => decide (b.toInt ≤ x.toInt)
  | .gt => decide (x.toInt < b.toInt)
  | .ltu => decide (b.toNat < x.toNat)
  | .geu => decide (x.toNat ≤ b.toNat)
  | .leu => decide (b.toNat ≤ x.toNat)
  | .gtu => decide (x.toNat < b.toNat)

/-- A predicate's value as a word of one bit. -/
def bitWord (b : Bool) : Word := if b then 1 else 0

/-- A predicate result of latency 1 (R89, R141). -/
def setPred (s : State) (p : BitVec 6) (b : Bool) : State := setResult s (.p p) (bitWord b) 1

/-- `cmp` (R101). -/
def execCmp (c : Ctl) (cc : SeqCc) (p : BitVec 6) (b : BitVec 5) (x : GSrc) (s : State) : Host.Outcome State Fault Refusal :=
  seqInstr c (fun t => .done (setPred t p (seqTest cc (getG t.me b) (srcVal t.me x))) 1) s

/-- A binary predicate instruction (R102). -/
def seqPred (c : Ctl) (a b p : BitVec 6) (f : Bool → Bool → Bool) (s : State) : Host.Outcome State Fault Refusal :=
  seqInstr c (fun t => .done (setPred t a (f (getP t.me b) (getP t.me p))) 1) s

/-- `pand` (R102). -/
def execPand (c : Ctl) (a b p : BitVec 6) (s : State) := seqPred c a b p (fun x y => x && y) s
/-- `por` (R102). -/
def execPor (c : Ctl) (a b p : BitVec 6) (s : State) := seqPred c a b p (fun x y => x || y) s
/-- `pxor` (R102). -/
def execPxor (c : Ctl) (a b p : BitVec 6) (s : State) := seqPred c a b p (fun x y => x != y) s
/-- `pnot` (R102). -/
def execPnot (c : Ctl) (a b : BitVec 6) (s : State) := seqPred c a b b (fun x _ => !x) s
/-- `pmov` (R102). -/
def execPmov (c : Ctl) (a b : BitVec 6) (s : State) := seqPred c a b b (fun x _ => x) s

/-- `ptg` with a label: a code address written by the linker (R103). -/
def execPtgLabel (c : Ctl) (b : BitVec 2) (addr : BitVec 30) (s : State) : Host.Outcome State Fault Refusal :=
  seqInstr c (fun t => .done (modMe t (fun h => setB h b { addr := addr.signExtend 64, fromG := false })) 1) s
/-- `ptg` from a g register, with the flag that says so (R103). -/
def execPtgReg (c : Ctl) (b : BitVec 2) (g : BitVec 5) (s : State) : Host.Outcome State Fault Refusal :=
  seqInstr c (fun t => .done (modMe t (fun h => setB h b { addr := getG h g, fromG := true })) 1) s

end Sys2Proof.Machine
end

