-- ==== Sys2Proof/Machine/SeqMem.lean ====
section
/-! DEFINITION. Loads, stores, atomics, fences and barriers of the sequencer (R110 to R123), and what a paired shuttle shares (R405). -/
namespace Sys2Proof.Machine

/-! ### Addresses (R110) -/

/-- The effective address of `ld` and `st`, modulo 2^64 (R110). -/
def effAddr (h : Shuttle) (w : Width) (x : Addr) : Nat :=
  match x with
  | .imm7 b i => (getG h b + i.signExtend 64).toNat
  | .idx b g => (getG h b + BitVec.ofNat 64 ((getG h g).toNat * w.bytes)).toNat
  | .imm20 b i => (getG h b + i.signExtend 64).toNat

/-- The checks that precede translation: ea[63:56], then alignment (R110). -/
def addrTrouble (ea n : Nat) : Option Trouble :=
  if 2 ^ 56 ≤ ea then some { code := .xlate, va := ea }
  else if ea % n ≠ 0 then some { code := .bounds, va := ea }
  else none

/-- The access checked and made, or the trouble of its address. -/
def checked' (ea n : Nat) (s : State) (k : State → SeqRes) : SeqRes :=
  match addrTrouble ea n with
  | some x => .fault s x
  | none => k s

/-- `ld` (R111): with HINT 4 it only prefetches. -/
def execLd (c : Ctl) (w : Width) (a : BitVec 5) (addr : Addr) (s : State) : Host.Outcome State Fault Refusal :=
  seqInstr c (fun t =>
    let ea := effAddr t.me w addr
    if c.hint = 4 then
      (if (addrTrouble ea w.bytes).isSome then .done t 1 else .done (seqLoad t ea w.bytes c.cls.toNat 0).1 1)
    else checked' ea w.bytes t fun t =>
      match seqLoad t ea w.bytes c.cls.toNat c.hint.toNat with
      | (t1, none) => .wait t1 .retry
      | (t1, some (.error x)) => .fault t1 x
      | (t1, some (.ok v)) => .done (setVariable t1 (.g a) (BitVec.ofNat 64 v)) 1) s

/-- The end of a store whose access has issued: with a PUSH, its every effect is to be complete first, so that it performs and is acknowledged
before the token (R20, R112). -/
def storeEnd (c : Ctl) (s : State) : SeqRes :=
  if c.push = 0 then .done s 1
  else
    let s1 := match s.me.stores.getLast? with
      | some x => drainFor s (ordered x)
      | none => s
    if unacknowledged s1 then .owed s1 1 else .done s1 1

/-- `st` (R112). -/
def execSt (c : Ctl) (w : Width) (a : BitVec 5) (addr : Addr) (s : State) : Host.Outcome State Fault Refusal :=
  seqInstr c (fun t =>
    let ea := effAddr t.me w addr
    checked' ea w.bytes t fun t =>
      match seqStore t ea w.bytes ((getG t.me a).toNat % 2 ^ (8 * w.bytes)) c.cls.toNat c.hint.toNat with
      | (t1, none) => .wait t1 .retry
      | (t1, some (.error x)) => .fault t1 x
      | (t1, some (.ok _)) => storeEnd c t1) s

/-! ### Paired shuttles (R405) -/

/-- Is the shuttle in focus on side 1 of a paired gang? -/
def onSide1 (s : State) : Bool :=
  match gangOf s s.me.team with
  | some g => decide (s.me.place ∈ g.places1)
  | none => false
/-- The place of the other side's shuttle of the same ordinal. -/
def partner (s : State) : Option Place :=
  match gangOf s s.me.team with
  | some g => if s.me.place ∈ g.places1 then g.places[s.me.ordinal]? else g.places1[s.me.ordinal]?
  | none => none

/-- A value that side 0 obtains, or the fault that it meets, and that both sides receive (R405): logged values are replayed after a failed compare (R406), side 1 waits for
side 0's. `log` keeps the value for a replay; `here` is what a side that does not perform the operation still does on its own tile. -/
def pairedValue (s : State) (log : Bool) (here : State → State) (act : State → State × Option (Except Trouble Nat)) :
    State × Option (Except Trouble Nat) :=
  if !s.me.paired then act s
  else
    let keep (t : State) (v : Word) : State := if log then modMe t (fun h => { h with atomLog := h.atomLog ++ [v] }) else t
    match (if log then s.me.replay else []) with
    | v :: rest => (keep (here (modMe s (fun h => { h with replay := rest }))) v, some (.ok v.toNat))
    | [] =>
      if onSide1 s then
        match s.me.shared with
        | (v, none) :: rest => (keep (here (modMe s (fun h => { h with shared := rest }))) v, some (.ok v.toNat))
        | (_, some x) :: rest =>
          (modMe s (fun h => { h with shared := rest }), some (.error { code := x.code, va := x.va, aux := x.aux, write := x.write }))
        | [] => (s, none)
      else
        let give (t : State) (x : Word × Option Held) : State := match partner t with
          | some p => modShuttle t p (fun h => { h with shared := h.shared ++ [x] })
          | none => t
        match act s with
        | (t, some (.ok v)) => (keep (give t (BitVec.ofNat 64 v, none)) (BitVec.ofNat 64 v), some (.ok v))
        | (t, some (.error x)) =>
          (give t (0, some { code := x.code, va := x.va, aux := x.aux, write := x.write }), some (.error x))
        | r => r

/-! ### Atomics (R114 to R117) -/

/-- Does an address lie in the scratchpad ranges (R286, R289)? -/
def inScratchVa (va : Nat) : Bool := decide (Config.teamWindow ≤ va ∧ va < 2 ^ 56)

/-- The checks of an atomic's address and scope that precede translation (R110, R114). -/
def atomicTrouble (ea n : Nat) (scope : BitVec 7) : Option Trouble :=
  match addrTrouble ea n with
  | some x => some x
  | none => if scope = 1 ∧ !inScratchVa ea then some { code := .bounds, va := ea } else none

/-- Well formed, ready, SEQ one greater, LS and LM as before, the copy bit of RES set: the repair transition of R326. -/
def repairOk (old new : Word) : Bool :=
  Tier.wf new && decide (Tier.state old = 3) && decide (Tier.state new = 0) && decide (Tier.seq new = (Tier.seq old + 1) % 2 ^ 32)
    && decide (Tier.lost new 0 = Tier.lost old 0 ∧ Tier.lost new 1 = Tier.lost old 1) && Tier.copy new (Tier.res new)

/-- The issuing tile's copy of an atomic's line invalidated, where the other side performs the atomic (R291, R405). -/
def dropOwnLine (q : Asker) (va n : Nat) (s : State) : State :=
  match resolve s q .atomic va n with
  | (t, .ok (.dev pa, _)) => modTile t (fun x => l1Drop x pa n)
  | (t, _) => t

/-- An atomic of `n` bytes at its home (R114, R299): ordered behind the shuttle's earlier stores of its class, the issuing tile's copy of
its line invalidated; `f` gives the new value of the old one, if it writes. Answers the old value. -/
def atomicAt (s : State) (q : Asker) (va n cls : Nat) (f : Nat → Option Nat) : State × Option (Except Trouble Nat) :=
  match resolve s q .atomic va n with
  | (s1, .error x) => (s1, some (.error x))
  | (s1, .ok (l, pol)) =>
    let (s2, there) := match l with
      | .dev _ => if q.repair then (s1, true) else residentFor s1 s1.me.tenant va n
      | _ => (s1, true)
    if !there then (s2, none)
    else
      let probe : PStore := { loc := l, bytes := List.replicate n 0, cls := cls, va := va }
      let s3 := drainFor s2 (ordered probe)
      let s4 := match l with
        | .dev pa => modTile s3 (fun x => l1Drop x pa n)
        | _ => s3
      let (s5, bs, bad) := readAt s4 { q with home := true } l pol n
      if bad then (s5, if touchesLost s5 s5.me.tenant va n then none else some (.error (poisonAt va l)))
      else
        let old := natOfBytes bs
        match f old with
        | some v => (writeAt s5 q l pol (bytesOf n v) false, some (.ok old))
        | none => (s5, some (.ok old))

/-- A cell of memory as an atomic reads and writes it: `none` from the operation leaves the word (R114). HINT 4 is as HINT 0 here, as on barriers
and copies (DESIGN CHOICE, log entry 114). -/
def seqAtomic (c : Ctl) (n : Nat) (b : BitVec 5) (scope : BitVec 7) (repair : State → Nat → Bool) (f : State → Nat → Option Nat)
    (ret : State → Nat → State) (s : State) : SeqRes :=
  let ea := (getG s.me b).toNat
  match atomicTrouble ea n scope with
  | some x => .fault s x
  | none =>
    match pairedValue s true (dropOwnLine (meAsker s c.hint.toNat) ea n) (fun t =>
        atomicAt t { meAsker t c.hint.toNat with repair := repair t ea } ea n c.cls.toNat (f t)) with
    | (t, none) => .wait t .retry
    | (t, some (.error x)) => .fault t x
    | (t, some (.ok old)) => .done (ret t old) 1

/-- The low bytes of a word at a width. -/
def lowBits (n : Nat) (w : Word) : Nat := w.toNat % 2 ^ (8 * n)

/-- Does a `cas.64` of a privileged shuttle make the repair transition of the word it finds (R326)? -/
def casRepairs (s : State) (va : Nat) (w : Width) (exp new : Word) : Bool :=
  s.me.priv && decide (w = .w64) &&
    match homeNat s s.me.tenant va 8 with
    | some old => decide (BitVec.ofNat 64 old = exp) && repairOk exp new
    | none => false

/-- `cas` (R115). -/
def execCas (c : Ctl) (w : Width) (a b x y : BitVec 5) (scope : BitVec 7) (s : State) : Host.Outcome State Fault Refusal :=
  seqInstr c (seqAtomic c w.bytes b scope
    (fun t ea => casRepairs t ea w (getG t.me x) (getG t.me y))
    (fun t old => if old = lowBits w.bytes (getG t.me x) then some (lowBits w.bytes (getG t.me y)) else none)
    (fun t old => setVariable t (.g a) (BitVec.ofNat 64 old))) s

/-- An `amo` (R116): the operation on values of n bytes. -/
def seqAmoOp (c : Ctl) (w : Width) (a b x : BitVec 5) (scope : BitVec 7) (f : Nat → Nat → Nat → Nat) (s : State) :
    Host.Outcome State Fault Refusal :=
  seqInstr c (seqAtomic c w.bytes b scope (fun _ _ => false)
    (fun t old => some (f (8 * w.bytes) old (lowBits w.bytes (getG t.me x)) % 2 ^ (8 * w.bytes)))
    (fun t old => setVariable t (.g a) (BitVec.ofNat 64 old))) s

/-- `amo.add` (R116). -/
def execAmoAdd (c : Ctl) (w : Width) (a b x : BitVec 5) (e : BitVec 7) (s : State) := seqAmoOp c w a b x e (fun _ o v => o + v) s
/-- `amo.and` (R116). -/
def execAmoAnd (c : Ctl) (w : Width) (a b x : BitVec 5) (e : BitVec 7) (s : State) := seqAmoOp c w a b x e (fun _ o v => o &&& v) s
/-- `amo.or` (R116). -/
def execAmoOr (c : Ctl) (w : Width) (a b x : BitVec 5) (e : BitVec 7) (s : State) := seqAmoOp c w a b x e (fun _ o v => o ||| v) s
/-- `amo.xor` (R116). -/
def execAmoXor (c : Ctl) (w : Width) (a b x : BitVec 5) (e : BitVec 7) (s : State) := seqAmoOp c w a b x e (fun _ o v => o ^^^ v) s
/-- `amo.min`: signed (R116). -/
def execAmoMin (c : Ctl) (w : Width) (a b x : BitVec 5) (e : BitVec 7) (s : State) :=
  seqAmoOp c w a b x e (fun n o v => if signedOf n o ≤ signedOf n v then o else v) s
/-- `amo.max`: signed (R116). -/
def execAmoMax (c : Ctl) (w : Width) (a b x : BitVec 5) (e : BitVec 7) (s : State) :=
  seqAmoOp c w a b x e (fun n o v => if signedOf n o ≤ signedOf n v then v else o) s
/-- `amo.minu`: unsigned (R116). -/
def execAmoMinu (c : Ctl) (w : Width) (a b x : BitVec 5) (e : BitVec 7) (s : State) := seqAmoOp c w a b x e (fun _ o v => Nat.min o v) s
/-- `amo.maxu`: unsigned (R116). -/
def execAmoMaxu (c : Ctl) (w : Width) (a b x : BitVec 5) (e : BitVec 7) (s : State) := seqAmoOp c w a b x e (fun _ o v => Nat.max o v) s
/-- `amo.swap` (R116). -/
def execAmoSwap (c : Ctl) (w : Width) (a b x : BitVec 5) (e : BitVec 7) (s : State) := seqAmoOp c w a b x e (fun _ _ v => v) s

/-- `amo.fadd.f32` (R117): ILLEGAL in a shuttle of a CLIMB or PAIRED launch. -/
def execAmoFaddF32 (c : Ctl) (a b x : BitVec 5) (scope : BitVec 7) (s : State) : Host.Outcome State Fault Refusal :=
  if s.me.climb ∨ s.me.paired then seqIllegal s
  else seqInstr c (seqAtomic c 4 b scope (fun _ _ => false)
    (fun t old => some (fadd old (lowBits 4 (getG t.me x))).1)
    (fun t old => raise (setVariable t (.g a) (BitVec.ofNat 64 old)) (fadd old (lowBits 4 (getG t.me x))).2)) s

/-! ### Fences (R118, R119) -/

/-- Blocks of an output stream in classes of a mask, handed to it by entries whose completion the shuttle has observed, that are not yet written
(R119). -/
def blocksPending (h : Shuttle) (mask : Nat) : Bool :=
  h.s.any fun x => x.any fun st => st.desc.out && st.failed.isNone && inMask mask st.desc.cls && decide (st.spos < st.seen)

/-- Does a release over a class mask still wait: for stores and flags to peers that are not acknowledged, for copies and output blocks that the
shuttle has observed in those classes (R112, R119, R163, R353)? -/
def releasePending (s : State) (mask : Nat) : Bool :=
  unacknowledged s || (s.me.copies.any fun c => c.seen && inMask mask c.cls) || blocksPending s.me mask

/-- Do copies that the shuttle has observed in classes of a mask still have reads to make, which an acquire waits for (R119)? -/
def readsPending (h : Shuttle) (mask : Nat) : Bool := h.copies.any fun c => c.seen && inMask mask c.cls

/-- The release of a `fence`: at its scope; one of order sc performs for every agent, as all such fences lie in one order (R119, R294; log
entry 90). -/
def fenceRelease (s : State) (order scope : BitVec 7) (mask : Nat) : State :=
  if order = 0 then s else releaseAt s mask (if order = 3 then 6 else scope.toNat)

/-- `fence` (R118, R119, R294). -/
def execFence (c : Ctl) (order scope : BitVec 7) (mask : BitVec 20) (s : State) : Host.Outcome State Fault Refusal :=
  seqInstr c (fun t =>
    let m := mask.toNat % 65536
    if m = 0 then .done t 1
    else
      let t1 := fenceRelease t order scope m
      if (order ≠ 0 ∧ releasePending t1 m) ∨ (order = 0 ∧ readsPending t1.me m) then .wait t1 .retry
      else .done (if order = 1 then t1 else acquire t1 m) 1) s

/-! ### Barriers (R120 to R123) -/

/-- Expected count E of a barrier word. -/
def barE (w : Nat) : Nat := bitsOf w 15 0
/-- Arrivals A of the current phase. -/
def barA (w : Nat) : Nat := bitsOf w 31 16
/-- Early arrivals N. -/
def barN (w : Nat) : Nat := bitsOf w 47 32
/-- Phase bit P. -/
def barP (w : Nat) : Nat := bitsOf w 48 48
/-- A barrier word of its fields. -/
def barWord (e a n p : Nat) : Nat := e % 65536 + a % 65536 * 2 ^ 16 + n % 65536 * 2 ^ 32 + p % 2 * 2 ^ 48

/-- `bar.arrive` on the word: the new word, or none for BAROVER (R121). -/
def barArriveWord (w q : Nat) : Option Nat :=
  if q = barP w then
    let a := (barA w + 1) % 65536
    some (if a = barE w then barWord (barE w) (barN w) 0 (1 - barP w) else barWord (barE w) a (barN w) (barP w))
  else if barN w + 1 = barE w then none
  else some (barWord (barE w) (barA w) (barN w + 1) (barP w))

/-- `bar.init` (R120): a count of 0 or above 16 bits faults BOUNDS before anything else. -/
def execBarInit (c : Ctl) (a : BitVec 5) (x : GOrImm) (scope : BitVec 7) (s : State) : Host.Outcome State Fault Refusal :=
  seqInstr c (fun t =>
    let v := (gOrImmVal t.me x).toNat
    if v = 0 ∨ 65536 ≤ v then .fault t { code := .bounds, va := (getG t.me a).toNat }
    else seqAtomic c 8 a scope (fun _ _ => false) (fun _ _ => some (barWord v 0 0 0)) (fun u _ => u) t) s

/-- `bar.arrive` (R121): a release over every class at its scope, then the arrival at the word's home. -/
def execBarArrive (c : Ctl) (a b x : BitVec 5) (scope : BitVec 7) (s : State) : Host.Outcome State Fault Refusal :=
  seqInstr c (fun t =>
    let q := (getG t.me x).toNat % 2
    let t1 := releaseAt t 65535 scope.toNat
    if releasePending t1 65535 then .wait t1 .retry
    else
      let ea := (getG t1.me b).toNat
      match atomicTrouble ea 8 scope with
      | some y => .fault t1 y
      | none =>
        match pairedValue t1 true (dropOwnLine (meAsker t1 c.hint.toNat) ea 8) (fun u =>
            atomicAt u (meAsker u c.hint.toNat) ea 8 c.cls.toNat (fun w => barArriveWord w q)) with
        | (u, none) => .wait u .retry
        | (u, some (.error y)) => .fault u y
        | (u, some (.ok old)) =>
          match barArriveWord old q with
          | none => .fault u { code := .barover, va := ea }
          | some new => .done (setVariable u (.g a) (BitVec.ofNat 64 (barP new))) 1) s

/-- One reading of a barrier word by `bar.wait`, with the waiting instruction's HINT: true where P differs from the local phase (R43, R122). Its
acquire waits for the reads of the copies that the shuttle has observed (R119). -/
def barTry (s : State) (a : BitVec 5) (va : Nat) : State × Option (Except Trouble Bool) :=
  let q := (getG s.me a).toNat % 2
  if readsPending s.me 65535 then (s, none)
  else match pairedValue s true (dropOwnLine (meAsker s s.me.ctl.hint.toNat) va 8) (fun t =>
    match atomicAt t (meAsker t t.me.ctl.hint.toNat) va 8 t.me.ctl.cls.toNat (fun _ => none) with
    | (u, some (.ok w)) => if barP w = q then (u, none) else (u, some (.ok w))
    | r => r) with
  | (t, none) => (t, none)
  | (t, some (.error x)) => (t, some (.error x))
  | (t, some (.ok w)) => (t, some (.ok (barP w ≠ q)))

/-- A wait of a paired shuttle makes its compare when it completes (R406). Such a wait always stalls, so that the two sides compare at the same
points, whichever of them finds its condition met first (DESIGN CHOICE, log entry 126). -/
def dueCompare (s : State) : State := modMe s (fun h => if h.paired then { h with compareDue := true } else h)

/-- The end of `bar.wait`: an acquire over every class, then gA ← gA xor 1 (R122). -/
def barDone (s : State) (a : BitVec 5) : State :=
  modMe (acquireAll s) (fun h => setG h a (getG h a ^^^ 1))

/-- `bar.wait` (R122). -/
def execBarWait (c : Ctl) (a b : BitVec 5) (scope : BitVec 7) (s : State) : Host.Outcome State Fault Refusal :=
  seqInstr c (fun t0 =>
    let t := modMe t0 (fun h => { h with ctl := c })
    let ea := (getG t.me b).toNat
    match atomicTrouble ea 8 scope with
    | some x => .fault t x
    | none =>
      if t.me.paired then .wait t (.bar a ea)
      else match barTry t a ea with
      | (u, none) => .wait u (.bar a ea)
      | (u, some (.error x)) => .fault u x
      | (u, some (.ok _)) => .done (barDone u a) 1) s

end Sys2Proof.Machine
end

