-- ==== Sys2Proof/Machine/SeqFeed.lean ====
section
/-! DEFINITION. Copy tags, the command queues and output FIFOs, tokens, and the waits of the sequencer with the happenings that end
them (R18, R20, R22, R122, R124 to R130). -/
namespace Sys2Proof.Machine

/-! ### Copy tags (R124, R125) -/

/-- Index of the lowest set bit of a word, 64 for none. -/
def lowestBit (w : Word) : Nat := ((List.range 64).find? fun i => w.getLsbD i).getD 64

/-- Tags of the shuttle that a copy or a draining stream holds (R161). -/
def heldTags (h : Shuttle) : Word :=
  let copies : Word := h.copies.foldl (fun w c => w ||| (1#64 <<< c.tag)) 0
  h.s.foldl (fun w x => match x with
    | some st => match st.drainTag with
      | some t => w ||| (1#64 <<< t)
      | none => w
    | none => w) copies

/-- The end of `waitany`: an acquire, then the index of the lowest ready tag (R124). -/
def waitanyDone (s : State) (a : BitVec 5) (m : Word) : State :=
  let i := lowestBit (s.me.tagReady &&& m)
  setVariable (acquireAll s) (.g a) (BitVec.ofNat 64 i)

/-- `waitany` (R124): a mask of 0 answers 64 at once. -/
def execWaitany (c : Ctl) (a : BitVec 5) (m : GOrImm) (s : State) : Host.Outcome State Fault Refusal :=
  seqInstr c (fun t =>
    let k := gOrImmVal t.me m
    if !t.me.paired ∧ (k = 0 ∨ t.me.tagReady &&& k ≠ 0) then .done (waitanyDone t a k) 1 else .wait t (.tagAny a k)) s

/-- `waitall` (R124). -/
def execWaitall (c : Ctl) (m : GOrImm) (s : State) : Host.Outcome State Fault Refusal :=
  seqInstr c (fun t =>
    let k := gOrImmVal t.me m
    if !t.me.paired ∧ t.me.tagReady &&& k = k then .done (acquireAll t) 1 else .wait t (.tagAll k)) s

/-- `ffready` (R124): it does not wait. -/
def execFfready (c : Ctl) (a : BitVec 5) (m : GOrImm) (s : State) : Host.Outcome State Fault Refusal :=
  seqInstr c (fun t =>
    let i := lowestBit (t.me.tagReady &&& gOrImmVal t.me m)
    .done (setVariable (acquireAll t) (.g a) (BitVec.ofNat 64 i)) 1) s

/-- `tagclr` (R125): tags that are held are left as they are. -/
def execTagclr (c : Ctl) (m : GOrImm) (s : State) : Host.Outcome State Fault Refusal :=
  seqInstr c (fun t => .done (modMe t (fun h =>
    let k := gOrImmVal h m &&& ~~~(heldTags h)
    { h with
      tagReady := h.tagReady &&& ~~~k
      tagBytes := Vector.ofFn fun (i : Fin 64) => if k.getLsbD i.val then 0 else h.tagBytes[i] })) 1) s

/-! ### Command queues (R18, R126, R127) -/

/-- The role of an engine's command queue in the QCWs of a slot (R35). -/
def queueRole : Eng → Nat
  | .str => 0 | .vec => 1 | .mtx => 2
/-- The QCW of a shuttle's command queue for an engine. -/
def queueQcw (s : State) (h : Shuttle) (e : Eng) : Word := qcwOf (tileOf s h.place.tile) (4 * h.place.slot + queueRole e)

/-- Room in a command queue: the elements of its area (R18, R35). -/
def queueRoom (s : State) (h : Shuttle) (e : Eng) : Bool := decide ((engOf h e).queue.length < qcwDepth (queueQcw s h e))

/-- An entry appended to a command queue. -/
def pushEntry (h : Shuttle) (e : Eng) (x : Entry) : Shuttle :=
  modEng h e (fun q => { q with queue := q.queue ++ [x], pushed := q.pushed + 1 })

/-- The entry a `run` pushes (R18, R126): k0 to k3, the snapshot of p1 to p15, the mode, the overflow table in force. -/
def makeEntry (s : State) (g : BitVec 5) (head lines : Nat) (loop : Option Nat) : Entry :=
  let h := s.me
  { head := head, lines := lines, k0 := getG h g, k1 := getG h (g + 1), k2 := getG h (g + 2), k3 := getG h (g + 3),
    preds := h.p &&& 0xFFFE, priv := h.priv, loop := loop, ovf := (ctxOf s h.tenant).ovf,
    before := (h.str.pushed, h.vec.pushed, h.mtx.pushed) }

/-- The trip count of a loop's entry as its register stands at the push (R127). -/
def tripsOf (h : Shuttle) (g : BitVec 5) (loop : Option Nat) : Option Nat := loop.map fun _ => (getG h (g + 3)).toNat

/-- Does a trip count exceed the declared maximum 2^x of its loop (R127)? -/
def tripsOver (h : Shuttle) (g : BitVec 5) (loop : Option Nat) : Bool := loop.any fun x => decide (2 ^ x < (getG h (g + 3)).toNat)

/-- A `run`: a trip count above the maximum traps TRIP before anything is pushed, at issue and at the push after a stall; a queue of DEPTH 0 is
ILLEGAL; a full one stalls; then the release at TILE scope covers the earlier SEQ accesses, and the entry takes the registers and the overflow
table of that moment (R18, R126, R127, R135). -/
def seqPush (e : Eng) (g : BitVec 5) (head lines : Nat) (loop : Option Nat) (s : State) : SeqRes :=
  if tripsOver s.me g loop then .fault s { code := .trip, va := 0 }
  else if qcwDepth (queueQcw s s.me e) = 0 then .fault s { code := .illegal, va := 0 }
  else if queueRoom s s.me e then
    let x := makeEntry s g head lines (tripsOf s.me g loop)
    .done (modMe (releaseAt s 65535 1) (fun h => pushEntry h e x)) 1
  else .wait s (.cmd e g head lines loop)

/-- `run` (R126). -/
def execRun (c : Ctl) (e : Eng) (n : BitVec 7) (g : BitVec 5) (head : BitVec 30) (s : State) : Host.Outcome State Fault Refusal :=
  seqInstr c (fun t => seqPush e g head.toNat n.toNat none t) s

/-- `run.loop` (R127): a trip count above 2^x traps TRIP before anything is pushed. -/
def execRunLoop (c : Ctl) (e : Eng) (n : BitVec 7) (g : BitVec 5) (head : BitVec 20) (x : BitVec 7) (s : State) :
    Host.Outcome State Fault Refusal :=
  seqInstr c (fun t => seqPush e g head.toNat n.toNat (some x.toNat) t) s

/-! ### Output FIFOs (R22, R128, R129) -/

/-- The oldest element taken from an engine's FIFO: none while it is empty; `pop.p` of an element other than 0 or 1 traps DIVERGENT
and leaves it (R128, R129). A pop is an acquire over every class. -/
def takeFifo (s : State) (e : Eng) (d : SeqDest) : Option SeqRes :=
  match (engOf s.me e).fifo with
  | [] => none
  | v :: rest =>
    let take : State := modMe (acquireAll s) (fun h => observe (modEng h e (fun q => { q with fifo := rest })))
    match d with
    | .g _ => some (.done (setVariable take d v) 1)
    | .p _ => if v = 0 ∨ v = 1 then some (.done (setVariable take d v) 1) else some (.fault s { code := .divergent, va := 0 })

/-- `pop.<eng>` (R128). -/
def execPopEng (c : Ctl) (e : Eng) (a : BitVec 5) (s : State) : Host.Outcome State Fault Refusal :=
  seqInstr c (fun t => (takeFifo t e (.g a)).getD (.wait t (.fifo e (.g a)))) s

/-- `pop.p` (R129). -/
def execPopP (c : Ctl) (p : BitVec 6) (s : State) : Host.Outcome State Fault Refusal :=
  seqInstr c (fun t => (takeFifo t .vec (.p p)).getD (.wait t (.fifo .vec (.p p)))) s

/-! ### Tokens (R130) -/

/-- `tok.push`: a release at TILE scope of the earlier SEQ accesses, then n tokens once they fit (R130). -/
def execTokPush (c : Ctl) (q n : BitVec 7) (s : State) : Host.Outcome State Fault Refusal :=
  seqInstr c (fun t =>
    let k := tokCount t.me q.toNat
    if k + pushesDue t.me q.toNat + n.toNat ≤ 15 then .done (modMe (releaseAt t 65535 1) (fun h => setTok h q.toNat (k + n.toNat))) 1
    else .wait t (.tokPush q.toNat n.toNat)) s

/-- The tokens of `tok.pop` taken: it acquires what their pushes released, over every class (R130, R155). -/
def tokPopDone (s : State) (q n : Nat) : State :=
  modMe (acquireAll s) (fun h => takeToken h q n)

/-- `tok.pop` (R130). -/
def execTokPop (c : Ctl) (q n : BitVec 7) (s : State) : Host.Outcome State Fault Refusal :=
  seqInstr c (fun t =>
    if n.toNat ≤ tokCount t.me q.toNat then .done (tokPopDone t q.toNat n.toNat) 1
    else .wait t (.tokPop q.toNat n.toNat)) s

/-! ### The waits of the sequencer (R20, R22, R28) -/

/-- A waiting shuttle in focus tries again: the waiting instruction completes where its condition holds, and waits on where it does
not. A wait that re-issue tests again ends here, its POP kept. -/
def retryWait (s : State) : State :=
  let c := s.me.ctl
  let go (r : SeqRes) : State := settleRes c r
  let full (q : Nat) : Bool := decide (15 ≤ tokCount s.me q + pushesDue s.me q)
  match s.me.wait with
  | none => s
  | some .retry => modMe s (fun h => { h with wait := none })
  | some .exit => modMe s (fun h => { h with wait := none })
  | some (.popTok q) =>
    if tokCount s.me q = 0 then s
    else modMe s (fun h => { takeToken h q 1 with popped := true, wait := none })
  | some (.pushTok q) => if full q then s else modMe s (fun h => { setTok h q (tokCount h q + 1) with wait := none })
  | some (.pushRes q i) => if full q then s else modMe s (fun h => pushTo { h with wait := none } q i)
  | some (.pushAck q) => if unacknowledged s ∨ full q then s else modMe s (fun h => { setTok h q (tokCount h q + 1) with wait := none })
  | some (.drain code va write r) =>
    if unacknowledged s then s else trapWith (modMe s (fun h => { h with wait := none })) code va r write
  | some (.tokPop q n) => if n ≤ tokCount s.me q then go (.done (tokPopDone s q n) 1) else s
  | some (.tokPush q n) =>
    if tokCount s.me q + pushesDue s.me q + n ≤ 15 then go (.done (modMe (releaseAt s 65535 1) (fun h => setTok h q (tokCount h q + n))) 1) else s
  | some (.cmd e g head lines loop) => if queueRoom s s.me e then go (seqPush e g head lines loop (modMe s settle)) else s
  | some (.fifo e d) =>
    match takeFifo s e d with
    | some r => go r
    | none => s
  | some (.bar a va) =>
    match barTry s a va with
    | (u, none) => u
    | (u, some (.error x)) => go (.fault u x)
    | (u, some (.ok _)) => go (.done (dueCompare (barDone u a)) 1)
  | some (.tagAny a m) => if m = 0 ∨ s.me.tagReady &&& m ≠ 0 then go (.done (dueCompare (waitanyDone s a m)) 1) else s
  | some (.tagAll m) => if s.me.tagReady &&& m = m then go (.done (dueCompare (acquireAll s)) 1) else s

/-- A happening that ends a wait of the shuttle at a place: it acts where the shuttle runs and waits in that way. -/
def endWait (q : Place) (kind : Wait → Bool) (s : State) : Host.Outcome State Fault Refusal :=
  let s1 := focus s q
  match s1.me.wait with
  | some w => if kind w ∧ s1.me.life = .running ∧ s1.me.dueTrap.isNone ∧ !s1.me.compareDue then .next (retryWait s1) else .next s1
  | none => .next s1

/-- BAR_WAIT_RETURN (R122). -/
def execBarWaitReturn (q : Place) (s : State) : Host.Outcome State Fault Refusal :=
  endWait q (fun w => match w with
    | .bar _ _ => true
    | _ => false) s
/-- TAG_WAIT_RETURN (R124). -/
def execTagWaitReturn (q : Place) (s : State) : Host.Outcome State Fault Refusal :=
  endWait q (fun w => match w with
    | .tagAny _ _ => true
    | .tagAll _ => true
    | _ => false) s
/-- COMMAND_QUEUE_ROOM (R18). -/
def execCommandQueueRoom (q : Place) (s : State) : Host.Outcome State Fault Refusal :=
  endWait q (fun w => match w with
    | .cmd _ _ _ _ _ => true
    | _ => false) s
/-- FIFO_ELEMENT_ARRIVAL (R22, R128). -/
def execFifoElementArrival (q : Place) (s : State) : Host.Outcome State Fault Refusal :=
  endWait q (fun w => match w with
    | .fifo _ _ => true
    | _ => false) s

end Sys2Proof.Machine
end

