-- ==== Sys2Proof/Machine/Special.lean ====
section
/-! DEFINITION. The special functions of R218 (exp2, exp, log2, rcp, rsqrt, sqrt, tanh): each returns the exact mathematical
value rounded once. rcp, sqrt and rsqrt are exact integer arithmetic with a sticky remainder. The four transcendental functions
are evaluated in fixed point with 320 fractional bits and rounded with a sticky bit (DEDUCED: no FP32 operand comes that close
to a rounding boundary; log entry 7). -/
namespace Sys2Proof.Machine

/-- The functions of R218. -/
inductive SFn where
  | exp2 | exp | log2 | rcp | rsqrt | sqrt | tanh
deriving DecidableEq, Repr

/-- Fractional bits of the fixed-point evaluation. -/
def fixP : Nat := 320

/-- Σ z^(2k+1) / (2k+1) in fixed point, the series of atanh, from term `zk = z^(2k+1)`. -/
def atanhSeries (z2 : Nat) : Nat → Nat → Nat → Nat
  | 0, _, _ => 0
  | n + 1, k, zk => zk / (2 * k + 1) + atanhSeries z2 n (k + 1) (zk * z2 / 2 ^ fixP)

/-- atanh of z in fixed point, 0 ≤ z ≤ 1/3. -/
def atanhFix (z : Nat) : Nat := atanhSeries (z * z / 2 ^ fixP) 110 0 z

/-- ln 2 in fixed point: 2 atanh(1/3). -/
def ln2Fix : Nat := 2 * atanhFix (2 ^ fixP / 3)

/-- Σ r^k / k! in fixed point from term `term`, the k-th. -/
def expSeries (r : Nat) : Nat → Nat → Nat → Nat
  | 0, _, _ => 0
  | n + 1, k, term => term + expSeries r n (k + 1) (term * r / 2 ^ fixP / (k + 1))

/-- e^r in fixed point, 0 ≤ r < 1. -/
def expFix (r : Nat) : Nat := expSeries r 90 0 (2 ^ fixP)

/-- The greatest s with s × s ≤ n, found bit by bit from bit `k − 1` downwards. -/
def isqrtFrom (n : Nat) : Nat → Nat → Nat
  | 0, s => s
  | k + 1, s => if (s + 2 ^ k) * (s + 2 ^ k) ≤ n then isqrtFrom n k (s + 2 ^ k) else isqrtFrom n k s

/-- The integer square root. -/
def isqrt (n : Nat) : Nat := isqrtFrom n (Nat.log2 n / 2 + 1) 0

/-- A finite value in fixed point, exact for every FP32 and BF16 operand below 2^9. -/
def toFix (m : Nat) (e : Int) : Nat :=
  if 0 ≤ (fixP : Int) + e then m * 2 ^ ((fixP : Int) + e).toNat else m / 2 ^ (-((fixP : Int) + e)).toNat

/-- A magnitude between two neighbouring integers at a binary exponent: mantissa, exponent, and whether inexact. -/
abbrev Mag := Nat × Int × Bool

/-- exp of a signed fixed-point operand of magnitude below 512, as a magnitude. -/
def expMag (neg : Bool) (x : Nat) : Mag :=
  if neg then
    let n := x / ln2Fix + 1
    (expFix (n * ln2Fix - x), -(n : Int) - fixP, true)
  else
    let n := x / ln2Fix
    (expFix (x - n * ln2Fix), (n : Int) - fixP, true)

/-- exp2 of a signed fixed-point operand of magnitude below 512, as a magnitude; exact for an integer. -/
def exp2Mag (neg : Bool) (x : Nat) : Mag :=
  let one := 2 ^ fixP
  let n := x / one
  let fr := x % one
  if fr = 0 then (1, if neg then -(n : Int) else (n : Int), false)
  else if neg then (expFix ((one - fr) * ln2Fix / one), -(n : Int) - 1 - fixP, true)
  else (expFix (fr * ln2Fix / one), (n : Int) - fixP, true)

/-- The magnitude of a growth function clamped: beyond ±256 the result overflows, or underflows to below half the least subnormal. -/
def growth (f : Bool → Nat → Mag) (neg : Bool) (m : Nat) (e : Int) : Mag :=
  if 8 ≤ (Nat.log2 m : Int) + e then (if neg then (1, -300, true) else (1, 300, true))
  else f neg (toFix m e)

/-- log2 of a nonzero magnitude: sign and magnitude of the result. -/
def log2Mag (m : Nat) (e : Int) : Bool × Mag :=
  let l := Nat.log2 m
  let k : Int := (l : Int) + e
  if m = 2 ^ l then (decide (k < 0), (k.natAbs, 0, false))
  else
    let one := 2 ^ fixP
    let d := m - 2 ^ l
    let z := d * one / (m + 2 ^ l)
    let fr := 2 * atanhFix z * one / ln2Fix
    if 0 ≤ k then (false, (k.toNat * one + fr, -(fixP : Int), true))
    else (true, (k.natAbs * one - fr - 1, -(fixP : Int), true))

/-- 1 / (m × 2^e). -/
def rcpMag (m : Nat) (e : Int) : Mag :=
  let k := Nat.log2 m + 80
  (2 ^ k / m, -(k : Int) - e, decide (2 ^ k % m ≠ 0))

/-- The operand of a square root with an even exponent: mantissa scaled by at most two, exponent halved. -/
def evenExp (m : Nat) (e : Int) : Nat × Int := if e % 2 = 0 then (m, e / 2) else (2 * m, (e - 1) / 2)

/-- √(m × 2^e). -/
def sqrtMag (m : Nat) (e : Int) : Mag :=
  let (m', h) := evenExp m e
  let n := m' * 2 ^ 160
  let s := isqrt n
  (s, h - 80, decide (s * s ≠ n))

/-- 1 / √(m × 2^e). -/
def rsqrtMag (m : Nat) (e : Int) : Mag :=
  let (m', h) := evenExp m e
  let k := Nat.log2 m' + 80
  let s := isqrt (2 ^ (2 * k) / m')
  (s, -(k : Int) - h, decide (s * s * m' ≠ 2 ^ (2 * k)))

/-- tanh of a nonzero magnitude. Below 2^−40 the value lies just under the operand; from 32 up just under 1. -/
def tanhMag (m : Nat) (e : Int) : Mag :=
  let k : Int := (Nat.log2 m : Int) + e
  if k < -40 then (m * 2 ^ 70 - 1, e - 70, true)
  else if 5 ≤ k then (2 ^ 80 - 1, -80, true)
  else
    let one := 2 ^ fixP
    let (em, ee, _) := expMag true (2 * toFix m e)
    let u := em * one / 2 ^ (-ee).toNat
    ((one - u) * one / (one + u), -(fixP : Int), true)

/-- A magnitude rounded to a format by RNE (R210). -/
def roundOf (t : OvfTable) (f : Fmt) (neg : Bool) (r : Mag) : Nat × FpFlags :=
  if r.1 = 0 then (f.withSign neg 0, 0) else roundMag t f .rne neg r.1 r.2.1 r.2.2

/-- A special value delivered without rounding. -/
def deliver (t : OvfTable) (f : Fmt) (v : FV) (fl : FpFlags) : Nat × FpFlags :=
  let r := roundTo t f .rne v
  (r.1, fl ||| r.2)

/-- The value 1 as an exact value. -/
def fvOne : FV := .fin false 1 0

/-- f(x) rounded once into the format, with its flags (R218). -/
def special (fn : SFn) (t : OvfTable) (f : Fmt) (v : FV) : Nat × FpFlags :=
  match fn, v with
  | _, .nan => (f.cnan, 0)
  | .exp2, .inf false => deliver t f (.inf false) 0
  | .exp2, .inf true => deliver t f (.fin false 0 0) 0
  | .exp2, .fin _ 0 _ => deliver t f fvOne 0
  | .exp2, .fin n m e => roundOf t f false (growth exp2Mag n m e)
  | .exp, .inf false => deliver t f (.inf false) 0
  | .exp, .inf true => deliver t f (.fin false 0 0) 0
  | .exp, .fin _ 0 _ => deliver t f fvOne 0
  | .exp, .fin n m e => roundOf t f false (growth expMag n m e)
  | .log2, .inf false => deliver t f (.inf false) 0
  | .log2, .inf true => (f.cnan, Flag.nv)
  | .log2, .fin _ 0 _ => deliver t f (.inf true) Flag.dz
  | .log2, .fin true _ _ => (f.cnan, Flag.nv)
  | .log2, .fin false m e => let r := log2Mag m e; roundOf t f r.1 r.2
  | .rcp, .inf n => deliver t f (.fin n 0 0) 0
  | .rcp, .fin n 0 _ => deliver t f (.inf n) Flag.dz
  | .rcp, .fin n m e => roundOf t f n (rcpMag m e)
  | .rsqrt, .inf false => deliver t f (.fin false 0 0) 0
  | .rsqrt, .inf true => (f.cnan, Flag.nv)
  | .rsqrt, .fin n 0 _ => deliver t f (.inf n) Flag.dz
  | .rsqrt, .fin true _ _ => (f.cnan, Flag.nv)
  | .rsqrt, .fin false m e => roundOf t f false (rsqrtMag m e)
  | .sqrt, .inf false => deliver t f (.inf false) 0
  | .sqrt, .inf true => (f.cnan, Flag.nv)
  | .sqrt, .fin n 0 _ => deliver t f (.fin n 0 0) 0
  | .sqrt, .fin true _ _ => (f.cnan, Flag.nv)
  | .sqrt, .fin false m e => roundOf t f false (sqrtMag m e)
  | .tanh, .inf n => deliver t f (.fin n 1 0) 0
  | .tanh, .fin n 0 _ => deliver t f (.fin n 0 0) 0
  | .tanh, .fin n m e => roundOf t f n (tanhMag m e)

/-- The node function of `vred.maxsum`, near-data maxsum and landing zones (R256): pairs (m, s) of FP32 encodings. -/
def comb (p q : Nat × Nat) : (Nat × Nat) × FpFlags :=
  let (m1, s1) := p
  let (m2, s2) := q
  if (f32 m1).isNan || (f32 s1).isNan || (f32 m2).isNan || (f32 s2).isNan then ((Fmt.cnan .f32, Fmt.cnan .f32), 0)
  else
    let m := if (f32 m2).leSigned (f32 m1) then m1 else m2
    let term (mi si : Nat) : Nat × FpFlags :=
      let (fi, f1) : Nat × FpFlags :=
        if (f32 mi).eqv (f32 m) then (0x3F800000, 0)
        else
          let (d, fa) := roundedRne noTable .f32 ((f32 mi).add (f32 m).negate)
          let (x, fb) := special .exp noTable .f32 (f32 d)
          (x, fa ||| fb)
      let (u, f2) := roundedRne noTable .f32 ((f32 si).mul (f32 fi))
      (u, f1 ||| f2)
    let (u1, g1) := term m1 s1
    let (u2, g2) := term m2 s2
    let (s, g3) := fadd u1 u2
    ((m, s), g1 ||| g2 ||| g3)

end Sys2Proof.Machine
end

