-- ==== Sys2Proof/Machine/Twill.lean ====
section
/-! DEFINITION. Twill-coded weights (R224 to R232): the window, the value function, and the encoder's trellis search. -/
namespace Sys2Proof.Machine

/-- Weights of a segment at a rate code (R224); code 3 is illegal. -/
def twN (rate : Nat) : Option Nat :=
  match rate with
  | 0 => some 384 | 1 => some 320 | 2 => some 256 | _ => none

/-- The first bit of weight i's window (R224). -/
def twP (rate i : Nat) : Nat :=
  match rate with
  | 0 => i
  | 1 => i + i / 5
  | _ => i + i / 2

/-- Window i of a segment whose 384 bits are one little-endian number (R224): sixteen bits, taken modulo 384. -/
def twWindow (seg rate i : Nat) : Nat :=
  let p := twP rate i % 384
  (seg / 2 ^ p + seg * 2 ^ (384 - p)) % 65536

/-- The value function H (R225). -/
def twH (s : Nat) : Int :=
  let x := (s * 0x3B9D + 0x52E1) % 65536
  ((x / 256 : Nat) : Int) + ((x % 256 : Nat) : Int) - 255

/-- The value of a weight from its window and the segment exponent (R226). -/
def twWeight (s e : Nat) : FV :=
  if e = 255 then .fin false 0 0
  else if twH s = 0 then .fin false 0 0
  else .fin (decide (twH s < 0)) (twH s).natAbs ((e : Int) - 135)

/-- Weight i of a segment under its record's exponent and rate code. -/
def twDecode (seg rate e i : Nat) : FV := twWeight (twWindow seg rate i) e

/-- Is a scale record legal: no rate code 3, no reserved bit, no exponent of 0 or 1 (R226, R227)? `rec` is the two bytes. -/
def twRecordOk (e b1 : Nat) : Bool := decide (e ≠ 0) && decide (e ≠ 1) && decide (b1 < 3)

/-! ### The encoder (R231, R232) -/

/-- The cost of weight j in window s for target t, as an FP32 encoding (R231). -/
def twSq (s e t : Nat) : Nat :=
  let d := (roundF32 ((twWeight s e).add (f32 t).negate).1).1
  (roundF32 ((f32 d).mul (f32 d)).1).1

/-- The order of costs in the encoder (R232): a NaN counts as greater than every number and equal to every NaN. -/
def costLt (a b : Nat) : Bool :=
  let x := f32 a
  let y := f32 b
  if x.isNan then false
  else if y.isNan then true
  else x.le y && !(y.le x)

/-- A path, newest window first, with the costs of its weights, newest first. -/
structure TwPath where
  win : List Nat
  costs : List Nat
deriving DecidableEq, Repr

/-- The cost of a path: the reed sum over its weights in order (R231). -/
def TwPath.cost (p : TwPath) : Nat := (reedSum p.costs.reverse).1

/-- The live paths of the search, keyed by their last window, in rising window order. -/
abbrev TwLive := List (Nat × TwPath)

/-- The live path that ends at a window. -/
def twFind (live : TwLive) (s : Nat) : Option TwPath := (live.find? (fun p => p.1 = s)).map (·.2)

/-- The least-cost member of a list of paths; the first wins a tie, so windows rise. -/
def twBest : List (Nat × TwPath) → Option (Nat × TwPath)
  | [] => none
  | p :: ps =>
    match twBest ps with
    | none => some p
    | some q => if costLt q.2.cost p.2.cost then some q else some p

/-- One trellis step from window i − 1 to window i, for every next window (R232). `sq` is the cost of weight i in a window,
none for window N, which adds no term. -/
def twStep (d : Nat) (sq : Option (Nat → Nat)) (live : TwLive) : TwLive :=
  (List.range 65536).filterMap fun s2 =>
    let cands := (List.range (2 ^ d)).filterMap fun low =>
      let s := s2 * 2 ^ d % 65536 + low
      (twFind live s).map (fun p => (s, p))
    (twBest cands).map fun b =>
      (s2, { win := s2 :: b.2.win,
             costs := match sq with
               | some f => f s2 :: b.2.costs
               | none => b.2.costs })

/-- The steps from window i on; `k` of them remain. -/
def twRun (rate e n : Nat) (ts : List Nat) : Nat → Nat → TwLive → TwLive
  | 0, _, live => live
  | k + 1, i, live =>
    let d := twP rate i - twP rate (i - 1)
    let sq := if i < n then some (fun s => twSq s e (ts.getD i 0)) else none
    twRun rate e n ts k (i + 1) (twStep d sq live)

/-- The start of a pass: one path for each window of a list. -/
def twInit (e : Nat) (ts : List Nat) (starts : List Nat) : TwLive :=
  starts.map fun s => (s, { win := [s], costs := [twSq s e (ts.getD 0 0)] })

/-- The segment bits that windows (first weight first) set (R232). -/
def twBits (rate : Nat) (ws : List Nat) : Nat :=
  ((ws.zip (List.range ws.length)).map fun p =>
    (List.range 16).foldl (fun acc b =>
      if p.1 / 2 ^ b % 2 = 1 then acc ||| 2 ^ ((twP rate p.2 + b) % 384) else acc) 0).foldl (· ||| ·) 0

/-- `stwenc_core` of R232: the segment as one 384-bit number and the error, for the targets `ts` as FP32 encodings. -/
def twEncode (ts : List Nat) (rate e : Nat) : Nat × Nat :=
  match twN rate with
  | none => (0, 0)
  | some n =>
    let pass1 := twRun rate e n ts n 1 (twInit e ts (List.range 65536))
    let start := match twBest pass1 with
      | some b => b.1
      | none => 0
    let pass2 := twRun rate e n ts n 1 (twInit e ts [start])
    match twFind pass2 start with
    | none => (0, 0)
    | some p => (twBits rate (p.win.reverse.take n), p.cost)

end Sys2Proof.Machine
end

