-- ==== Sys2Proof/Machine/Streams.lean ====
section
/-! DEFINITION. Object references and their checks (R144 to R146), stream descriptors (R147 to R151, R159), the fetch of input
streams (R154, R156), popping and handing over blocks (R153, R157), and the happenings of streams (R12, R154 to R157). -/
namespace Sys2Proof.Machine

/-! ### Object references (R144, R146) -/

/-- How an object is used (R144). -/
inductive ObjUse where
  | streamIn | streamTw | streamB16 | streamOut | source | dest | twDest | promote | zone | kick
deriving DecidableEq, Repr

/-- Does a usable entry have the TYPE, the FORMAT and the rights that a use needs (R144, R159)? A twill tensor with no scale array gives RIGHTS to
every use that reads scale records (R159; to `stwenc` log entry 36, to an aperture read log entry 121). -/
def useOk (e : BitVec 256) (u : ObjUse) : Bool :=
  let ty := Obj.type e
  let tw := decide (Obj.format e = fmtTwill)
  match u with
  | .streamIn => decide (ty = 0) && !tw && Obj.right e 0
  | .streamTw => decide (ty = 0) && tw && (Obj.right e 0 || Obj.right e 2) && decide (Obj.scaleStride e ≠ 0)
  | .streamB16 => decide (ty = 0) && !tw && Obj.right e 0 && decide (Obj.scaleStride e ≠ 0)
  | .streamOut => decide (ty = 0) && !tw && Obj.right e 1
  | .source => decide (ty ≤ 1) && !tw && Obj.right e 0
  | .dest => decide (ty ≤ 1) && !tw && Obj.right e 1
  | .twDest => decide (ty = 0) && tw && Obj.right e 1
  | .promote => decide (ty = 5) && Obj.right e 3
  | .zone => decide (ty = 4) && Obj.right e 1
  | .kick => decide (ty = 6) && Obj.right e 4

/-- The uses that the scratchpad serves (R146). -/
def scratchUse (u : ObjUse) : Bool :=
  match u with
  | .streamIn | .streamOut | .source | .dest => true
  | _ => false

/-- The entry of an object index for a use: RIGHTS where the use fails. Index 0xFFFF is the scratchpad and reads no entry (R146). -/
def useObj (s : State) (u : ObjUse) (idx : Nat) : State × Except Code (BitVec 256) :=
  if idx = 0xFFFF then (s, if scratchUse u then .ok 0 else .error .rights)
  else match objEntry s s.me.tenant idx with
    | (s1, none) => (s1, .error .rights)
    | (s1, some e) => if Obj.usable e && useOk e u then (s1, .ok e) else (s1, .error .rights)

/-- The reference a word makes, its entry captured (R145, R146). -/
def takeRef (s : State) (u : ObjUse) (w : Word) : State × Except Code Ref :=
  let idx := bitsOf w.toNat 63 48
  match useObj s u idx with
  | (s1, .error c) => (s1, .error c)
  | (s1, .ok e) => (s1, .ok { obj := idx, off := bitsOf w.toNat 47 0, entry := e })

/-- Base VA of a reference's object. -/
def refBase (r : Ref) : Nat := if r.obj = 0xFFFF then Config.localRange else Obj.base r.entry
/-- The VA a reference names. -/
def refVa (r : Ref) : Nat := refBase r + r.off
/-- Bytes of a reference's object: the scratchpad top for the shuttle's own scratchpad (R146). -/
def refSize (s : State) (r : Ref) : Nat := if r.obj = 0xFFFF then scratchTop s.tile else Obj.size r.entry
/-- Do `n` bytes at an offset from a reference lie inside its object (R144)? No byte lies outside where n is 0. -/
def refHolds (s : State) (r : Ref) (n : Nat) : Bool := decide (n = 0) || decide (r.off + n ≤ refSize s r)

/-! ### Descriptors (R147 to R151) -/

/-- The fields of 64 descriptor bytes, and whether every must-be-0 bit is 0 (R147); a SCALE of 2 or more is counted with them (DEDUCED, log
entry 82). -/
def parseDesc (bs : List Byte) : Desc × Bool :=
  let f (a n : Nat) : Nat := natOfBytes ((bs.drop a).take n)
  let dims := [0, 1, 2, 3]
  let nd := f 8 1
  ({ obj := f 0 2, out := decide (f 2 1 % 2 = 1), cls := f 3 1 % 16, format := f 4 1, decode := f 5 1, rows := f 6 1 + 1, cols := f 7 1 + 1,
     ndims := nd, keep := decide (f 9 1 = 1), counts := dims.map fun d => f (16 + 8 * d) 4,
     strides := dims.map fun d => signedOf 32 (f (20 + 8 * d) 4), offset := f 48 6, ratio := f 56 2 },
   decide (f 2 1 < 2) && decide (f 3 1 < 16) && decide (f 9 1 < 2) && decide (f 10 6 = 0) && decide (f 54 2 = 0) && decide (f 58 6 = 0)
     && dims.all fun d => decide (d < nd) || decide (f (16 + 8 * d) 8 = 0))

/-- The m of a B16M format code (R54), 0 for another format. -/
def b16OfFormat (format : Nat) : Nat := if format = 9 then 7 else if format = 10 then 4 else if format = 11 then 2 else 0

/-- Bytes of a unit of the pattern (R148). -/
def unitBytes (d : Desc) : Nat :=
  if d.decode = 1 then 48 else if d.decode = 2 then b16Bytes (b16OfFormat d.format)
  else if d.format = 13 then 1 else elemBytes d.format 1
/-- Units of a block of DECODE 0 or 2 (R148). -/
def unitsPerBlock (d : Desc) : Nat :=
  if d.decode = 2 then d.rows * d.cols / 16 else if d.format = 13 then d.rows * d.cols / 2 else d.rows * d.cols
/-- Units of the pattern. -/
def patternUnits (d : Desc) : Nat := (d.counts.take d.ndims).foldl (· * ·) 1

/-- Byte offset of unit j within the object (R148). -/
def unitOff (d : Desc) (j : Nat) : Int :=
  let go := (List.range d.ndims).foldl (fun (acc : Int × Nat) i =>
    let c := d.counts.getD i 1
    (acc.1 + (acc.2 % c : Nat) * d.strides.getD i 0, acc.2 / c)) ((d.offset : Int), j)
  go.1

/-- The least and the greatest unit offset over the whole pattern (R151). -/
def unitSpan (d : Desc) : Int × Int :=
  (List.range d.ndims).foldl (fun (acc : Int × Int) i =>
    let reach : Int := ((d.counts.getD i 1 : Nat) - 1 : Int) * d.strides.getD i 0
    if 0 ≤ reach then (acc.1, acc.2 + reach) else (acc.1 + reach, acc.2)) ((d.offset : Int), (d.offset : Int))

/-- Check 3 of R151: NDIMS, COUNT, RATIO, divisibility, the unit that DECODE and FORMAT name, and whole blocks. A FORMAT of twill under
DECODE 0 or 2, and another FORMAT under DECODE 1, are left to check 4, which answers RIGHTS (R144); the scratchpad has no FORMAT to compare, and
there it fails here. A FORMAT without a unit under DECODE 0 fails here (DEDUCED, log entry 82). -/
def shapeOk (d : Desc) : Bool :=
  let n := patternUnits d
  decide (1 ≤ d.ndims ∧ d.ndims ≤ 4) && ((d.counts.take d.ndims).all fun c => decide (c ≠ 0)) && decide (n < 2 ^ 40) &&
    (if d.decode = 1 then true
      else if d.format = fmtTwill then decide (d.ratio = 0 ∧ d.obj ≠ 0xFFFF)
      else if d.decode = 0 then (decide (d.format ≤ 8) || (decide (d.format = 13) && decide (d.cols % 2 = 0))) && decide (d.ratio = 0)
        && decide (n % unitsPerBlock d = 0)
      else decide (d.decode = 2 ∧ 9 ≤ d.format ∧ d.format ≤ 11) && decide (d.cols % 16 = 0) && decide (d.ratio = 0)
        && decide (n % unitsPerBlock d = 0))

/-- Is every unit at a multiple of the unit bytes (R159)? -/
def unitsAligned (d : Desc) : Bool :=
  d.decode = 0 || (decide (d.offset % unitBytes d = 0) &&
    (List.range d.ndims).all fun i => decide (d.counts.getD i 1 ≤ 1) || decide (d.strides.getD i 0 % (unitBytes d : Int) = 0))

/-- Check 5 of R151. -/
def patternInside (d : Desc) (size : Nat) : Bool :=
  let sp := unitSpan d
  decide (0 ≤ sp.1) && decide (sp.2 + unitBytes d ≤ size) && unitsAligned d

/-- The format a block delivers (R148, R149). -/
def delivered (d : Desc) : DFmt :=
  if d.decode = 1 then .bf16
  else match d.format with
    | 0 => .f32 | 1 => .bf16 | 2 => .f16 | 3 => .e4m3 | 4 => .e5m2 | 5 => .i32 | 6 => .i16 | 7 => .i8 | 8 => .u8 | 9 => .b16m7
    | 10 => .b16m4 | 11 => .b16m2 | _ => .i4

/-- Bytes of a delivered block in the pool: B16M groups stand there with their scale records (R148, R151). -/
def blockBytes (d : Desc) : Nat :=
  let n := d.rows * d.cols
  if d.decode = 1 then 2 * n
  else if d.decode = 2 then n / 16 * (unitBytes d + 2)
  else if d.format = 13 then n / 2 else n * unitBytes d

/-! ### The pool (R35, R151, R154) -/

/-- The stream pool's QCW of the shuttle in focus. -/
def poolQcw (s : State) : Word := qcwOf s.tile (4 * s.me.place.slot + 3)
/-- Pool elements of a block. -/
def poolElems (s : State) (d : Desc) : Nat := (blockBytes d + qcwElem (poolQcw s) - 1) / qcwElem (poolQcw s)
/-- Pool elements in use. -/
def poolUsed (s : State) : Nat :=
  s.me.s.foldl (fun n x => match x with
    | some st => n + (st.buf.length + (if st.flying && !st.desc.out then 1 else 0)) * poolElems s st.desc
    | none => n) 0
/-- Has the pool room for one more block? -/
def poolRoom (s : State) (d : Desc) : Bool := decide (poolUsed s + poolElems s d ≤ qcwDepth (poolQcw s))

/-! ### Scale records (R159, R160) -/

/-- A record put into the scale cache: 4,096 of them, keep records replaced last (R160); of the others the newest goes (DESIGN CHOICE, log
entry 84). -/
def putScale (x : Tile) (r : ScaleRec) : Tile :=
  let l := x.scale.filter fun y => !(y.obj = r.obj && y.tenant = r.tenant && y.num = r.num)
  if l.length < 4096 then { x with scale := r :: l }
  else
    let rest := match l.findIdx? (fun y => !y.keep) with
      | some i => l.eraseIdx i
      | none => l.dropLast
    { x with scale := r :: rest }

/-- Bytes a unit or a record gives: a fault, or none while a pick that the access touches is not resident (R328). -/
abbrev Got := Option (Except Held (List Byte))

/-- A fault as a block holds it. -/
def Held.of (x : Trouble) : Held := { code := x.code, va := x.va, aux := x.aux, write := x.write }

/-- Bytes read by STR's fetch for the shuttle in focus, poison as the fault POISON (R154, R156, R382). -/
def strRead (s : State) (coded : Bool) (va n : Nat) : State × Got :=
  let q : Asker := { tenant := s.me.tenant, coded := coded, spec := true }
  match resolveAll s q .load va n with
  | (s1, .error x) => (s1, some (.error (Held.of x)))
  | (s1, .ok ps) =>
    let (s2, there) := if ps.any (fun p => match p.1 with
        | .dev _ => true
        | _ => false) then residentFor s1 s1.me.tenant va n else (s1, true)
    if !there then (s2, none)
    else
      let (s3, bs, bad) := readPieces s2 q ps
      if bad then (s3, if touchesLost s3 s3.me.tenant va n then none
        else some (.error (Held.of (poisonAt va ((ps.head?).elim (.host 0) (·.1))))))
      else (s3, some (.ok bs))

/-- The record of a unit in the tile's scale cache, for the shuttle in focus. -/
def cachedScale (s : State) (obj u : Nat) : Option ScaleRec :=
  s.tile.scale.find? (fun r => r.obj = obj && r.tenant = s.me.tenant && r.num = u)

/-- The two bytes of record u of an object, from the cache or from memory; a record wanted as "keep" becomes one (R159, R160). -/
def scaleFetch (s : State) (obj : Nat) (e : BitVec 256) (coded keep : Bool) (u : Nat) : State × Got :=
  match cachedScale s obj u with
  | some r =>
    (if keep && !r.keep then modTile s (fun t => { t with scale := t.scale.map fun y => if y = r then { r with keep := true } else y }) else s,
     some (.ok [r.b0, r.b1]))
  | none =>
    match strRead s coded (Obj.scaleBase e + u * Obj.scaleStride e) 2 with
    | (s1, some (.ok bs)) =>
      (modTile s1 (fun t => putScale t { obj := obj, tenant := s1.me.tenant, num := u, b0 := bs.getD 0 0, b1 := bs.getD 1 0, keep := keep }),
       some (.ok bs))
    | r => r

/-- The two bytes of a unit's scale record (R159, R160). -/
def scaleRecord (s : State) (x : Stream) (u : Nat) : State × Got :=
  scaleFetch s x.desc.obj x.entry (decide (x.desc.decode = 1)) x.desc.keep u

/-- The rate code of the record that a fetch of a segment would use now, for the lengths of a twill pattern; none for a record that cannot be
read now. -/
def knownRate (s : State) (obj : Nat) (e : BitVec 256) (off : Int) : Option Nat :=
  let u := off.toNat / 48
  match cachedScale s obj u with
  | some r => some (r.b1.toNat % 4)
  | none => (peekAt s { tenant := s.me.tenant, coded := true } (Obj.scaleBase e + u * Obj.scaleStride e) 2).map fun bs => (bs.getD 1 0).toNat % 4

/-- The rate code of a segment; one that is not known counts as 3 until a fetch has read its record. -/
def peekRate (s : State) (obj : Nat) (e : BitVec 256) (off : Int) : Nat := (knownRate s obj e off).getD 3

/-- Weights of a segment by its rate code; a segment with rate code 3 delivers none that arithmetic sees, and counts as 256 (R149). -/
def segWeights (rate : Nat) : Nat := (twN rate).getD 256

/-- The first weight of each segment of a twill pattern, and the number of weights in all. -/
def segStarts (s : State) (d : Desc) (e : BitVec 256) : List Nat × Nat :=
  (List.range (patternUnits d)).foldl (fun acc j => (acc.1 ++ [acc.2], acc.2 + segWeights (peekRate s d.obj e (unitOff d j)))) ([], 0)

/-- N: whole blocks of a DECODE 0 or 2 pattern; for twill the last block may be filled up (R148, R149), and the weights are counted from the
records as they stand: at the bind, and again as each block is fetched (DESIGN CHOICE, log entry 83). -/
def streamBlocks (s : State) (d : Desc) (e : BitVec 256) : Nat :=
  if d.decode = 1 then ((segStarts s d e).2 + d.rows * d.cols - 1) / (d.rows * d.cols) else patternUnits d / unitsPerBlock d

/-- N of a bound stream as its records stand now (R149). -/
def blocksNow (s : State) (x : Stream) : Nat := if x.desc.decode = 1 then streamBlocks s x.desc x.entry else x.n

/-! ### Fetching a block (R148 to R150, R156) -/

/-- Results of the units of a block, in unit order: the first fault is the block's (R156). -/
def gather (f : State → Nat → State × Option (Except Held (List Nat))) (s : State) : List Nat → State × Option (Except Held (List Nat))
  | [] => (s, some (.ok []))
  | j :: js =>
    match f s j with
    | (s1, none) => (s1, none)
    | (s1, some (.error h)) => (s1, some (.error h))
    | (s1, some (.ok xs)) =>
      match gather f s1 js with
      | (s2, some (.ok ys)) => (s2, some (.ok (xs ++ ys)))
      | r => r

/-- The VA of a byte offset within a stream's object. -/
def streamVa (x : Stream) (off : Int) : Nat :=
  ((if x.desc.obj = 0xFFFF then Config.localRange else Obj.base x.entry) + off).toNat

/-- The elements of one unit of a DECODE 0 stream. -/
def plainUnit (x : Stream) (s : State) (j : Nat) : State × Option (Except Held (List Nat)) :=
  match strRead s false (streamVa x (unitOff x.desc j)) (unitBytes x.desc) with
  | (s1, none) => (s1, none)
  | (s1, some (.error h)) => (s1, some (.error h))
  | (s1, some (.ok bs)) =>
    let v := natOfBytes bs
    (s1, some (.ok (if x.desc.format = 13 then [v % 16, v / 16] else [v])))

/-- The sixteen elements of one unit of a DECODE 2 stream, as FP32 encodings of their exact values (R208). -/
def b16Unit (x : Stream) (s : State) (j : Nat) : State × Option (Except Held (List Nat)) :=
  let off := unitOff x.desc j
  let m := b16OfFormat x.desc.format
  match strRead s false (streamVa x off) (unitBytes x.desc) with
  | (s1, none) => (s1, none)
  | (s1, some (.error h)) => (s1, some (.error h))
  | (s1, some (.ok bs)) =>
    match scaleRecord s1 x (off.toNat / unitBytes x.desc) with
    | (s2, none) => (s2, none)
    | (s2, some (.error h)) => (s2, some (.error h))
    | (s2, some (.ok r)) =>
      (s2, some (.ok ((List.range 16).map fun i =>
        (roundF32 (b16Value m (natOfBytes bs) (r.getD 0 0).toNat (r.getD 1 0).toNat i)).1)))

/-- The weights lo to hi − 1 of segment j, as BF16 encodings. A nonzero bit in [7:2] of the record is a fault of every block that uses it (R159); the
record's other faults belong to the block that holds the segment's first weight (R150, R226). -/
def twUnit (x : Stream) (s : State) (j lo hi : Nat) : State × Option (Except Held (List Nat)) :=
  let off := unitOff x.desc j
  let va := streamVa x off
  match strRead s true va 48 with
  | (s1, none) => (s1, none)
  | (s1, some (.error h)) => (s1, some (.error h))
  | (s1, some (.ok bs)) =>
    match scaleRecord s1 x (off.toNat / 48) with
    | (s2, none) => (s2, none)
    | (s2, some (.error h)) => (s2, some (.error h))
    | (s2, some (.ok r)) =>
      let e := (r.getD 0 0).toNat
      let b1 := (r.getD 1 0).toNat
      let rate := b1 % 4
      if b1 / 4 ≠ 0 ∨ (lo = 0 ∧ !twRecordOk e b1) then (s2, some (.error { code := .illegal, va := va }))
      else if lo = 0 ∧ x.desc.ratio * 48 < 256 * (2 * segWeights rate) then (s2, some (.error { code := .overrate, va := va }))
      else
        (s2, some (.ok ((List.range (Nat.min hi (segWeights rate) - lo)).map fun i =>
          (roundTo noTable .bf16 .rne (twDecode (natOfBytes bs) rate e (lo + i))).1)))

/-- The segments that hold weights of block b: segment, first and last + 1 weight within it. -/
def twPieces (s : State) (x : Stream) (b : Nat) : List (Nat × Nat × Nat) :=
  let u := x.desc.rows * x.desc.cols
  let st := segStarts s x.desc x.entry
  (List.range st.1.length).filterMap fun j =>
    let a := st.1.getD j 0
    let e := st.1.getD (j + 1) st.2
    let lo := Nat.max a (b * u)
    let hi := Nat.min e (b * u + u)
    if lo < hi then some (j, lo - a, hi - a) else none

/-- The first segment before some others whose rate is not known: a block after it has no place until its record is read (R149). -/
def unknownBefore (s : State) (x : Stream) (ps : List (Nat × Nat × Nat)) : Option Nat :=
  (List.range ((ps.head?).elim 0 (·.1))).find? fun j => (knownRate s x.desc.obj x.entry (unitOff x.desc j)).isNone

/-- The pieces of a twill block, after the record of the first earlier segment whose rate is not known: its fault is the block's. -/
def twBlock (s : State) (x : Stream) (b : Nat) : State × Option (Except Held (List Nat)) :=
  let ps := twPieces s x b
  let pieces (t : State) : State × Option (Except Held (List Nat)) :=
    gather (fun t i => let p := ps.getD i (0, 0, 0); twUnit x t p.1 p.2.1 p.2.2) t (List.range ps.length)
  match unknownBefore s x ps with
  | none => pieces s
  | some j =>
    match scaleRecord s x ((unitOff x.desc j).toNat / 48) with
    | (s1, none) => (s1, none)
    | (s1, some (.error h)) => (s1, some (.error h))
    | (s1, some (.ok _)) => pieces s1

/-- The block at a position, read afresh: its elements or the fault its earliest unit meets; none while a pick is not resident. -/
def readBlock (s : State) (x : Stream) (b : Nat) : State × Option Block :=
  let u := unitsPerBlock x.desc
  let r : State × Option (Except Held (List Nat)) :=
    if x.desc.decode = 1 then twBlock s x b
    else gather (if x.desc.decode = 2 then b16Unit x else plainUnit x) s ((List.range u).map (· + b * u))
  let size := x.desc.rows * x.desc.cols
  match r with
  | (s1, none) => (s1, none)
  | (s1, some (.error h)) => (s1, some { elems := [], held := some h })
  | (s1, some (.ok xs)) => (s1, some { elems := xs ++ List.replicate (size - xs.length) 0 })

/-- Is a class 0 copy of the shuttle in progress, before which its fetches do not perform (R163, R297)? -/
def classZeroCopy (h : Shuttle) : Bool := h.copies.any fun c => decide (c.kind ≠ .promote ∧ c.cls = 0)

/-- Is block SPOS of an output stream ordered behind a class 0 copy: handed over after its issue (R163)? -/
def outBehind (h : Shuttle) (r : BitVec 4) (x : Stream) : Bool :=
  h.copies.any fun c => decide (c.kind ≠ .promote ∧ c.cls = 0) && decide (c.marks.getD r.toNat 0 ≤ x.spos)

/-- The cycles of a wait for a stream's block that R70 counts: the bytes at 128 a cycle and a DRAM fill (R178, R363), a second fill for a scale
record, the twill addition; of an output block the bytes and a store to a home on the other die. -/
def plainWait (d : Desc) : Nat :=
  if d.out then (blockBytes d + 127) / 128 + 170
  else if d.decode = 0 then (blockBytes d + 127) / 128 + 3900
  else if d.decode = 1 then (48 * ((d.rows * d.cols + 255) / 256 + 1) + 127) / 128 + 7800 + 32
  else (blockBytes d + 127) / 128 + 7800

/-- Does an entry's budget count a cycle of a wait for blocks of these streams (R71)? Not on a parked stream; of a service that R70 does not count,
the part that R70 does count, the longest of those of the blocks. -/
def waitCounts (xs : List Stream) : Bool :=
  xs.all (fun x => !x.parked && !x.resid) && (xs.isEmpty || xs.any fun x => !x.slow || decide (x.waited < plainWait x.desc))

/-- A stream that waits for a pick (R328), or does so no more. -/
def markResid (s : State) (r : BitVec 4) (on : Bool) : State := modMe s (fun h => setS h r ((getS h r).map fun x => { x with resid := on }))

/-! ### The forwarding table of scratchpad writes (R298) -/

/-- The pieces of a run in a scratchpad, as a run of bytes each. -/
def scratchRuns (ps : List (Loc × Policy × Nat)) : List (Loc × Nat) :=
  ps.filterMap fun p => match p.1 with
    | .scratch _ _ => some (p.1, p.2.2)
    | _ => none

/-- The places in scratchpads that VAs lead the shuttle in focus to. -/
def scratchAt (s : State) (l : List (Nat × Nat)) : List (Loc × Nat) :=
  l.flatMap fun x => match (resolveAll s { tenant := s.me.tenant, coded := true } .load x.1 x.2).2 with
    | .ok ps => scratchRuns ps
    | .error _ => []

/-- The VAs of the units of a block of a stream, and of their scale records where it has any. -/
def blockVas (s : State) (x : Stream) (b : Nat) : List (Nat × Nat) :=
  let rec' (j : Nat) : Nat × Nat := (Obj.scaleBase x.entry + (unitOff x.desc j).toNat / unitBytes x.desc * Obj.scaleStride x.entry, 2)
  let units := if x.desc.decode = 1 then (twPieces s x b).map (·.1) else (List.range (unitsPerBlock x.desc)).map (· + b * unitsPerBlock x.desc)
  units.flatMap fun j => (streamVa x (unitOff x.desc j), unitBytes x.desc) :: (if x.desc.decode = 0 then [] else [rec' j])

/-- The scratchpad writes of the shuttle's STR that have issued and not performed, an entry each: output blocks and copy sectors. -/
def scratchWrites (s : State) : List (List (Loc × Nat)) :=
  (((List.range 16).map fun i => match getS s.me (BitVec.ofNat 4 i) with
      | some x => if x.desc.out && x.flying then scratchAt s (blockVas s x x.spos) else []
      | none => [])
    ++ s.me.copies.flatMap fun (c : CopyOp) => c.fly.map fun (y : Flying) => scratchRuns y.dst).filter fun l => !l.isEmpty

/-- Do such writes overlap these places? -/
def scratchPending (s : State) (ps : List (Loc × Nat)) : Bool :=
  !ps.isEmpty && (scratchWrites s).any fun l => l.any fun w => ps.any fun p => locOverlap w.1 w.2 p.1 p.2

/-- Has the table no entry for a write to these places? -/
def scratchFull (s : State) (ps : List (Loc × Nat)) : Bool := !ps.isEmpty && decide (8 ≤ (scratchWrites s).length)

/-! ### The fetch (R154, R156) -/

/-- May a fetch of block SPOS of a stream begin: up to eight blocks ahead, past no held fault, while the pool has room and nothing ordered
before it is in progress (R152, R154, R163)? -/
def mayFetch (s : State) (x : Stream) : Bool :=
  !x.desc.out && !x.flying && !x.parked && decide (x.spos - x.cpos < 8) && decide (x.spos < x.n) && !x.buf.any (·.held.isSome)
    && poolRoom s x.desc && !classZeroCopy s.me

/-- The stream that fetch serves next, round-robin by stream number after the one it served last (R154). -/
def fetchTurn (s : State) : Option Nat :=
  ((List.range 16).map fun i => (s.me.fetched + 1 + i) % 16).find? fun i => match getS s.me (BitVec.ofNat 4 i) with
    | some x => mayFetch s x && !scratchPending s (scratchAt s (blockVas s x x.spos))
    | none => false

/-- Does a VA lie in a HOST page of a tenant, or in a pick that is not in HBM (R70)? -/
def servedSlowly (s : State) (va n : Nat) : Bool :=
  (match walkHome s s.me.tenant va with
    | some e => leafHost e
    | none => false) || !(residentFor s s.me.tenant va n).2
    || (knownMaps s).any fun m => decide (m.tenant = s.me.tenant) && (picksTouched m va n).any fun p =>
        match tierEnt s m p with
        | some e => !(Tier.copy e 1 || Tier.copy e 2)
        | none => false

/-- STREAM_FETCH (R154): a fetch of block SPOS begins. -/
def execStreamFetch (q : Place) (r : BitVec 4) (s : State) : Host.Outcome State Fault Refusal :=
  let s1 := focus s q
  match getS s1.me r with
  | none => .next s1
  | some x =>
    if (s1.me.life = .running ∨ s1.me.life = .stopped) ∧ fetchTurn s1 = some r.toNat then
      let slow := (blockVas s1 x x.spos).any fun v => servedSlowly s1 v.1 v.2
      .next (modMe s1 (fun h => { setS h r (some { x with flying := true, slow := slow, waited := 0 }) with fetched := r.toNat }))
    else .next s1

/-- STREAM_BLOCK_FETCHED (R154, R156): the block in flight is fetched; a fault it met is held on it, and SPOS stays at it (R152, R268). -/
def execStreamBlockFetched (q : Place) (r : BitVec 4) (s : State) : Host.Outcome State Fault Refusal :=
  let s1 := focus s q
  match getS s1.me r with
  | none => .next s1
  | some x =>
    if x.desc.out ∨ !x.flying then .next s1
    else match readBlock s1 x x.spos with
      | (s2, none) => .next (markResid s2 r true)
      | (s2, some b) => .next (modMe s2 (fun h => setS h r (some { x with
          n := blocksNow s2 x, flying := false, slow := false, resid := false, buf := x.buf ++ [b], spos := if b.held.isSome then x.spos else x.spos + 1 })))

/-! ### Popping blocks (R153, R156) -/

/-- A record that names a stream (R373). -/
def streamRec (r : BitVec 4) (x : Stream) (h : Held) : FaultRec :=
  { stream := r.toNat, obj := x.desc.obj, va := h.va, cpos := x.cpos, spos := x.spos, aux := h.aux }

/-- The record of an abort over a stream that has failed: the fault that failed it (R157, R373). -/
def failedRec (r : BitVec 4) (x : Stream) (c : Code) : FaultRec := streamRec r x { code := c, va := x.failVa, aux := x.failAux }

/-- Does a fault park (R156, R164)? -/
def parks (c : Code) : Bool := decide (c = .xlate ∨ c = .hostpage)

/-- An input stream parks at CPOS with one record (R156). -/
def parkInput (s : State) (e : Eng) (r : BitVec 4) (x : Stream) (h : Held) : State :=
  let c := curOf s.me e
  let (s1, n) := postMine s { streamRec r x h with code := h.code, eng := engNum e, codepos := codePos c.line c.slot,
                                                   card := c.card.getD 0xFF } h.write
  modMe s1 (fun m => setS m r (some { x with
    parked := true, parkSeq := n, parkHost := decide (h.code = .hostpage), buf := [], spos := x.cpos, flying := false, slow := false,
    resid := false }))

/-- What an instruction about to pop finds at an input stream (R153, R156). -/
inductive Peek where
  | block (b : Block) (x : Stream)
  /-- It is not fetched. -/
  | wait
  /-- It holds a parking fault. -/
  | park (x : Stream) (h : Held)
  /-- It holds an aborting fault. -/
  | held (c : Code) (r : FaultRec)
  /-- There is no such block to wait for. -/
  | stop (c : Code) (r : FaultRec)

/-- What a block that holds a fault gives the instruction that is to pop it (R156). -/
def heldPeek (r : BitVec 4) (x : Stream) (f : Held) : Peek := if parks f.code then .park x f else .held f.code (streamRec r x f)

/-- Block CPOS + k of an input stream, as an instruction about to pop looks at it (R153, R156). A block behind one that holds a fault is not
fetched, and the instruction, which pops that one too, meets its fault. -/
def peekBlock (h : Shuttle) (r : BitVec 4) (k : Nat) : Peek :=
  match getS h r with
  | none => .stop .illegal {}
  | some x =>
    if x.desc.out then .stop .illegal {}
    else if x.n ≤ x.cpos + k then .stop .bounds (streamRec r x { code := .bounds, va := 0 })
    else match x.buf[k]? with
      | none => (firstSome (·.held) x.buf).elim .wait (heldPeek r x)
      | some b => b.held.elim (.block b x) (heldPeek r x)

/-- What an instruction finds at all the blocks it is to pop, in slot order. -/
inductive Found where
  | ready (l : List (Block × Stream))
  /-- Blocks of these streams are not fetched. -/
  | wait (rs : List (BitVec 4))
  | park (r : BitVec 4) (x : Stream) (h : Held)
  | held (c : Code) (r : FaultRec)
  | stop (c : Code) (r : FaultRec)

/-- The blocks of an instruction, `seen` being the streams that earlier slots name. An instruction is not ready until every block it pops
is fetched; only then is a fault raised (R17, R153, R156, R188), an aborting one or the end of a stream before a parking one, of two alike the
earlier slot's (DEDUCED, log entry 87). A register that is no input stream fails before anything is waited for (R48). -/
def peekAll (h : Shuttle) (seen : List (BitVec 4)) : List (BitVec 4) → Found
  | [] => .ready []
  | r :: rest =>
    match peekBlock h r (seen.count r), peekAll h (r :: seen) rest with
    | .stop .illegal y, _ => .stop .illegal y
    | _, .stop .illegal y => .stop .illegal y
    | .wait, .wait l => .wait (r :: l)
    | .wait, _ => .wait [r]
    | _, .wait b => .wait b
    | .stop c y, _ => .stop c y
    | .held c y, _ => .held c y
    | _, .stop c y => .stop c y
    | _, .held c y => .held c y
    | .park x f, _ => .park r x f
    | _, .park q x f => .park q x f
    | .block b x, .ready l => .ready ((b, x) :: l)

/-- A cycle of a wait for blocks of these streams of the shuttle in focus. -/
def noteWait (s : State) (rs : List (BitVec 4)) : State :=
  modMe s (fun h => rs.eraseDups.foldl (fun h r => setS h r ((getS h r).map fun x => { x with waited := x.waited + 1 })) h)

/-- A wait of an engine instruction, counted or not (R71). -/
def waitRes (s : State) (counts : Bool) : EngRes := if counts then .stall s else .hold s

/-- An engine instruction waits for blocks of these streams. -/
def waitBlocks (s : State) (rs : List (BitVec 4)) : EngRes := waitRes (noteWait s rs) (waitCounts (rs.filterMap (getS s.me)))

/-- An instruction that goes on with the blocks it pops, or waits, parks its stream or aborts its entry. -/
def withBlocks (s : State) (e : Eng) (rs : List (BitVec 4)) (f : List (Block × Stream) → EngRes) : EngRes :=
  match peekAll s.me [] rs with
  | .ready l => f l
  | .wait rs => waitBlocks s rs
  | .park r x h => .hold (parkInput s e r x h)
  | .held c y => .abort s c y
  | .stop c y => .abort s c y

/-- A stream's oldest block committed (R153). -/
def commitBlock (h : Shuttle) (r : BitVec 4) : Shuttle :=
  match getS h r with
  | none => h
  | some x => setS h r (some { x with buf := x.buf.drop 1, cpos := x.cpos + 1 })

/-! ### Handing blocks over (R153, R157) -/

/-- A block handed to an output stream: an abort where the stream failed or is at its end, a wait while the pool is full. The
elements are the block's, row by row. -/
def handOver (s : State) (r : BitVec 4) (x : Stream) (elems : List Nat) : EngRes :=
  match x.failed with
  | some c => .abort s c (failedRec r x c)
  | none =>
    if x.n ≤ x.cpos then .abort s .bounds (streamRec r x { code := .bounds, va := 0 })
    else if !poolRoom s x.desc then waitBlocks s [r]
    else .done (modMe s (fun h => setS h r (some { x with buf := x.buf ++ [{ elems := elems }], cpos := x.cpos + 1 })))

/-- The bytes of unit i of an output block. -/
def outUnit (x : Stream) (b : Block) (i : Nat) : List Byte :=
  if x.desc.format = 13 then [BitVec.ofNat 8 (b.elems.getD (2 * i) 0 % 16 + b.elems.getD (2 * i + 1) 0 % 16 * 16)]
  else bytesOf (unitBytes x.desc) (b.elems.getD i 0)

/-- Where the units of the block at SPOS lie, in unit order, or the first fault met on them; none while a pick is not resident. -/
def outPieces (x : Stream) (s : State) : List Nat → State × Option (Except Trouble (List (Nat × List (Loc × Policy × Nat))))
  | [] => (s, some (.ok []))
  | i :: is =>
    let va := streamVa x (unitOff x.desc (x.spos * unitsPerBlock x.desc + i))
    let q : Asker := { tenant := s.me.tenant }
    match resolveAll s q .store va (unitBytes x.desc) with
    | (s1, .error t) => (s1, some (.error t))
    | (s1, .ok ps) =>
      let (s2, there) := if ps.any (fun p => match p.1 with
          | .dev _ => true
          | _ => false) then residentFor s1 s1.me.tenant va (unitBytes x.desc) else (s1, true)
      if !there then (s2, none)
      else match outPieces x s2 is with
        | (s3, some (.ok rest)) => (s3, some (.ok ((i, ps) :: rest)))
        | r => r

/-- The device bytes of some pieces. -/
def devBytes (ps : List (Loc × Policy × Nat)) : List Nat :=
  ps.flatMap fun p => match p.1 with
    | .dev a => (List.range p.2.2).map (· + a)
    | _ => []

/-- The tiles that a write of some pieces passes through to their seal at once, so that the rest of each is read and verified first: the access
does not allocate, and neither the L2 nor the MSC holds the place (R356, R370). -/
def sealedAtOnce (s : State) (ps : List (Loc × Policy × Nat)) : List Nat :=
  (ps.filterMap fun p => match p.1 with
    | .dev a => if !p.2.1.alloc && decide (p.2.1.msc = 1) && !(s.mem.msc.any fun x => x.tile = a / 6144)
        && !(s.mem.l2.any fun x => x.line = a / 192) then some (a / 6144) else none
    | _ => none).foldl insertNat []

/-- The read-verify-modify of a tile that a block's write needs meets POISON: a poisoned sector of a tile of STATE 2 that the block covers only in
part, or, where the tile is sealed at once, any poisoned sector that it does not cover (R157, R382, R383). -/
def partPoison (s : State) (ps : List (Loc × Policy × Nat)) : Option Trouble :=
  let bytes := devBytes ps
  let whole (k : Nat) : Bool := (List.range 48).all fun i => (48 * k + i) ∈ bytes
  let once := sealedAtOnce s ps
  let bad (T k : Nat) : Option Trouble :=
    if k ∈ s.mem.poison ∧ (sealMeta s.mem T).state = 2 ∧ !whole k then some { code := .poison, va := 0, aux := T } else none
  match firstSome (fun a => bad (a / 6144) (a / 48)) bytes with
  | some t => some t
  | none => firstSome (fun T => firstSome (fun i => bad T (128 * T + i)) (List.range 128)) once

/-- The tiles that a write is to pass through to their seal at once read and verified (R356, R381). -/
def verifyAtOnce (s : State) (ps : List (Loc × Policy × Nat)) : State :=
  (sealedAtOnce s ps).foldl (fun st T => (verifyTile st st.me.tenant false T).1) s

/-- Is a write one that R70 leaves out of a drain's figure: to a HOST page, or of part of a sealed tile? -/
def writtenSlowly (s : State) (ps : List (Loc × Policy × Nat)) : Bool :=
  ps.any fun p => match p.1 with
    | .host _ => true
    | .dev a => (sealMeta s.mem (a / 6144)).state = 1 && decide (p.2.2 < 6144)
    | _ => false

/-- The fault of an output stream's write: it parks or fails, with one record (R157). -/
def outFault (s : State) (r : BitVec 4) (x : Stream) (t : Trouble) : State :=
  let (s1, n) := postMine s { streamRec r x (Held.of t) with code := t.code, eng := 1 } t.write
  modMe s1 (fun m => setS m r (some (if parks t.code then { x with
      parked := true, parkSeq := n, parkHost := decide (t.code = .hostpage), flying := false, slow := false, resid := false }
    else { x with failed := some t.code, failVa := t.va, failAux := t.aux, flying := false, slow := false, resid := false })))

/-- What the write of an output stream's oldest block meets: pieces with their units, or the fault. -/
def outCheck (s : State) (x : Stream) : State × Option (Except Trouble (List (Nat × List (Loc × Policy × Nat)))) :=
  match outPieces x s (List.range (unitsPerBlock x.desc)) with
  | (s0, some (.ok us)) =>
    let s1 := verifyAtOnce s0 (us.flatMap (·.2))
    match partPoison s1 (us.flatMap (·.2)) with
    | some t => (s1, some (.error { t with va := streamVa x (unitOff x.desc (x.spos * unitsPerBlock x.desc)) }))
    | none =>
      if us.any (fun u => u.2.any fun p => holdFull s1.me p.1 ((unitsPerBlock x.desc - x.part) * unitBytes x.desc)) then
        (s1, some (.error { code := .bounds, va := streamVa x (unitOff x.desc (x.spos * unitsPerBlock x.desc)) }))
      else (s1, some (.ok us))
  | r => r

/-- The number by which a stream's remote stores are known. -/
def streamMark (r : BitVec 4) : Nat := 64 + r.toNat

/-- OUTPUT_BLOCK_WRITE (R157): the write of the oldest handed block issues, in block order; its bytes for a fabric window leave, unless a paired
shuttle is to hold them (R405). -/
def execOutputBlockWrite (q : Place) (r : BitVec 4) (s : State) : Host.Outcome State Fault Refusal :=
  let s1 := focus s q
  match getS s1.me r with
  | none => .next s1
  | some x =>
    match x.buf with
    | [] => .next s1
    | b :: _ =>
      if !x.desc.out ∨ x.flying ∨ x.parked ∨ x.failed.isSome ∨ outBehind s1.me r x then .next s1
      else match outCheck s1 x with
        | (s2, none) => .next (markResid s2 r true)
        | (s2, some (.error t)) => .next (outFault s2 r x t)
        | (s2, some (.ok us)) =>
          if scratchFull s2 (scratchRuns (us.flatMap (·.2))) then .next s2
          else
            let s3 := (us.filter fun u => decide (x.part ≤ u.1)).foldl (fun st u => u.2.foldl (fun st p => match p.1 with
              | .fabric w off =>
                if st.me.paired then st else sendRemote st st.me.tenant w off (outUnit x b u.1) false (some (streamMark r, x.spos))
              | _ => st) st) s2
            .next (modMe s3 (fun h => setS h r (some { x with flying := true, resid := false, waited := 0, slow := writtenSlowly s2 (us.flatMap (·.2)) })))

/-- The end of an output stream that `sunbind` drains: it is unbound and its tag set (R12). -/
def drainEnds (h : Shuttle) (r : BitVec 4) : Shuttle :=
  match getS h r with
  | some x =>
    match x.drainTag with
    | some t => if x.spos = x.cpos then setReady (setS h r none) t else h
    | none => h
  | none => h

/-- The units of a block, from the first that has not performed, that lie in the 48-byte sector where it begins (R161, R162). -/
def sectorUnits (x : Stream) : List Nat :=
  let n := unitsPerBlock x.desc
  let sector (i : Nat) : Nat := streamVa x (unitOff x.desc (x.spos * n + i)) / 48
  ((List.range n).drop x.part).takeWhile fun i => sector i = sector x.part

/-- OUTPUT_WRITE_PERFORMED (R12, R152, R157, R161): the next sector of the block in flight performs at its home, and the tag of a drain
counts its bytes; with the block's last, SPOS and the end of a drain follow. -/
def execOutputWritePerformed (q : Place) (r : BitVec 4) (s : State) : Host.Outcome State Fault Refusal :=
  let s1 := focus s q
  match getS s1.me r with
  | none => .next s1
  | some x =>
    match x.buf with
    | [] => .next s1
    | b :: rest =>
      if !x.desc.out ∨ !x.flying ∨ s1.fabric.stores.any (fun f => f.2.place = q && f.2.copyTag.any fun c => c.1 = streamMark r) then .next s1
      else match outCheck s1 x with
        | (s2, none) => .next (markResid s2 r true)
        | (s2, some (.error t)) => .next (outFault s2 r x t)
        | (s2, some (.ok us)) =>
          let asker : Asker := { tenant := s2.me.tenant }
          let now := sectorUnits x
          let s3 := (us.filter fun u => u.1 ∈ now).foldl (fun st u =>
            if !st.me.paired ∧ u.2.any (fun p => inFabric p.1) then st else writePieces st asker u.2 (outUnit x b u.1) false) s2
          let n := now.length * unitBytes x.desc
          let last := decide (unitsPerBlock x.desc ≤ x.part + now.length)
          .next (modMe s3 (fun h =>
            let y := { x with written := x.written + n, resid := false }
            let h1 := setS h r (some (if last then { y with flying := false, slow := false, part := 0, buf := rest, spos := x.spos + 1 }
              else { y with part := x.part + now.length }))
            let h2 := match x.drainTag with
              | some t => addTagBytes h1 t n
              | none => h1
            drainEnds h2 r))

end Sys2Proof.Machine
end

