-- ==== Sys2Proof/Machine/Copies.lean ====
section
/-! DEFINITION. The instructions of STR but for promotions and landing zones (R166 to R176), and the movement of copies (R161 to R165,
R366, R367). -/
namespace Sys2Proof.Machine

/-- The class and hint fields of an STR instruction. -/
def strInstr (c : Ctl) (body : State → EngRes) (s : State) : Host.Outcome State Fault Refusal := uniformInstr .str c body s

/-- An abort whose record names an object and a VA. -/
def refStop (s : State) (c : Code) (w : Word) : EngRes := .abort s c { obj := bitsOf w.toNat 63 48, va := bitsOf w.toNat 47 0 }

/-! ### Binding (R151, R167) -/

/-- The value of an optional k operand. -/
def optK (h : Shuttle) (k : Option (BitVec 2)) : Option Word := k.map (kVal h .str)

/-- A descriptor with the operands of `sbind` applied (R167). -/
def adjustDesc (d : Desc) (kc kd : Option Word) : Desc :=
  let d1 := match kc with
    | some w => { d with offset := (d.offset + w.toNat) % 2 ^ 48 }
    | none => d
  match kd with
  | some w =>
    let n := w.toNat % 2 ^ 32
    if n = 0 then d1 else { d1 with counts := d1.counts.set (d1.ndims - 1) n }
  | none => d1

/-- The use an `sbind` makes of its object. -/
def bindUse (d : Desc) (dec : Nat) : ObjUse :=
  if dec = 1 then .streamTw else if dec = 2 then .streamB16 else if d.out then .streamOut else .streamIn

/-- The checks of R151 in their order, and the stream they bind. -/
def checkBind (s : State) (n : Nat) (kc kd : Option Word) (dec : Nat) : State × Except (Code × Nat) Stream :=
  let k := s.me.kern
  if k.nStream ≤ n then (s, .error (.bounds, 0xFFFF))
  else match homeBytes s s.me.tenant (k.base + k.strOff + 64 * n) 64 with
    | none => (s, .error (.xlate, 0xFFFF))
    | some bs =>
      let (d0, zero) := parseDesc bs
      let d := adjustDesc d0 kc kd
      if !zero ∨ d.decode ≠ dec ∨ (d.out ∧ d.decode ≠ 0) ∨ !shapeOk d then (s, .error (.bounds, d.obj))
      else match useObj s (bindUse d dec) d.obj with
        | (s1, .error c) => (s1, .error (c, d.obj))
        | (s1, .ok e) =>
          if d.obj ≠ 0xFFFF ∧ Obj.format e ≠ d.format then (s1, .error (.rights, d.obj))
          else if !patternInside d (if d.obj = 0xFFFF then scratchTop s1.tile else Obj.size e) then (s1, .error (.bounds, d.obj))
          else if qcwDepth (poolQcw s1) < poolElems s1 d then (s1, .error (.bounds, d.obj))
          else (s1, .ok { desc := d, entry := e, n := streamBlocks s1 d e })

/-- Blocks handed to a new binding come after the class 0 copies in progress (R163). -/
def clearMarks (h : Shuttle) (r : BitVec 4) : Shuttle :=
  { h with copies := h.copies.map fun c => { c with marks := c.marks.set r.toNat 0 } }

/-- A stream register that has failed, with its code. -/
def failedAt (h : Shuttle) (r : BitVec 4) : Option (Stream × Code) := (getS h r).bind fun x => x.failed.map fun c => (x, c)

/-- A record that names a stream register: the stream bound there with its positions, or an unbound one (R373). -/
def nameStream (h : Shuttle) (r : BitVec 4) : FaultRec :=
  match getS h r with
  | some x => streamRec r x { code := .bounds, va := 0 }
  | none => { stream := r.toNat }

/-- The meaning of the three `sbind` forms (R151, R167); a pool of DEPTH 0 is ILLEGAL (R35). A failed output stream's code is raised before the
checks of R151 (DESIGN CHOICE, log entry 116). -/
def bindBody (r : BitVec 4) (n : BitVec 7) (kc kd : Option (BitVec 2)) (dec : Nat) (s : State) : EngRes :=
  if qcwDepth (poolQcw s) = 0 then .abort s .illegal (nameStream s.me r)
  else match failedAt s.me r with
  | some (x, c) => .abort s c (failedRec r x c)
  | none =>
    match checkBind s n.toNat (optK s.me kc) (optK s.me kd) dec with
    | (s1, .error (c, obj)) => .abort s1 c { nameStream s1.me r with obj := obj }
    | (s1, .ok x) =>
      let pending := match getS s1.me r with
        | some y => y.desc.out && decide (y.spos ≠ y.cpos)
        | none => false
      if pending then waitBlocks s1 [r] else .done (modMe s1 (fun h => setS (clearMarks h r) r (some x)))

/-- `sbind` (R167). -/
def execSbind (c : Ctl) (r : BitVec 4) (d : BitVec 7) (kc kd : Option (BitVec 2)) (s : State) : Host.Outcome State Fault Refusal :=
  strInstr c (bindBody r d kc kd 0) s
/-- `sbind.tw` (R167). -/
def execSbindTw (c : Ctl) (r : BitVec 4) (d : BitVec 7) (kc kd : Option (BitVec 2)) (s : State) : Host.Outcome State Fault Refusal :=
  strInstr c (bindBody r d kc kd 1) s
/-- `sbind.b16` (R167). -/
def execSbindB16 (c : Ctl) (r : BitVec 4) (d : BitVec 7) (kc kd : Option (BitVec 2)) (s : State) : Host.Outcome State Fault Refusal :=
  strInstr c (bindBody r d kc kd 2) s

/-! ### Unbinding and seeking (R12, R168, R169) -/

/-- Is a tag held (R161)? -/
def tagHeld (h : Shuttle) (t : Nat) : Bool := (heldTags h).getLsbD t
/-- A tag taken: its ready bit cleared, its byte count set (R161). -/
def takeTag (h : Shuttle) (t n : Nat) : Shuttle := setTagBytes (clearReady h t) t n

/-- The tag operand of `sunbind`, none for −1. -/
def tagOperand (t : BitVec 7) : Option Nat := if t.toNat < 64 then some t.toNat else none

/-- `sunbind` (R12, R168, R177). With a tag, that of an output stream takes the tag, then waits until the stream has drained and is
unbound; if the stream fails meanwhile, the entry is aborted and the tag released with its bit clear. Where the watchdog aborts the entry, the drain
goes on under its tag, and a later tagged one of the stream takes it over (DESIGN CHOICE, log entry 112). -/
def execSunbind (c : Ctl) (r : BitVec 4) (tag : BitVec 7) (s : State) : Host.Outcome State Fault Refusal :=
  strInstr c (fun t =>
    match failedAt t.me r with
    | some (x, code) => .abort (modMe t (fun h => setS h r (some { x with drainTag := none }))) code (failedRec r x code)
    | none =>
      match getS t.me r, tagOperand tag with
      | none, none => .done t
      | none, some n =>
        if (curOf t.me .str).begun then .done t
        else if tagHeld t.me n then .stall t else .done (modMe t (fun h => setReady (takeTag h n 0) n))
      | some x, none =>
        if x.desc.out ∧ x.spos ≠ x.cpos then waitBlocks t [r] else .done (modMe t (fun h => setS h r none))
      | some x, some n =>
        if (curOf t.me .str).begun then waitBlocks t [r]
        else if tagHeld t.me n then .stall t
        else if !x.desc.out then .done (modMe t (fun h => setReady (takeTag (setS h r none) n 0) n))
        else
          let u := modMe t (fun h => drainEnds (takeTag (setS h r (some { x with drainTag := some n })) n x.written) r)
          if (getS u.me r).isNone then .done u
          else waitBlocks (modMe u (fun h => modCur h .str (fun c => { c with begun := true }))) [r]) s

/-- `sseek` (R169). -/
def execSseek (c : Ctl) (r : BitVec 4) (x : KOrImm) (s : State) : Host.Outcome State Fault Refusal :=
  strInstr c (fun t =>
    match getS t.me r with
    | some y =>
      if y.desc.out then .abort t .bounds (nameStream t.me r)
      else
        let n := blocksNow t y
        let p := Nat.min (kOrImmVal t.me .str x).toNat n
        .done (modMe t (fun h => setS h r (some { y with
          n := n, cpos := p, spos := p, buf := [], parked := false, resid := false, flying := false, slow := false })))
    | none => .abort t .bounds { stream := r.toNat }) s

/-! ### Accepting a copy (R161, R163, R164) -/

/-- The positions of the output streams, before which a copy of class 0 does not begin (R163). -/
def outMarks (h : Shuttle) : List Nat := h.s.toList.map fun x => match x with
  | some st => if st.desc.out then st.cpos else 0
  | none => 0

/-- The arrival number of a request to the encoders, after those of every request that stands (R174). -/
def nextArrival (s : State) : Nat :=
  1 + (allShuttles s).foldl (fun n h => h.copies.foldl (fun n c => if c.kind = .stwenc then Nat.max n c.arrival else n) n) 0

/-- A copy accepted under its tag: it waits for the tag's holder, takes the tag, and completes (R161, R166). -/
def acceptCopy (s : State) (x : CopyOp) : EngRes :=
  if tagHeld s.me x.tag then .stall s
  else .done (modMe s (fun h => finishCopies { takeTag h x.tag 0 with copies := h.copies ++ [{ x with
      marks := outMarks h, codepos := codePos (curOf h .str).line (curOf h .str).slot, arrival := nextArrival s }] }))

/-- Do two spans of bytes share a byte? -/
def spansMeet (a n b m : Nat) : Bool := decide (n ≠ 0) && decide (m ≠ 0) && decide (a < b + m) && decide (b < a + n)

/-- Two references taken, for a destination and a source. -/
def takeRefs (s : State) (d : ObjUse × Word) (r : ObjUse × Word) : State × Except (Code × Word) (Ref × Ref) :=
  match takeRef s d.1 d.2 with
  | (s1, .error c) => (s1, .error (c, d.2))
  | (s1, .ok x) =>
    match takeRef s1 r.1 r.2 with
    | (s2, .error c) => (s2, .error (c, r.2))
    | (s2, .ok y) => (s2, .ok (x, y))

/-- The tag operand of a copy. -/
def tagNat (t : BitVec 7) : Nat := t.toNat % 64

/-- `scopy` (R170). -/
def execScopy (c : Ctl) (tag : BitVec 7) (kd ks : BitVec 2) (n : KOrImm) (s : State) : Host.Outcome State Fault Refusal :=
  strInstr c (fun t =>
    let d := kVal t.me .str kd
    let r := kVal t.me .str ks
    let len := (kOrImmVal t.me .str n).toNat
    match takeRefs t (.dest, d) (.source, r) with
    | (t1, .error (code, w)) => refStop t1 code w
    | (t1, .ok (x, y)) =>
      if !refHolds t1 x len then refStop t1 .bounds d
      else if !refHolds t1 y len then refStop t1 .bounds r
      else if spansMeet (refVa x) len (refVa y) len then refStop t1 .bounds d
      else acceptCopy t1 { kind := .copy, tag := tagNat tag, dst := x, src := y, rows := if len = 0 then 0 else 1, width := len,
                           cls := c.cls.toNat, hint := c.hint.toNat, issued := decide (len = 0) }) s

/-- Rows and row bytes of a `kG` operand; none where its top bits are not 0 (R170). -/
def rowsOf (g : Word) : Option (Nat × Nat) :=
  if bitsOf g.toNat 63 48 ≠ 0 then none else some (bitsOf g.toNat 47 32, bitsOf g.toNat 31 0)

/-- `scopy.2d` (R170). -/
def execScopy2d (c : Ctl) (tag : BitVec 7) (kd ks kg kh : BitVec 2) (s : State) : Host.Outcome State Fault Refusal :=
  strInstr c (fun t =>
    let d := kVal t.me .str kd
    let r := kVal t.me .str ks
    let hh := (kVal t.me .str kh).toNat
    match rowsOf (kVal t.me .str kg) with
    | none => .abort t .bounds {}
    | some (rows, w) =>
      match takeRefs t (.dest, d) (.source, r) with
      | (t1, .error (code, x)) => refStop t1 code x
      | (t1, .ok (x, y)) =>
        let empty := decide (rows = 0 ∨ w = 0)
        let dn := if empty then 0 else (rows - 1) * bitsOf hh 31 0 + w
        let sn := if empty then 0 else (rows - 1) * bitsOf hh 63 32 + w
        if !refHolds t1 x dn then refStop t1 .bounds d
        else if !refHolds t1 y sn then refStop t1 .bounds r
        else if spansMeet (refVa x) dn (refVa y) sn then refStop t1 .bounds d
        else acceptCopy t1 { kind := .copy2d, tag := tagNat tag, dst := x, src := y, rows := rows, width := w, dstride := bitsOf hh 31 0,
                             sstride := bitsOf hh 63 32, cls := c.cls.toNat, hint := c.hint.toNat, issued := empty }) s

/-- `sfill` (R170). -/
def execSfill (c : Ctl) (tag : BitVec 7) (kd : BitVec 2) (n : KOrImm) (kv : BitVec 2) (s : State) : Host.Outcome State Fault Refusal :=
  strInstr c (fun t =>
    let d := kVal t.me .str kd
    let len := (kOrImmVal t.me .str n).toNat
    match takeRef t .dest d with
    | (t1, .error code) => refStop t1 code d
    | (t1, .ok x) =>
      if !refHolds t1 x len then refStop t1 .bounds d
      else acceptCopy t1 { kind := .fill, tag := tagNat tag, dst := x, width := len, value := (kVal t.me .str kv).toNat,
                           cls := c.cls.toNat, hint := c.hint.toNat, issued := decide (len = 0) }) s

/-- The indices of an array as they stand at issue, for the overlap test alone (R164); one that does not translate names no row yet. -/
def peekIndices (s : State) (r : Ref) (n : Nat) : List Nat :=
  (List.range n).filterMap fun i => (peekAt s { tenant := s.me.tenant } (refVa r + 4 * i) 4).map natOfBytes

/-- First and past-last byte of the rows that indices name, from a base. -/
def indexSpan (base w : Nat) (l : List Nat) : Nat × Nat :=
  match l with
  | [] => (base, 0)
  | i :: is =>
    let lo := is.foldl Nat.min i
    let hi := is.foldl Nat.max i
    (base + lo * w, (hi - lo) * w + w)

/-- A gather or a scatter (R170): `moved` is the reference that the indices address, `flat` the one whose rows lie in order. -/
def indexed (c : Ctl) (scatter : Bool) (tag : BitVec 7) (kd ks ki kg : BitVec 2) (s : State) : Host.Outcome State Fault Refusal :=
  strInstr c (fun t =>
    let d := kVal t.me .str kd
    let r := kVal t.me .str ks
    let i := kVal t.me .str ki
    match rowsOf (kVal t.me .str kg) with
    | none => .abort t .bounds {}
    | some (rows, w) =>
      match takeRefs t (.dest, d) (.source, r) with
      | (t1, .error (code, x)) => refStop t1 code x
      | (t1, .ok (x, y)) =>
        match takeRef t1 .source i with
        | (t2, .error code) => refStop t2 code i
        | (t2, .ok z) =>
          let empty := decide (rows = 0 ∨ w = 0)
          let flat := if scatter then y else x
          let moved := if scatter then x else y
          let n := if empty then 0 else rows * w
          let sp := indexSpan (refVa moved) w (if empty then [] else peekIndices t2 z rows)
          if !refHolds t2 flat n then refStop t2 .bounds (if scatter then r else d)
          else if !refHolds t2 z (if empty then 0 else 4 * rows) then refStop t2 .bounds i
          else if spansMeet (refVa flat) n sp.1 sp.2 then refStop t2 .bounds d
          else acceptCopy t2 { kind := if scatter then .scatter else .gather, tag := tagNat tag, dst := x, src := y, idx := z, rows := rows,
                               width := w, dstride := w, sstride := w, cls := c.cls.toNat, hint := c.hint.toNat, issued := empty }) s

/-- `sgather` (R170). -/
def execSgather (c : Ctl) (tag : BitVec 7) (kd ks ki kg : BitVec 2) (s : State) : Host.Outcome State Fault Refusal :=
  indexed c false tag kd ks ki kg s
/-- `sscatter` (R170). -/
def execSscatter (c : Ctl) (tag : BitVec 7) (kd ks ki kg : BitVec 2) (s : State) : Host.Outcome State Fault Refusal :=
  indexed c true tag kd ks ki kg s

/-! ### Movement (R162 to R164, R366, R367) -/

/-- The copy of a tag. -/
def copyOf (h : Shuttle) (tag : Nat) : Option CopyOp := h.copies.find? fun c => c.tag = tag

/-- The offset within the object of the row in hand, on the destination and the source side. -/
def rowOffs (c : CopyOp) : Nat × Nat :=
  let k := c.index.getD 0
  (c.dst.off + (if c.kind = .scatter then k else c.row) * c.dstride, c.src.off + (if c.kind = .gather then k else c.row) * c.sstride)

/-- The tile that a stopped copy's buffer holds sectors of last, to be sealed at the stop (R367). -/
def stopTile (c : CopyOp) : Option Nat := c.buffered.getLast?.map fun x => flyPa x / 6144

/-- The tile whose seal the record of a stopped copy names: the one that its buffer held last, or, where the buffer is empty, the destination tile
of a copy that goes to one (R367, R373). -/
def recTile (s : State) (c : CopyOp) : Option Nat :=
  match stopTile c with
  | some T => some T
  | none =>
    let va := refBase c.dst + (rowOffs c).1 + c.pos
    match walkFresh s s.me.tenant va with
    | some e => if c.hint = 1 ∧ leafMscp e = 1 ∧ !leafHost e then some (leafAddr e va / 6144) else none
    | none => none

/-- A record for a copy (R366, R373): the instruction that issued it, sectors done at the head, sectors asked for, TAGBYTES, and the seal of
the destination tile that the stop sealed. -/
def copyRec (s : State) (c : CopyOp) (tile : Option Nat) (h : Held) : FaultRec :=
  let lead := ((List.range (c.next + 1)).find? fun i => i ∉ c.doneSet).getD c.next
  { code := h.code, eng := 1, tag := c.tag, obj := c.dst.obj, va := h.va, cpos := lead, spos := c.next + 1, codepos := c.codepos,
    sealed := tile.elim 0 fun T => sealField (sealMeta s.mem T),
    tagBytes := s.me.tagBytes.toList.getD c.tag 0, aux := h.aux }

/-- A stopped copy whose flying sectors are done: its buffers are sealed, its record is written, and it parks or fails (R164, R366,
R367). -/
def copyStops (s : State) (tag : Nat) : State :=
  match copyOf s.me tag with
  | none => s
  | some c =>
    match c.stop with
    | none => s
    | some h =>
      if !c.fly.isEmpty then s
      else
        let s1 := flushCopy s s.me.place tag
        match copyOf s1.me tag with
        | none => s1
        | some c1 =>
          if !c1.buffered.isEmpty then s1
          else
            let (s2, n) := postMine s1 (copyRec s1 c1 (recTile s c) h) h.write
            if parks h.code then modMe s2 (fun m => modCopy m tag (fun x => { x with
                parked := true, parkSeq := n, parkHost := decide (h.code = .hostpage), stop := none }))
            else modMe s2 (fun m => { m with
              copies := m.copies.filter (fun x => x.tag ≠ tag)
              dueTrap := match m.dueTrap with
                | some t => some t
                | none => some (h.code, h.va, n) })

/-- A copy meets a fault: it issues no further sector (R366). -/
def copyMeets (s : State) (tag : Nat) (h : Held) : State :=
  copyStops (modMe s (fun m => modCopy m tag (fun x => { x with stop := some h, ats := false }))) tag

/-- Bytes of the next sector: to the next multiple of 48 of the destination's VA, or of the result area's offset for a landing zone, or to
the end of the row (R162, R349). -/
def sectorLen (c : CopyOp) : Nat :=
  let va := (if c.kind = .slzput then 0 else refBase c.dst) + (rowOffs c).1 + c.pos
  Nat.min (c.width - c.pos) (48 - va % 48)

/-- Bytes of a fill from a byte of the destination (R170). -/
def fillBytes (v from' n : Nat) : List Byte :=
  let p := bytesOf 8 v
  (List.range n).map fun i => p.getD ((from' + i) % 8) 0

/-- Does an access touch host pages that the ATC does not hold (R365)? -/
def needsAts (s : State) (va n : Nat) (write : Bool) : Bool :=
  (unitsOf va n 4096).any fun u =>
    let a := Nat.max va (u * 4096)
    match walkHome s s.me.tenant a with
    | some e => leafHost e && decide (va < Config.teamWindow) && !((ctxOf s s.me.tenant).atc.any fun q =>
        decide (q.1 = leafAddr e a / 4096) && (if write then q.2.2 else q.2.1))
    | none => false

/-- The number by which a copy's remote stores are known. -/
def copyMark (tag : Nat) : Nat := tag

/-- The cursor of a copy past its next sector, of `n` bytes. -/
def pastSector (c : CopyOp) (n : Nat) : CopyOp :=
  let ended := decide (c.width ≤ c.pos + n)
  { c with
    next := c.next + 1
    pos := if ended then 0 else c.pos + n
    row := if ended then c.row + 1 else c.row
    index := if ended then none else c.index
    issued := ended && decide (c.rows ≤ c.row + 1) }

/-- A sector that has issued: the cursor moves on, and its bytes for a fabric window leave, unless a paired shuttle is to hold them (R405). -/
def sectorIssued (s : State) (tag : Nat) (bs : List Byte) (bad : Bool) (ps : List (Loc × Policy × Nat)) : State :=
  let step (c : CopyOp) : CopyOp :=
    { pastSector c bs.length with fly := c.fly ++ [{ idx := c.next, bytes := bs, poisoned := bad, dst := ps }] }
  let idx := match copyOf s.me tag with
    | some c => c.next
    | none => 0
  let s1 := if s.me.paired then s else (ps.foldl (fun (acc : State × List Byte) p => match p.1 with
    | .fabric w off => (sendRemote acc.1 acc.1.me.tenant w off (acc.2.take p.2.2) bad (some (copyMark tag, idx)), acc.2.drop p.2.2)
    | _ => (acc.1, acc.2.drop p.2.2)) (s, bs)).1
  modMe s1 (fun h => modCopy h tag step)

/-- The next sector of a copy, its row's index read: its source is translated, then its destination; then its source is read
(R366). -/
def issueSector (s : State) (tag : Nat) (c : CopyOp) : State :=
  let n := sectorLen c
  let offs := rowOffs c
  let dva := refBase c.dst + offs.1 + c.pos
  let sva := refBase c.src + offs.2 + c.pos
  let q : Asker := { tenant := s.me.tenant, hint := c.hint }
  let src : State × Except Trouble (List (Loc × Policy × Nat)) := if c.kind = .fill then (s, .ok []) else resolveAll s q .load sva n
  match src with
  | (s1, .error t) => copyMeets s1 tag (Held.of t)
  | (s1, .ok sp) =>
    let dst : State × Except Trouble (List (Loc × Policy × Nat)) := if c.kind = .slzput then (s1, .ok []) else resolveAll s1 q .store dva n
    match dst with
    | (s2, .error t) => copyMeets s2 tag (Held.of t)
    | (s2, .ok dp) =>
      if scratchPending s2 (scratchRuns sp) ∨ scratchFull s2 (scratchRuns dp) then s2
      else
        let (s3, r1) := if sp.any (fun p => match p.1 with
          | .dev _ => true
          | _ => false) then residentFor s2 s2.me.tenant sva n else (s2, true)
        let (s4, r2) := if dp.any (fun p => match p.1 with
          | .dev _ => true
          | _ => false) then residentFor s3 s3.me.tenant dva n else (s3, true)
        if !r1 ∨ !r2 then s4
        else if dp.any (fun p => holdFull s4.me p.1 (c.fly.foldl (fun k x => k + x.bytes.length) n)) then copyMeets s4 tag { code := .bounds, va := dva }
        else
          let (s5, bs, bad) := if c.kind = .fill then (s4, fillBytes c.value c.pos n, false) else readPieces s4 q sp
          if bad ∧ touchesLost s5 s5.me.tenant sva n then s5 else
          let s6 := if c.kind = .slzput then
              zoneSend s5 s5.me.tenant c.dst.obj (refBase c.dst) (Obj.size c.dst.entry)
                { contributor := c.value, off := c.dst.off + c.pos, bytes := bs, poisoned := bad, barred := s5.me.climb || s5.me.paired,
                  sender := some (s5.me.place, tag, c.next) }
            else s5
          sectorIssued s6 tag bs (bad || c.tainted) dp

/-- The row's index read in the copy's class, and its row's bounds (R170). -/
def withIndex (s : State) (tag : Nat) (c : CopyOp) : State × Option CopyOp :=
  if (c.kind ≠ .gather ∧ c.kind ≠ .scatter) ∨ c.index.isSome then (s, some c)
  else
    let va := refVa c.idx + 4 * c.row
    match resolveAll s { tenant := s.me.tenant, hint := c.hint } .load va 4 with
    | (s1, .error t) => (copyMeets s1 tag (Held.of t), none)
    | (s1, .ok ps) =>
      let (s2, there) := if ps.any (fun p => match p.1 with
        | .dev _ => true
        | _ => false) then residentFor s1 s1.me.tenant va 4 else (s1, true)
      if !there ∨ scratchPending s2 (scratchRuns ps) then (s2, none)
      else
        let (s3, bs, bad) := readPieces s2 { tenant := s2.me.tenant, hint := c.hint } ps
        if bad ∧ touchesLost s3 s3.me.tenant va 4 then (s3, none) else
        let k := natOfBytes bs
        let r := if c.kind = .gather then c.src else c.dst
        if !refHolds s3 { r with off := r.off + k * c.width } c.width then
          (copyMeets s3 tag { code := .bounds, va := refVa r + k * c.width }, none)
        else
          (modMe s3 (fun h => modCopy h tag (fun x => { x with index := some k, tainted := bad })), some { c with index := some k, tainted := bad })

/-- May a copy-like operation begin: those of its class are complete before it, and one of class 0 comes after the blocks handed over and
the fetches issued before it (R163, R297)? -/
def copyInTurn (h : Shuttle) (c : CopyOp) : Bool :=
  copyFirst h c.tag &&
    (decide (c.cls ≠ 0) || decide (c.next ≠ 0) || (List.range 16).all fun i =>
      match getS h (BitVec.ofNat 4 i) with
      | some st => if st.desc.out then decide (c.marks.getD i 0 ≤ st.spos) || st.failed.isSome else !st.flying
      | none => true)

/-- May a copy issue a sector now (R163, R297, R366)? -/
def copyMayIssue (h : Shuttle) (c : CopyOp) : Bool :=
  movesSectors c.kind && !c.parked && c.stop.isNone && !c.issued && decide (c.fly.length < 8) && copyInTurn h c

/-- COPY_SECTOR_ISSUE (R366): the next sector in destination order, unless its host translation must first be asked for (R365). -/
def execCopySectorIssue (q : Place) (tag : BitVec 6) (s : State) : Host.Outcome State Fault Refusal :=
  let s1 := focus s q
  match copyOf s1.me tag.toNat with
  | none => .next s1
  | some c =>
    if c.stop.isSome then .next (copyStops s1 tag.toNat)
    else if !copyMayIssue s1.me c ∨ c.ats then .next (modMe s1 finishCopies)
    else match withIndex s1 tag.toNat c with
      | (s2, none) => .next s2
      | (s2, some c2) =>
        let n := sectorLen c2
        let offs := rowOffs c2
        if (c2.kind ≠ .fill ∧ needsAts s2 (refBase c2.src + offs.2 + c2.pos) n false) ∨ needsAts s2 (refBase c2.dst + offs.1 + c2.pos) n true then
          .next (modMe s2 (fun h => modCopy h tag.toNat (fun x => { x with ats := true })))
        else .next (issueSector s2 tag.toNat c2)

/-- ATS_TRANSLATION_COMPLETE (R365, R366): the host translation that a copy's next sector asked for returns; the sector issues, or the
copy stops at it. -/
def execAtsTranslationComplete (q : Place) (tag : BitVec 6) (s : State) : Host.Outcome State Fault Refusal :=
  let s1 := focus s q
  match copyOf s1.me tag.toNat with
  | none => .next s1
  | some c =>
    if !c.ats ∨ c.stop.isSome then .next s1
    else .next (issueSector (modMe s1 (fun h => modCopy h tag.toNat (fun x => { x with ats := false }))) tag.toNat { c with ats := false })

/-- Is a sector gathered in the base die's buffer (R367): HINT 1 into a tile of MSC policy 1? -/
def goesToBuffer (h : Shuttle) (c : CopyOp) (x : Flying) : Bool :=
  decide (c.hint = 1) && !h.paired && match x.dst with
    | [(.dev _, p, _)] => decide (p.msc = 1)
    | _ => false

/-- May a flying sector be done: its remote stores are acknowledged, and no earlier one that it overlaps still flies (R170)? -/
def sectorMayEnd (s : State) (c : CopyOp) (x : Flying) : Bool :=
  !(s.fabric.stores.any fun f => f.2.place = s.me.place && f.2.copyTag = some (copyMark c.tag, x.idx)) &&
    !(c.fly.any fun y => decide (y.idx < x.idx) && y.dst.any fun a => x.dst.any fun b => locOverlap a.1 a.2.2 b.1 b.2.2)

/-- The bytes of a sector written at their places, or held; those that have left for a fabric window are the fabric's. -/
def landSector (s : State) (c : CopyOp) (x : Flying) : State :=
  let q : Asker := { tenant := s.me.tenant, hint := c.hint }
  (x.dst.foldl (fun (acc : State × List Byte) p =>
    (if s.me.paired || !inFabric p.1 then writeMine acc.1 q p.1 p.2.1 (acc.2.take p.2.2) x.poisoned else acc.1, acc.2.drop p.2.2)) (s, x.bytes)).1

/-- The buffers of a copy that no sector will fill further, or that hold a whole tile, are sealed (R367). -/
def sealBuffers (s : State) (tag : Nat) : State :=
  match copyOf s.me tag with
  | none => s
  | some c =>
    if c.issued && c.fly.isEmpty then flushCopy s s.me.place tag
    else
      let tiles := (c.buffered.map fun x => flyPa x / 6144).foldl insertNat []
      (tiles.filter fun T => bufferWhole c.buffered T).foldl
        (fun st T => flushBuffer st st.me.place tag T) s

/-- COPY_SECTOR_DONE (R161, R162, R367): a flying sector performs at its home and TAGBYTES rises, or it joins the buffer of its tile. -/
def execCopySectorDone (q : Place) (tag : BitVec 6) (i : Nat) (s : State) : Host.Outcome State Fault Refusal :=
  let s1 := focus s q
  let t := tag.toNat
  match copyOf s1.me t with
  | none => .next s1
  | some c =>
    match c.fly.find? (fun x => x.idx = i) with
    | none => .next s1
    | some x =>
      if c.kind = .slzput ∨ !sectorMayEnd s1 c x then .next s1
      else if goesToBuffer s1.me c x then
        let others := (allShuttles s1).flatMap fun h => (h.copies.filter fun d => !(h.place = q && d.tag = t) &&
          d.buffered.any fun b => flyPa b / 6144 = flyPa x / 6144).map fun d => (h.place, d.tag)
        let s2 := others.foldl (fun st o => flushBuffer st o.1 o.2 (flyPa x / 6144)) s1
        let s3 := modMe s2 (fun h => modCopy h t (fun d => { d with fly := d.fly.filter (fun y => y.idx ≠ i), buffered := d.buffered ++ [x] }))
        .next (copyStops (sealBuffers s3 t) t)
      else
        let s2 := landSector s1 c x
        let s3 := modMe s2 (fun h => modCopy (addTagBytes h t x.bytes.length) t
          (fun d => { d with fly := d.fly.filter (fun y => y.idx ≠ i), doneSet := insertNat d.doneSet i }))
        .next (modMe (copyStops (sealBuffers s3 t) t) finishCopies)

/-! ### Residency, prefetch and scale records (R171, R172) -/

/-- The reference of a prefetch, scale or pin request: none where it fails R144 or is the scratchpad (R146). The TYPE and the rights asked for
are the model's reading (DEDUCED, log entry 85). -/
def plainRef (s : State) (w : Word) (n : Nat) : State × Option Ref :=
  if bitsOf w.toNat 63 48 = 0xFFFF then (s, none)
  else match objEntry s s.me.tenant (bitsOf w.toNat 63 48) with
    | (s1, none) => (s1, none)
    | (s1, some e) =>
      let r : Ref := { obj := bitsOf w.toNat 63 48, off := bitsOf w.toNat 47 0, entry := e }
      (s1, if Obj.usable e && decide (Obj.type e ≤ 1) && (Obj.right e 0 || Obj.right e 2) && refHolds s1 r n then some r else none)

/-- The seal tiles that hold `n` bytes from a VA; none where a page does not translate. -/
def tilesIn (s : State) (va n : Nat) : Option (List Nat) :=
  (unitsOf va n 6144).foldl (fun acc u =>
    match acc, homeOf s s.me.tenant (u * 6144) with
    | some l, some pa => some (if pa / 6144 ∈ l then l else l ++ [pa / 6144])
    | _, _ => none) (some [])

/-- One tile brought into L2, or into the MSC alone (R171). -/
def prefetchTile (s : State) (hint T : Nat) : State :=
  if hint = 1 then (mscFillTile s s.me.tenant false T 0).1
  else (List.range 32).foldl (fun st i =>
    (l2Fill st st.me.tenant false (32 * T + i) (lineSectors (32 * T + i)) { keep := decide (hint = 2) }).1) s

/-- `sprefetch` (R171): silent on every fault. -/
def execSprefetch (c : Ctl) (k : BitVec 2) (n : KOrImm) (s : State) : Host.Outcome State Fault Refusal :=
  strInstr c (fun t =>
    let len := (kOrImmVal t.me .str n).toNat
    match plainRef t (kVal t.me .str k) len with
    | (t1, none) => .done t1
    | (t1, some r) =>
      match tilesIn t1 (refVa r) len with
      | none => .done t1
      | some l => .done (l.foldl (fun st T => prefetchTile st c.hint.toNat T) t1)) s

/-- `sscale` (R171, R298): the records of units A to A + n − 1 of a tensor into the scale cache, after the shuttle's pending scratchpad writes to
them. kA's offset is one of bytes, as in every reference, and A the unit that it lies in (DESIGN CHOICE, log entry 117). -/
def execSscale (c : Ctl) (k : BitVec 2) (n : KOrImm) (s : State) : Host.Outcome State Fault Refusal :=
  strInstr c (fun t =>
    let w := kVal t.me .str k
    let len := (kOrImmVal t.me .str n).toNat
    match plainRef t w 0 with
    | (t1, none) => .done t1
    | (t1, some r) =>
      let unit := if Obj.format r.entry = fmtTwill then 48 else b16Bytes (b16OfFormat (Obj.format r.entry))
      let records := (List.range len).map fun i => (Obj.scaleBase r.entry + (r.off / unit + i) * Obj.scaleStride r.entry, 2)
      if Obj.scaleStride r.entry = 0 ∨ b16OfFormat (Obj.format r.entry) = 0 ∧ Obj.format r.entry ≠ fmtTwill then .done t1
      else if scratchPending t1 (scratchAt t1 records) then .stall t1
      else .done ((List.range len).foldl (fun st i =>
        (scaleFetch st r.obj r.entry (decide (Obj.format r.entry = fmtTwill)) true (r.off / unit + i)).1) t1)) s

/-- `spin` (R172): status 0 pinned, 1 quota, 2 reference, and 2 where a page does not translate (DEDUCED, log entry 85). -/
def execSpin (c : Ctl) (k : BitVec 2) (n : KOrImm) (s : State) : Host.Outcome State Fault Refusal :=
  strInstr c (fun t =>
    let len := (kOrImmVal t.me .str n).toNat
    match plainRef t (kVal t.me .str k) len with
    | (t1, none) => .done (appendFifo t1 .str 2)
    | (t1, some r) =>
      match tilesIn t1 (refVa r) len with
      | none => .done (appendFifo t1 .str 2)
      | some l =>
        let fresh := l.filter fun T => !(t1.mem.pins.any fun p => p.tile = T && p.team = some t1.me.team)
        match chargeFor t1 t1.me.tenant t1.me.launch 2 (6144 * fresh.length) with
        | none => .done (appendFifo t1 .str 1)
        | some t2 =>
          .done (appendFifo (modMem t2 (fun m => { m with
            pins := m.pins ++ fresh.map fun T => { tile := T, tenant := t2.me.tenant, team := some t2.me.team } })) .str 0)) s

/-- The pins of a team on some tiles released, and their charge with them (R172). -/
def unpinTeam (s : State) (tenant team : Nat) (mine : Nat → Bool) : State :=
  let go (p : Pin) : Bool := p.team = some team && mine p.tile
  let launch := match gangOf s team with
    | some g => g.launch
    | none => 0
  unchargeFor (modMem s (fun m => { m with pins := m.pins.filter fun p => !(go p) })) tenant launch 2 (6144 * (s.mem.pins.filter go).length)

/-- `sunpin` (R172). -/
def execSunpin (c : Ctl) (k : BitVec 2) (n : KOrImm) (s : State) : Host.Outcome State Fault Refusal :=
  strInstr c (fun t =>
    let len := (kOrImmVal t.me .str n).toNat
    match plainRef t (kVal t.me .str k) len with
    | (t1, none) => .done t1
    | (t1, some r) =>
      match tilesIn t1 (refVa r) len with
      | none => .done t1
      | some l => .done (unpinTeam t1 t1.me.tenant t1.me.team (fun T => T ∈ l))) s

/-! ### Encoding a twill segment (R174, R231 to R233) -/

/-- Weights of a segment by rate code. -/
def encWeights (r : Nat) : Nat := (twN r).getD 0

/-- `stwenc` (R174): its checks, and the request under its tag. The destination must not overlap the source; the error reference is left out of that
test (R164; DEDUCED, log entry 120). -/
def execStwenc (c : Ctl) (tag : BitVec 7) (kd ks kp kq : BitVec 2) (s : State) : Host.Outcome State Fault Refusal :=
  strInstr c (fun t =>
    let d := kVal t.me .str kd
    let r := kVal t.me .str ks
    let q := kVal t.me .str kq
    let p := (kVal t.me .str kp).toNat
    let rate := p % 4
    if rate = 3 ∨ bitsOf p 7 2 ≠ 0 ∨ 65536 ≤ p ∨ p / 256 < 2 ∨ bitsOf d.toNat 47 0 % 48 ≠ 0 then refStop t .bounds d
    else match takeRefs t (.twDest, d) (.source, r) with
      | (t1, .error (code, w)) => refStop t1 code w
      | (t1, .ok (x, y)) =>
        match takeRef t1 .dest q with
        | (t2, .error code) => refStop t2 code q
        | (t2, .ok z) =>
          if !refHolds t2 x 48 then refStop t2 .bounds d
          else if !refHolds t2 y (4 * encWeights rate) then refStop t2 .bounds r
          else if !refHolds t2 z 4 then refStop t2 .bounds q
          else if spansMeet (refVa x) 48 (refVa y) (4 * encWeights rate) then refStop t2 .bounds d
          else if Obj.scaleStride x.entry = 0 then refStop t2 .rights d
          else acceptCopy t2 { kind := .stwenc, tag := tagNat tag, dst := x, src := y, aux := z, value := p, hint := 0 }) s

/-- The requests that stand at the encoders of a die, with the shuttles they are of (R174). -/
def encodeRequests (s : State) (die : Nat) : List (Place × CopyOp) :=
  ((allShuttles s).filter fun h => h.place.tile / 192 = die).flatMap fun h =>
    (h.copies.filter fun c => c.kind = .stwenc && !c.parked && copyInTurn h c).map fun c => (h.place, c)

/-- The physical address of the segment of a request of the shuttle at a place. -/
def segmentOf (s : State) (p : Place) (c : CopyOp) : Option Nat := homeOf s (shuttleAt s p).tenant (refVa c.dst)

/-- Is a request one of the two that the die's encoders serve, in the order in which they arrived, and the first of those for its segment (R174,
R234)? -/
def encodeFirst (s : State) (c : CopyOp) : Bool :=
  let before := (encodeRequests s 0 ++ encodeRequests s 1).filter fun x => x.2.arrival < c.arrival
  decide ((before.filter fun x => x.1.tile / 192 = s.me.place.tile / 192).length < 2) &&
    !before.any fun x => decide (segmentOf s x.1 x.2 = segmentOf s s.me.place c)

/-- Are some pieces of an access resident: those in device memory filled, none of a pick that is lost or refused (R311, R328)? -/
def residentPieces (s : State) (ps : List (Loc × Policy × Nat)) (va n : Nat) : State × Bool :=
  if ps.any (fun p => match p.1 with
    | .dev _ => true
    | _ => false) then residentFor s s.me.tenant va n else (s, true)

/-- One write of the encoder: checked, then written, and TAGBYTES at the bytes done with it; a fault, or none while a pick is not resident, when
the request stalls (R164, R233, R328, R405). -/
def encWrite (s : State) (coded : Bool) (tag done va : Nat) (bs : List Byte) (bad : Bool) : State × Option (Except Trouble State) :=
  let q : Asker := { tenant := s.me.tenant, coded := coded }
  match resolveAll s q .store va bs.length with
  | (s1, .error t) => (s1, some (.error t))
  | (s1, .ok ps) =>
    let (s2, there) := residentPieces s1 ps va bs.length
    if !there then (s2, none)
    else if ps.any (fun p => holdFull s2.me p.1 bs.length) then (s2, some (.error { code := .bounds, va := va }))
    else (s2, some (.ok (modMe (writePieces s2 q ps bs bad) (fun h => setTagBytes h tag (done + bs.length)))))

/-- STWENC_ENCODE_DONE (R174, R233): the segment, its scale record and the error are written, TAGBYTES at 48, 50 and 54 with them, then the tag is
set; a fault on any of the accesses parks or fails the request as R164 has it, and a pick that is not resident stalls it (R328). -/
def execStwencEncodeDone (q : Place) (tag : BitVec 6) (s : State) : Host.Outcome State Fault Refusal :=
  let s1 := focus s q
  let t := tag.toNat
  match copyOf s1.me t with
  | none => .next s1
  | some c =>
    if c.kind ≠ .stwenc ∨ c.parked ∨ !copyInTurn s1.me c ∨ !encodeFirst s1 c then .next s1
    else
      let rate := c.value % 4
      let e := c.value / 256 % 256
      let n := encWeights rate
      let a : Asker := { tenant := s1.me.tenant }
      match resolveAll s1 a .load (refVa c.src) (4 * n) with
      | (s2, .error x) => .next (copyMeets s2 t (Held.of x))
      | (s2, .ok sp) =>
        let (s3a, there) := residentPieces s2 sp (refVa c.src) (4 * n)
        let (s3, bs, bad) := readPieces s3a a sp
        if !there ∨ (bad ∧ touchesLost s3 s3.me.tenant (refVa c.src) (4 * n)) then .next (if there then s3 else s3a)
        else
          let ts := (List.range n).map fun i => natOfBytes ((bs.drop (4 * i)).take 4)
          let nan := ts.any fun x => (f32 x).isNan
          let enc := twEncode ts rate e
          let rec' : List Byte := [BitVec.ofNat 8 e, BitVec.ofNat 8 rate]
          let recVa := Obj.scaleBase c.dst.entry + c.dst.off / 48 * Obj.scaleStride c.dst.entry
          match encWrite s3 true t 0 (refVa c.dst) (bytesOf 48 enc.1) bad with
          | (s4, none) => .next s4
          | (s4, some (.error x)) => .next (copyMeets s4 t (Held.of x))
          | (_, some (.ok s4)) =>
            match encWrite s4 false t 48 recVa rec' bad with
            | (s5, none) => .next s5
            | (s5, some (.error x)) => .next (copyMeets s5 t (Held.of x))
            | (_, some (.ok s5)) =>
              match encWrite s5 false t 50 (refVa c.aux) (bytesOf 4 (if nan then Fmt.f32.cnan else enc.2)) bad with
              | (s6, none) => .next s6
              | (s6, some (.error x)) => .next (copyMeets s6 t (Held.of x))
              | (_, some (.ok s6)) => .next (modMe s6 (fun h => setReady { h with copies := h.copies.filter fun d => d.tag ≠ t } t))

/-! ### Resuming (R176) -/

/-- A shuttle with its stream or copy that parked under a record unparked, and whether there was one. -/
def unparkIn (h : Shuttle) (tenant n : Nat) (mark : Bool) : Shuttle × Bool :=
  let st := h.s.any fun x => match x with
    | some y => y.parked && decide (y.parkSeq = n)
    | none => false
  let cp := h.copies.any fun c => c.parked && decide (c.parkSeq = n) && !c.resumeMark
  if h.tenant ≠ tenant ∨ !(st || cp) then (h, false)
  else
    ({ h with
      s := h.s.map fun x => match x with
        | some y => some (if y.parked && decide (y.parkSeq = n) then { y with parked := false } else y)
        | none => none
      copies := h.copies.map fun c => if c.parked && decide (c.parkSeq = n) then
        (if mark then { c with resumeMark := true } else { c with parked := false }) else c }, true)

/-- The stream or copy that parked under a record of a tenant resumes, wherever its shuttle is: on its tile, or saved (R165, R176). -/
def resumeRecord (s : State) (tenant n : Nat) : State × Bool :=
  let me := unparkIn s.me tenant n false
  let others := s.others.map fun h => unparkIn h tenant n false
  let gangs := s.loom.gangs.map fun g => (g, g.saved.map fun v => (v, unparkIn v.shuttle tenant n true))
  let hit := me.2 || others.any (·.2) || gangs.any fun g => g.2.any fun v => v.2.2
  ({ s with
    me := me.1
    others := others.map (·.1)
    loom := { s.loom with gangs := gangs.map fun g => { g.1 with saved := g.2.map fun v => { v.1 with shuttle := v.2.1 } } } }, hit)

/-- `sresume` (R176): privileged; an entry pushed in user mode is aborted with PRIV at decode (R48). It waits while the record that it names still
waits for room in a full queue: what parked has not yet parked under a written record (R385). -/
def execSresume (c : Ctl) (k : BitVec 2) (s : State) : Host.Outcome State Fault Refusal :=
  if !(curOf s.me .str).entry.priv then engIllegal .str .priv s
  else strInstr c (fun t =>
    let w := (kVal t.me .str k).toNat
    if 2 ^ 40 ≤ w then .abort t .bounds {}
    else if (fqWaiting t false (w / 2 ^ 32)).any (fun r => r.seqno = w % 2 ^ 32) then .stall t
    else
      let (t1, hit) := resumeRecord t (w / 2 ^ 32) (w % 2 ^ 32)
      .done (appendFifo t1 .str (if hit then 0 else 1))) s

end Sys2Proof.Machine
end

