-- ==== Sys2Proof/Machine/SeqSys.lean ====
section
/-! DEFINITION. Control, branches, special registers and the system instructions of SEQ (R94 to R96, R103 to R108, R133 to R135,
R137 to R140). -/
namespace Sys2Proof.Machine

/-! ### Control (R106 to R108) -/

/-- `nop` (R106). -/
def execNop (c : Ctl) (s : State) : Host.Outcome State Fault Refusal := seqInstr c (fun t => .done t 1) s

/-- A safe point passed (R28): a stop that is asked for takes effect before the next instruction, and a paired shuttle makes its
compare (R406). -/
def safePoint (s : State) : State := dueCompare (modMe s (fun h => { h with fresh := true }))

/-- `safept` (R106). -/
def execSafept (c : Ctl) (s : State) : Host.Outcome State Fault Refusal := seqInstr c (fun t => .done (safePoint t) 1) s
/-- `climbpt` (R107): a safe point; a shuttle started from a record of its id begins after it. -/
def execClimbpt (c : Ctl) (_id : BitVec 20) (s : State) : Host.Outcome State Fault Refusal := seqInstr c (fun t => .done (safePoint t) 1) s

/-- `trap` (R26, R92, R108, R141): once every store issued earlier is acknowledged; cause 0x80 + n, no record, TRAPPC at the next instruction; the handler's first instruction is 12 cycles after the
drain. -/
def execTrap (c : Ctl) (n : BitVec 7) (s : State) : Host.Outcome State Fault Refusal :=
  seqInstr c (fun t =>
    if unacknowledged (drainAll t) then .wait (drainAll t) .retry
    else .jump (enterTrap (drainTrap t) (0x80 + n.toNat % 64) 0 (nextPc t.me)) 0) s

/-! ### Branches (R104, R105) -/

/-- A branch: its target and its delay slots are checked, `link` writes g31, and the delay slots stand before the continuation. -/
def branch (b : BitVec 2) (p : BitVec 6) (d : BitVec 7) (link : Bool) (s : State) : SeqRes :=
  let h := s.me
  let target := (getB h b).addr
  let taken := getP h p
  let n := d.toNat % 4
  match delaySlots s h h.pc n with
  | none => .fault s { code := .illegal, va := 0 }
  | some next =>
    if !targetOk s h target ∨ (taken ∧ (getB h b).fromG ∧ !indirectOk s h target) then .fault s { code := .illegal, va := 0 }
    else
      let s1 := if link then setResult s (.g 31) next 1 else s
      let go := if taken then target else next
      .jump (modMe s1 (fun m => if n = 0 then { m with pc := go } else { m with pc := nextPc m, delay := some (n, go) }))
        (if taken then 4 - n else 1)

/-- `br` (R104). -/
def execBr (c : Ctl) (b : BitVec 2) (p : BitVec 6) (d : BitVec 7) (s : State) : Host.Outcome State Fault Refusal :=
  seqInstr c (branch b p d false) s
/-- `brl` (R104). -/
def execBrl (c : Ctl) (b : BitVec 2) (p : BitVec 6) (d : BitVec 7) (s : State) : Host.Outcome State Fault Refusal :=
  seqInstr c (branch b p d true) s

/-! ### Waits of the system instructions -/

/-- Has every entry the shuttle pushed completed? -/
def entriesDone (h : Shuttle) : Bool := !outstandingIn h
where
  /-- Entries pushed and not completed. -/
  outstandingIn (h : Shuttle) : Bool :=
    decide (h.str.done < h.str.pushed) || decide (h.vec.done < h.vec.pushed) || decide (h.mtx.done < h.mtx.pushed)

/-- Has every output stream of the shuttle written out the blocks handed to it? A failed one writes nothing more (R157, R398). -/
def outputsDone (h : Shuttle) : Bool :=
  h.s.all fun x => match x with
    | some st => !st.desc.out || st.failed.isSome || decide (st.spos = st.cpos)
    | none => true

/-- The conditions of `ctx.fence` but for its fence (R140). -/
def ctxQuiet (h : Shuttle) : Bool := entriesDone h && h.copies.isEmpty && outputsDone h

/-- Have the VEC and MTX entries pushed earlier completed (R135, R136)? -/
def arithDone (h : Shuttle) : Bool := decide (h.vec.pushed ≤ h.vec.done) && decide (h.mtx.pushed ≤ h.mtx.done)

/-- The earlier SEQ instructions have completed, remote stores apart: results landed, at the cycle of the last of them, stores performed. -/
def seqComplete (s : State) : State :=
  let s1 := drainAll (modMe s (fun h => { landAll h with clock := h.pend.foldl (fun c q => Nat.max c q.land) h.clock }))
  tickTo s1 s1.me.clock

/-! ### Special registers (R94 to R96, R133) -/

/-- A register listed as PRIV (R94). -/
def srPriv (n : Nat) : Bool := decide (n = 0x03 ∨ (0x20 ≤ n ∧ n ≤ 0x25) ∨ (0x28 ≤ n ∧ n ≤ 0x2B) ∨ (0x40 ≤ n ∧ n ≤ 0x4F))
/-- A register that software never writes (R94, R95). -/
def srReadOnly (n : Nat) : Bool := decide (n ≤ 0x05 ∨ (0x07 ≤ n ∧ n ≤ 0x0A) ∨ (0x10 ≤ n ∧ n ≤ 0x1F))
/-- The registers whose reading side 0 of a pair makes for both sides (R405). -/
def srShared (n : Nat) : Bool := decide (n = 0x03 ∨ n = 0x07 ∨ n = 0x08)

/-- The value of a special register, TAGBYTES apart (R94). -/
def srValue (s : State) (n : Nat) : Word :=
  let h := s.me
  let c := ctxOf s h.tenant
  if n = 0x00 then BitVec.ofNat 64 h.vtile
  else if n = 0x01 then BitVec.ofNat 64 h.team
  else if n = 0x02 then BitVec.ofNat 64 h.tenant
  else if n = 0x03 then BitVec.ofNat 64 h.place.tile
  else if n = 0x04 then h.tagReady
  else if n = 0x06 then h.fpflags
  else if n = 0x07 then BitVec.ofNat 64 (cyclesOf s s.me.place.tile)
  else if n = 0x08 then BitVec.ofNat 64 (tstampOf s)
  else if n = 0x09 then h.argBase
  else if n = 0x0A then h.teamWin
  else if 0x10 ≤ n ∧ n ≤ 0x17 then BitVec.ofNat 64 (h.lvlIdx.getD (n - 0x10) 0)
  else if 0x18 ≤ n ∧ n ≤ 0x1F then BitVec.ofNat 64 (h.lvlExt.getD (n - 0x18) 1)
  else if n = 0x20 then c.ovfTbl
  else if n = 0x21 then c.cardBase
  else if n = 0x22 then c.objBase
  else if n = 0x23 then c.xlBase
  else if n = 0x24 then c.faultQ
  else if n = 0x25 then s.module.droopThr.setWidth 64
  else if n = 0x28 then h.trapPc
  else if n = 0x29 then h.trapCode
  else if n = 0x2A then h.trapVa
  else if n = 0x2B then h.trapVec
  else if 0x40 ≤ n ∧ n ≤ 0x4F then qcwOf s.tile (n - 0x40)
  else 0

/-- `getsr` (R95, R133). -/
def execGetsr (c : Ctl) (a : BitVec 5) (sr : BitVec 7) (tag : Option (BitVec 5)) (s : State) : Host.Outcome State Fault Refusal :=
  seqInstr c (fun t =>
    let n := sr.toNat
    if srPriv n ∧ !t.me.priv then .fault t { code := .priv, va := 0 }
    else if n = 0x05 then
      let i := match tag with
        | some g => (getG t.me g).toNat % 64
        | none => 0
      .done (setVariable t (.g a) (BitVec.ofNat 64 (t.me.tagBytes.toList.getD i 0))) 1
    else if srShared n then
      match pairedValue t false id (fun u => (u, some (.ok (srValue u n).toNat))) with
      | (u, some (.ok v)) => .done (setResult u (.g a) (BitVec.ofNat 64 v) 2) 1
      | (u, some (.error x)) => .fault u x
      | (u, none) => .wait u .retry
    else .done (setResult t (.g a) (srValue t n) 2) 1) s

/-- Writable bits of a queue control word (R35). -/
def qcwMask : Word := 0x7FFF3FFF
/-- A special register written (R94 to R96, R35, R416). -/
def srWrite (s : State) (n : Nat) (v : Word) : State :=
  let t := s.me.tenant
  if n = 0x06 then modMe s (fun h => { h with fpflags := fpflagsWritable v })
  else if n = 0x20 then modCtx s t (fun c => { c with ovfTbl := v })
  else if n = 0x21 then modCtx s t (fun c => { c with cardBase := v })
  else if n = 0x22 then modCtx s t (fun c => { c with objBase := v })
  else if n = 0x23 then modCtx s t (fun c => { c with xlBase := v })
  else if n = 0x24 then modCtx s t (fun c => { c with faultQ := v })
  else if n = 0x25 then modModule s (fun m => { m with droopThr := clampDroop v })
  else if n = 0x28 then modMe s (fun h => { h with trapPc := v })
  else if n = 0x29 then modMe s (fun h => { h with trapCode := v &&& 0xFF })
  else if n = 0x2A then modMe s (fun h => { h with trapVa := v })
  else if n = 0x2B then modMe s (fun h => { h with trapVec := v })
  else if 0x40 ≤ n ∧ n ≤ 0x4F then modTile s (fun x => { x with qcw := x.qcw.setIfInBounds (n - 0x40) (v &&& qcwMask) })
  else s

/-- `setsr` (R95, R133): an RO register is ILLEGAL in either mode, but a PRIV one in user mode is PRIV; the context's bases wait as
`ctx.fence` does. -/
def execSetsr (c : Ctl) (sr : BitVec 7) (x : GOrImm) (s : State) : Host.Outcome State Fault Refusal :=
  if srReadOnly sr.toNat ∧ !(srPriv sr.toNat && !s.me.priv) then seqIllegal s
  else seqInstr c (fun t =>
    let n := sr.toNat
    if srPriv n ∧ !t.me.priv then .fault t { code := .priv, va := 0 }
    else if 0x20 ≤ n ∧ n ≤ 0x24 then
      let t1 := drainAll t
      if !ctxQuiet t1.me ∨ releasePending t1 65535 then .wait t1 .retry
      else .done (srWrite (acquireAll t1) n (gOrImmVal t1.me x)) 2
    else .done (srWrite t n (gOrImmVal t.me x)) 2) s

/-- `tstamp` (R134, R405): a store to a peer or a release flag has completed once it is acknowledged (R112, R353). -/
def execTstamp (c : Ctl) (a : BitVec 5) (s : State) : Host.Outcome State Fault Refusal :=
  seqInstr c (fun t0 =>
    let t := seqComplete t0
    if unacknowledged t then .wait t .retry
    else match pairedValue t false id (fun u => (u, some (.ok (tstampOf u)))) with
    | (u, some (.ok v)) => .done (setResult u (.g a) (BitVec.ofNat 64 v) 4) 1
    | (u, some (.error x)) => .fault u x
    | (u, none) => .wait u .retry) s

/-! ### Privileged instructions (R135, R137 to R140) -/

/-- Bytes that a system instruction reads, translated as a load of class 0; none while a pick is not resident. -/
def sysRead (s : State) (va n : Nat) : State × Option (Except Trouble (List Byte)) :=
  let s0 := drainAll s
  match resolveAll s0 (meAsker s0 3) .load va n with
  | (s1, .error x) => (s1, some (.error x))
  | (s1, .ok ps) =>
    let (s2, there) := if ps.any (fun p => match p.1 with
      | .dev _ => true
      | _ => false) then residentFor s1 s1.me.tenant va n else (s1, true)
    if !there then (s2, none)
    else
      let (s3, bs, bad) := readPieces s2 (meAsker s2 3) ps
      if bad then (s3, if touchesLost s3 s3.me.tenant va n then none else some (.error (poisonAt va ((ps.head?).elim (.host 0) (·.1)))))
      else (s3, some (.ok bs))

/-- Is a word a legal overflow table (R135)? -/
def ovfLegal (v : Nat) : Bool := decide (v < 1024) && (List.range 5).all fun i => decide (v / 4 ^ i % 4 ≠ 3)

/-- `ovf.load` (R135). -/
def execOvfLoad (c : Ctl) (a : BitVec 5) (s : State) : Host.Outcome State Fault Refusal :=
  privInstr c (fun t =>
    if !arithDone t.me then .wait t .retry
    else
      let va := ((ctxOf t t.me.tenant).ovfTbl.toNat + 8 * ((getG t.me a).toNat % 256)) % 2 ^ 64
      match sysRead t va 8 with
      | (u, none) => .wait u .retry
      | (u, some (.error x)) => .fault u x
      | (u, some (.ok bs)) =>
        let v := natOfBytes bs
        if !ovfLegal v then .fault u { code := .bounds, va := va }
        else .done (modCtx u u.me.tenant (fun k => { k with ovf := BitVec.ofNat 10 v })) 1) s

/-- Every copy of a tenant's object entries, image lines and translations that the module holds is dropped, and the scale caches with
them (R137, R160). -/
def dropCaches (s : State) (t : Nat) : State :=
  let m := s.mem
  { s with
    mem := { m with objs := m.objs.filter (fun x => x.tenant ≠ t), lines := m.lines.filter (fun x => x.tenant ≠ t),
                    tlb := m.tlb.filter (fun x => x.tenant ≠ t), tlbOld := m.tlbOld.filter (fun x => x.tenant ≠ t) }
    tile := { s.tile with scale := [] }
    otherTiles := s.otherTiles.map fun x => { x with scale := [] } }

/-- `objsync` (R137). -/
def execObjsync (c : Ctl) (s : State) : Host.Outcome State Fault Refusal :=
  privInstr c (fun t =>
    let t1 := drainAll t
    if releasePending t1 65535 then .wait t1 .retry else .done (dropCaches t1 t1.me.tenant) 1) s

/-- `xlinv` (R138): the translations named are held no more; until a following `objsync` an access may still translate by them (R372). -/
def execXlinv (c : Ctl) (a : BitVec 5) (m : BitVec 7) (s : State) : Host.Outcome State Fault Refusal :=
  privInstr c (fun t =>
    let f := (getG t.me a).toNat / 98304
    let named (x : TlbEnt) : Bool := x.tenant = t.me.tenant && (m ≠ 0 || decide (x.frame = frameBase f x.pte))
    .done (modMem t (fun k => { k with tlb := k.tlb.filter (fun x => !(named x)), tlbOld := k.tlbOld ++ k.tlb.filter named })) 1) s

/-- `sysret` (R139): TRAPPC is checked by R41. -/
def execSysret (c : Ctl) (s : State) : Host.Outcome State Fault Refusal :=
  privInstr c (fun t =>
    if !targetOk t t.me t.me.trapPc then .fault t { code := .illegal, va := 0 } else .jump (sysretTo t) 8) s

/-- `ctx.fence` (R140). -/
def execCtxFence (c : Ctl) (s : State) : Host.Outcome State Fault Refusal :=
  privInstr c (fun t =>
    let t1 := drainAll t
    if !ctxQuiet t1.me ∨ releasePending t1 65535 then .wait t1 .retry else .done (acquireAll t1) 1) s

end Sys2Proof.Machine
end

