-- ==== Sys2Proof/Machine/Mtx.lean ====
section
/-! DEFINITION. The matrix engine (R180 to R201): the accumulator store and its claims, products in reed order, cooperative products,
accumulator maintenance, the stationary panel. -/
namespace Sys2Proof.Machine

/-! ### Operand formats (R55, R186) -/

/-- F (R55). -/
def mfmtNum : MFmt → Nat
  | .bf16 => 0 | .f16 => 1 | .e4m3 => 2 | .e5m2 => 3 | .i8 => 4 | .b16m7 => 5 | .b16m4 => 6 | .b16m2 => 7 | .twB16m4 => 8 | .i4 => 9
/-- The format of a number F; none above 9. -/
def mfmtOf (n : Nat) : Option MFmt :=
  [MFmt.bf16, .f16, .e4m3, .e5m2, .i8, .b16m7, .b16m4, .b16m2, .twB16m4, .i4][n]?
/-- K of a format (R55). -/
def mfmtK : MFmt → Nat
  | .bf16 | .f16 => 32
  | .e4m3 | .e5m2 | .i8 | .b16m7 => 64
  | .b16m4 | .b16m2 | .twB16m4 | .i4 => 128
/-- What a stream operand must deliver, and its DECODE (R186). -/
def mfmtOperand (f : MFmt) (isB : Bool) : DFmt × Nat :=
  match f with
  | .bf16 => (.bf16, 0) | .f16 => (.f16, 0) | .e4m3 => (.e4m3, 0) | .e5m2 => (.e5m2, 0) | .i8 => (.i8, 0)
  | .b16m7 => (.b16m7, 2) | .b16m4 => (.b16m4, 2) | .b16m2 => (.b16m2, 2)
  | .twB16m4 => if isB then (.bf16, 1) else (.b16m4, 2)
  | .i4 => (.i4, 0)

/-- The value of a delivered element (R205, R207, R208). -/
def dValue (d : DFmt) (x : Nat) : FV :=
  match d with
  | .f32 | .b16m7 | .b16m4 | .b16m2 => f32 x
  | .bf16 => FV.decode .bf16 x
  | .f16 => FV.decode .f16 x
  | .e4m3 => FV.decode .e4m3 x
  | .e5m2 => FV.decode .e5m2 x
  | .i32 => FV.ofInt (signedOf 32 x)
  | .i16 => FV.ofInt (signedOf 16 x)
  | .i8 => FV.ofInt (signedOf 8 x)
  | .u8 => FV.ofInt ((x % 256 : Nat) : Int)
  | .i4 => FV.ofInt (signedOf 4 x)

/-! ### The accumulator store (R180 to R182) -/

/-- A column group of a tile. -/
def groupOf (x : Tile) (g : Nat) : Group := x.groups.toList.getD g {}
/-- A column group changed. -/
def modGroup (x : Tile) (g : Nat) (f : Group → Group) : Tile := { x with groups := x.groups.setIfInBounds g (f (groupOf x g)) }

/-- Element (r, c) of the store; a group not in use reads +0 (R182). -/
def accGet (x : Tile) (r c : Nat) : Nat :=
  let g := groupOf x (c / 16)
  if g.inuse then (g.bits.extractLsb' (32 * (16 * r + c % 16)) 32).toNat else 0

/-- Bits of a group with one element replaced. -/
def putElem (b : GroupBits) (r c v : Nat) : GroupBits :=
  let sh := 32 * (16 * r + c)
  (b &&& ~~~(0xFFFFFFFF#65536 <<< sh)) ||| (BitVec.ofNat 65536 (v % 2 ^ 32) <<< sh)

/-- Element (r, c) written, and its group dirty (R183). -/
def accPut (x : Tile) (r c v : Nat) : Tile := modGroup x (c / 16) fun g => { g with bits := putElem g.bits r (c % 16) v, dirty := true }
/-- Elements written one after another. -/
def accPutAll (x : Tile) (l : List (Nat × Nat × Nat)) : Tile := l.foldl (fun y e => accPut y e.1 e.2.1 e.2.2) x

/-- A group claimed by a shuttle slot where it is not in use: every element +0 (R182). -/
def claimGroup (slot : Nat) (x : Tile) (g : Nat) : Tile :=
  if (groupOf x g).inuse then x else modGroup x g fun _ => { inuse := true, owner := slot, dirty := true, bits := 0 }
/-- A group released; with group 0 every CNT becomes 0 (R182). -/
def releaseGroup (x : Tile) (g : Nat) : Tile :=
  let y := modGroup x g fun _ => {}
  if g = 0 then { y with cnt := Vector.replicate 8 0 } else y

/-- Does a group belong to another shuttle slot (R182)? -/
def foreignGroup (x : Tile) (slot g : Nat) : Bool := (groupOf x g).inuse && decide ((groupOf x g).owner ≠ slot)

/-- CNT of a row block (R181). -/
def cntOf (x : Tile) (b : Nat) : Nat := x.cnt.toList.getD b 0
/-- CNT of a range of row blocks set. -/
def setCnt (x : Tile) (b n v : Nat) : Tile := { x with cnt := (List.range n).foldl (fun c i => c.setIfInBounds (b + i) v) x.cnt }

/-- The groups of `n` columns from a column base. -/
def groupsOf (col n : Nat) : List Nat := (List.range ((n + 15) / 16)).map (· + col / 16)

/-- Does an instruction meet a group of another shuttle, or a row block whose CNT is not 0 (R190, R198)? -/
def accBlocked (x : Tile) (slot : Nat) (groups : List Nat) (b n : Nat) : Bool :=
  groups.any (foreignGroup x slot) || (List.range n).any fun i => decide (cntOf x (b + i) ≠ 0)

/-! ### Products (R187, R190, R191) -/

/-- The chunk of row i and column n of a product of panels A (M × K) and B (K × N). -/
def chunkAt (fa fb : DFmt) (k n : Nat) (a b : List Nat) (i j : Nat) : Nat × FpFlags :=
  chunkSum (((a.drop (i * k)).take k).map (dValue fa)) ((List.range k).map fun t => dValue fb (b.getD (t * n + j) 0))

/-- Elements and flags of a list of element results. -/
def elemsOf (l : List (List (Nat × Nat × Nat) × FpFlags)) : List (Nat × Nat × Nat) × FpFlags := (l.flatMap (·.1), joinFlags (l.map (·.2)))

/-- The effect of `mma` on the store (R190): chunks added at columns from `col` and rows from block `d`. -/
def productInto (x : Tile) (f : MFmt) (m n col d : Nat) (a b : List Nat) : Tile × FpFlags :=
  let fa := (mfmtOperand f false).1
  let fb := (mfmtOperand f true).1
  let k := mfmtK f
  let r := elemsOf ((List.range m).flatMap fun i => (List.range n).map fun j =>
    let c := chunkAt fa fb k n a b i j
    let v := fadd (accGet x (16 * d + i) (col + j)) c.1
    ([(16 * d + i, col + j, v.1)], c.2 ||| v.2))
  (accPutAll x r.1, r.2)

/-- The carry of `mma.reed` in one stack (R191): the value to place, its level, the flags; `l` the level in hand. -/
def reedCarry (get : Nat → Nat) (cnt : Nat) : Nat → Nat → Nat → Nat × Nat × FpFlags
  | 0, l, x => (x, l, 0)
  | fuel + 1, l, x =>
    if cnt / 2 ^ l % 2 = 1 then
      let v := fadd (get l) x
      let r := reedCarry get cnt fuel (l + 1) v.1
      (r.1, r.2.1, v.2 ||| r.2.2)
    else (x, l, 0)

/-- The effect of `mma.reed` on the store (R191). -/
def reedInto (x : Tile) (f : MFmt) (m d : Nat) (a b : List Nat) : Tile × FpFlags :=
  let fa := (mfmtOperand f false).1
  let fb := (mfmtOperand f true).1
  let k := mfmtK f
  let cnt := cntOf x d
  let r := elemsOf ((List.range m).flatMap fun i => (List.range 32).map fun j =>
    let row := 16 * d + i
    let c := chunkAt fa fb k 32 a b i j
    let s := reedCarry (fun l => accGet x row (8 * j + l)) cnt 8 0 c.1
    (((List.range s.2.1).map fun l => (row, 8 * j + l, 0)) ++ [(row, 8 * j + s.2.1, s.1)], c.2 ||| s.2.2))
  (setCnt (accPutAll x r.1) d (m / 16) (cnt + 1), r.2)

/-- The sum of a stack from its lowest set level up (R192). -/
def stackSum (get : Nat → Nat) (cnt : Nat) : Nat × FpFlags :=
  match (List.range 8).filter fun l => cnt / 2 ^ l % 2 = 1 with
  | [] => (0, 0)
  | l :: ls => ls.foldl (fun acc i => let v := fadd (get i) acc.1; (v.1, acc.2 ||| v.2)) (get l, 0)

/-- The effect of `acc.flush` on the store (R192). -/
def flushInto (x : Tile) (b n : Nat) : Tile × FpFlags :=
  let r := elemsOf ((List.range (16 * n)).flatMap fun i => (List.range 32).map fun j =>
    let row := 16 * b + i
    let s := stackSum (fun l => accGet x row (8 * j + l)) (cntOf x (row / 16))
    ((row, 8 * j, s.1) :: (List.range 7).map fun l => (row, 8 * j + 1 + l, 0), s.2))
  (setCnt (accPutAll x r.1) b n 0, r.2)

/-! ### Operands from streams and the panel (R186, R188, R200) -/

/-- Is a stream operand within its limits: bound, an input, delivering the format in the geometry (R186)? -/
def streamFits (h : Shuttle) (r : BitVec 4) (w : DFmt × Nat) (rows cols : Nat) : Bool :=
  match getS h r with
  | some x => !x.desc.out && decide (delivered x.desc = w.1) && decide (x.desc.decode = w.2) && decide (x.desc.rows = rows ∧ x.desc.cols = cols)
  | none => false

/-- The stationary panel of the shuttle's slot, where it suits (R200). -/
def panelFor (s : State) (f : MFmt) (n : Nat) : Option Panel :=
  match s.tile.panels.toList.getD s.me.place.slot none with
  | some p => if p.fmt = mfmtNum f ∧ p.n = n then some p else none
  | none => none

/-- Are the operands of a product within their limits (R186, R200)? -/
def operandsFit (s : State) (f : MFmt) (m n : Nat) (sa : BitVec 4) (sb : BSrc) : Bool :=
  streamFits s.me sa (mfmtOperand f false) m (mfmtK f) &&
    match sb with
    | .s r => streamFits s.me r (mfmtOperand f true) (mfmtK f) n
    | .panel => (panelFor s f n).isSome

/-- The streams a product pops: A's, then B's unless it is the panel (R188). -/
def productStreams (sa : BitVec 4) (sb : BSrc) : List (BitVec 4) :=
  match sb with
  | .s r => [sa, r]
  | .panel => [sa]

/-- The B panel of a product from the blocks it found after A's, or the stationary panel (R186, R200). -/
def bPanel (s : State) (f : MFmt) (n : Nat) (sb : BSrc) (l : List (Block × Stream)) : List Nat :=
  match sb with
  | .s _ => (l.head?).elim [] (·.1.elems)
  | .panel => (panelFor s f n).elim [] (·.elems)

/-- A product with both blocks fetched and free of faults (R188). -/
def withOperands (s : State) (f : MFmt) (n : Nat) (sa : BitVec 4) (sb : BSrc) (go : List Nat → List Nat → EngRes) : EngRes :=
  withBlocks s .mtx (productStreams sa sb) fun l => go ((l.head?).elim [] (·.1.elems)) (bPanel s f n sb l.tail)

/-- The operand blocks committed together (R188). -/
def commitOperands (h : Shuttle) (sa : Option (BitVec 4)) (sb : BSrc) : Shuttle :=
  let h1 := match sa with
    | some r => commitBlock h r
    | none => h
  match sb with
  | .s r => commitBlock h1 r
  | .panel => h1

/-- A result in the store: claims, the effect, its flags (R182, R187). -/
def storeResult (s : State) (groups : List Nat) (f : Tile → Tile × FpFlags) : State :=
  let x := groups.foldl (claimGroup s.me.place.slot) s.tile
  let r := f x
  raise { s with tile := r.1 } r.2

/-! ### Occupancy (R202) -/

/-- The rate factor of a format (R186). -/
def mfmtRate : MFmt → Nat
  | .bf16 | .f16 => 1
  | .e4m3 | .e5m2 | .i8 | .b16m7 => 2
  | .b16m4 | .b16m2 | .twB16m4 | .i4 => 4
/-- P of a product. -/
def mtxP (f : MFmt) (m n : Nat) : Nat := m * n * mfmtK f / (4096 * mfmtRate f)
/-- The MTX issue cycles of an instruction beyond the first. -/
def occupyMtx (s : State) (occ : Nat) : State := modMe s (fun h => spendEng h .mtx (occ - 1))

/-- An MTX instruction that holds the engine for so many cycles. -/
def mtxInstr (c : Ctl) (occ : Nat) (body : State → EngRes) (s : State) : Host.Outcome State Fault Refusal :=
  uniformInstr .mtx c (fun t => match body t with
    | .done u => .done (occupyMtx u occ)
    | r => r) s

/-! ### mma and mma.reed (R190, R191) -/

/-- M of an M code. -/
def mOf (m : BitVec 2) : Nat := 16 * 2 ^ m.toNat
/-- N of an `mma`'s N code. -/
def nOf (n : BitVec 2) : Nat := 64 * 2 ^ n.toNat
/-- A row block operand. -/
def rowBlock (d : BitVec 7) : Nat := d.toNat % 128

/-- `mma` (R190). -/
def execMma (c : Ctl) (f : MFmt) (m n : BitVec 2) (a : BitVec 4) (sa : BitVec 4) (sb : BSrc) (d : BitVec 7) (s : State) :
    Host.Outcome State Fault Refusal :=
  mtxInstr c (mtxP f (mOf m) (nOf n)) (fun t =>
    let mm := mOf m
    let nn := nOf n
    let col := 16 * a.toNat
    let db := rowBlock d
    let groups := groupsOf col nn
    if 256 < col + nn ∨ 128 < 16 * db + mm ∨ !operandsFit t f mm nn sa sb then .abort t .illegal {}
    else if accBlocked t.tile t.me.place.slot groups db (mm / 16) then .abort t .bounds {}
    else withOperands t f nn sa sb fun x y =>
      .done (storeResult (modMe t (fun h => commitOperands h (some sa) sb)) groups (fun z => productInto z f mm nn col db x y))) s

/-- `mma.reed` (R191). -/
def execMmaReed (c : Ctl) (f : MFmt) (m : BitVec 2) (sa : BitVec 4) (sb : BSrc) (d : BitVec 7) (s : State) :
    Host.Outcome State Fault Refusal :=
  mtxInstr c (Nat.max 4 (mtxP f (mOf m) 32)) (fun t =>
    let mm := mOf m
    let db := rowBlock d
    let cnt := cntOf t.tile db
    let groups := groupsOf 0 256
    if 128 < 16 * db + mm ∨ !operandsFit t f mm 32 sa sb then .abort t .illegal {}
    else if groups.any (foreignGroup t.tile t.me.place.slot) ∨ cnt = 255 ∨ (List.range (mm / 16)).any (fun i => cntOf t.tile (db + i) ≠ cnt) then
      .abort t .bounds {}
    else withOperands t f 32 sa sb fun x y =>
      .done (storeResult (modMe t (fun h => commitOperands h (some sa) sb)) groups (fun z => reedInto z f mm db x y))) s

/-! ### mma.coop (R194 to R196) -/

/-- The participants of a cooperative product in virtual-tile order, or none where they do not all lie in the team and on one physical
quad (R194). `wide` is N = 1,024. -/
def coopGroup (g : Gang) (h : Shuttle) (wide : Bool) : Option (List Place) :=
  let n := if wide then 4 else 2
  let v0 := h.vtile / n * n
  let slot := h.ordinal % g.perTile
  let side := sideOf g h.place
  let ps := (List.range n).filterMap fun i => if v0 + i < g.nTiles then side[(v0 + i) * g.perTile + slot]? else none
  match ps with
  | [] => none
  | p :: _ => if ps.length = n ∧ ps.all (fun x => x.tile / 4 = p.tile / 4) then some ps else none

/-- The opcode of an `mma.coop` (R55). -/
def coopOpcode (f : MFmt) (m : BitVec 2) (n : BitVec 1) : Nat := 0x360 + 8 * mfmtNum f + 2 * m.toNat + n.toNat

/-- The MTX instruction a shuttle is at, where its entry waits in a cooperative product. -/
def coopCur (s : State) (p : Place) : Option Cur :=
  match (shuttleAt s p).mtx.cur with
  | some c => if c.coopAt.isSome ∧ c.aborting.isNone ∧ !c.bodyDone then some c else none
  | none => none

/-- The entry of a participant aborted, its token given back. -/
def coopAbort (s : State) (p : Place) (c : Code) (r : FaultRec) : State :=
  let s1 := focus s p
  let q := match s1.me.mtx.cur with
    | some x => if x.popped then x.ctl.pop.toNat else 0
    | none => 0
  abortWith (modMe s1 (fun h => unpop h q)) .mtx c r

/-- Every participant of a list that waits aborted, the faulting one with its own code and the others with COOP (R196). -/
def coopAbortAll (s : State) (back : Place) (ps : List Place) (own : Option (Place × Code × FaultRec)) : State :=
  focus (ps.foldl (fun st p =>
    match own with
    | some (q, c, r) => if p = q then coopAbort st p c r else coopAbort st p .coop {}
    | none => coopAbort st p .coop {}) s) back

/-- The operands that a participant's own instruction names (R196, R221). -/
def coopOps (s : State) (p : Place) : BitVec 4 × BSrc × Nat := ((shuttleAt s p).mtx.cur.getD {}).coopOps

/-- The streams that a participant pops: A's only where it is the lowest (R196). -/
def coopStreams (s : State) (first : Bool) (p : Place) : List (BitVec 4) :=
  let o := coopOps s p
  if first then productStreams o.1 o.2.1 else (productStreams o.1 o.2.1).tail

/-- What a group finds at its operands. -/
inductive CoopFound where
  | ready (l : List (Place × List (Block × Stream)))
  /-- Blocks of these streams of these participants are not fetched. -/
  | wait (rs : List (Place × BitVec 4))
  | park (p : Place) (r : BitVec 4) (x : Stream) (h : Held)
  | fault (p : Place) (c : Code) (r : FaultRec)

/-- The operands of the participants from a point on: the group is not ready until every block is fetched, then an aborting fault of any
aborts it, else a parking one stalls it (R188, R196). -/
def coopFind (s : State) (f : MFmt) (m : Nat) (first : Bool) : List Place → CoopFound
  | [] => .ready []
  | p :: ps =>
    let o := coopOps s p
    if !operandsFit (focus s p) f m 256 o.1 o.2.1 then .fault p .illegal {}
    else match peekAll (shuttleAt s p) [] (coopStreams s first p), coopFind s f m false ps with
    | .stop c r, _ => .fault p c r
    | .wait a, .wait b => .wait (a.map (fun r => (p, r)) ++ b)
    | .wait a, _ => .wait (a.map fun r => (p, r))
    | _, .wait b => .wait b
    | .held c r, _ => .fault p c r
    | _, .fault q c r => .fault q c r
    | .park r x h, _ => .park p r x h
    | _, .park q r x h => .park q r x h
    | .ready l, .ready rest => .ready ((p, l) :: rest)

/-- A matched group computes (R196): the lowest participant pops A, each its own B, and all write columns 0 to 255 of their own store; the
instruction of every participant but the one in focus is done. -/
def coopCompute (s : State) (back : Place) (f : MFmt) (m : Nat) (a : List Nat) : Bool → List (Place × List (Block × Stream)) → State
  | _, [] => focus s back
  | first, (p, l) :: rest =>
    let o := coopOps s p
    let s1 := focus s p
    let b := bPanel s1 f 256 o.2.1 (if first then l.tail else l)
    let s2 := modMe s1 (fun h => commitOperands h (if first then some o.1 else none) o.2.1)
    let s3 := storeResult (if p = back then s2 else servedEng s2 .mtx) (groupsOf 0 256) (fun z => productInto z f m 256 0 o.2.2 a b)
    let s4 := if p = back then s3
      else occupyMtx (modMe s3 (fun h => modCur h .mtx (fun c => { c with bodyDone := true, coopAt := none }))) (mtxP f m 256 + 4)
    coopCompute s4 back f m a false rest

/-- One cycle of a participant's wait for its partners: it counts while one of them has not issued and no stream of any is parked; where it comes
to 4,096, every participant that has arrived is lost with it (R195). -/
def coopWait (s : State) (ps : List Place) (key : Nat × Nat) (ops : BitVec 4 × BSrc × Nat) (c : Ctl) : State :=
  let still := ps.any (fun p => anyParked (shuttleAt s p)) || ps.all fun p => p = s.me.place || (coopCur s p).isSome
  let now : Nat := match (curOf s.me .mtx).coopAt with
    | some k => if still then k else k + 1
    | none => 0
  let s1 := modMe s (fun h => modCur h .mtx (fun x => { x with coopAt := some now, coopKey := key, coopOps := ops, ctl := c }))
  if 4096 ≤ now then
    (ps.filter fun p => (coopCur s1 p).isSome).foldl (fun st p => modShuttle st p (fun h => modCur h .mtx (fun x => { x with coopLost := true }))) s1
  else s1

/-- Has the team of the shuttle in focus a domain below QUAD (R33, R194)? -/
def belowQuad (s : State) : Bool := (gangOf s s.me.team).elim true fun g => decide (g.domain < 3)

/-- `mma.coop` (R194 to R196). In a team below QUAD it fails at decode. It waits for its partners until COOP_MATCH; then the group waits for its
blocks. A matched participant whose own entry the watchdog has aborted aborts the others with COOP (DESIGN CHOICE, log entry 110). -/
def execMmaCoop (c : Ctl) (f : MFmt) (m : BitVec 2) (n : BitVec 1) (sa : BitVec 4) (sb : BSrc) (d : BitVec 7) (q : KOrImm) (s : State) :
    Host.Outcome State Fault Refusal :=
  if belowQuad s then engIllegal .mtx .illegal s
  else mtxInstr c (mtxP f (mOf m) 256 + 4) (fun t =>
    let mm := mOf m
    let db := rowBlock d
    match gangOf t t.me.team with
    | none => .abort t .illegal {}
    | some g =>
      if 128 < 16 * db + mm ∨ !operandsFit t f mm 256 sa sb then .abort t .illegal {}
      else match coopGroup g t.me (n = 1) with
        | none => .abort t .coop {}
        | some ps =>
          let cur := curOf t.me .mtx
          if !cur.coopMatched then
            .hold (coopWait t ps (coopOpcode f m n, (kOrImmVal t.me .mtx q).toNat % 65536) (sa, sb, db) c)
          else if ps.any (fun p => p ≠ t.me.place && (coopCur t p).isNone) then .abort t .coop {}
          else
            match ps.find? (fun p => accBlocked (tileOf t p.tile) p.slot (groupsOf 0 256) (coopOps t p).2.2 (mm / 16)) with
            | some p => .stall (coopAbortAll t t.me.place ps (some (p, .bounds, {})))
            | none =>
              match coopFind t f mm true ps with
              | .wait rs =>
                waitRes (noteWait t ((rs.filter fun x => x.1 = t.me.place).map (·.2))) (waitCounts (rs.filterMap fun x => getS (shuttleAt t x.1) x.2))
              | .park p r x h => .hold (focus (parkInput (focus t p) .mtx r x h) t.me.place)
              | .fault p code r => .stall (coopAbortAll t t.me.place ps (some (p, code, r)))
              | .ready l => .done (coopCompute t t.me.place f mm ((l.head?).elim [] fun x => (x.2.head?).elim [] (·.1.elems)) true l)) s

/-- The participants of the cooperative product that a shuttle waits in. -/
def waitingGroup (s : State) (q : Place) : Option (List Place) :=
  match coopCur s q with
  | none => none
  | some c =>
    let h := shuttleAt s q
    match gangOf s h.team with
    | none => none
    | some g => coopGroup g h (c.coopKey.1 % 2 = 1)

/-- COOP_MATCH (R195): once every participant has issued, none of them lost to the limit before, opcodes and sequence numbers are compared; any
difference aborts every participant's entry with COOP. -/
def execCoopMatch (q : Place) (s : State) : Host.Outcome State Fault Refusal :=
  match waitingGroup s q with
  | none => .next s
  | some ps =>
    let cs := ps.map (coopCur s)
    if cs.any (·.isNone) ∨ cs.any (fun c => c.any fun x => x.coopMatched || x.coopLost) then .next s
    else
      let keys := cs.map fun c => (c.map (·.coopKey)).getD (0, 0)
      if keys.all (fun k => k = keys.headD (0, 0)) then
        .next (ps.foldl (fun st p => modShuttle st p (fun h => modCur h .mtx (fun c => { c with coopMatched := true }))) s)
      else .next (coopAbortAll s s.me.place ps none)

/-- COOP_PARTNER_TIMEOUT (R195): a participant that has waited 4,096 cycles without every participant having issued aborts with COOP, and with it
every one that had arrived before. -/
def execCoopPartnerTimeout (q : Place) (s : State) : Host.Outcome State Fault Refusal :=
  match waitingGroup s q, coopCur s q with
  | some ps, some c =>
    if c.coopLost then
      .next (coopAbortAll s s.me.place (ps.filter fun p => (coopCur s p).any (·.coopLost)) none)
    else .next s
  | _, _ => .next s

/-! ### Accumulator maintenance (R192, R197 to R199) -/

/-- `acc.zero` (R197). -/
def execAccZero (c : Ctl) (a : BitVec 4) (n m : BitVec 7) (s : State) : Host.Outcome State Fault Refusal :=
  mtxInstr c n.toNat (fun t =>
    let groups := (List.range n.toNat).map (· + a.toNat)
    if 16 < a.toNat + n.toNat ∨ 1 < m.toNat ∨ n = 0 then .abort t .illegal {}
    else if groups.any (foreignGroup t.tile t.me.place.slot) then .abort t .bounds {}
    else if m = 1 then .done { t with tile := groups.foldl releaseGroup t.tile }
    else
      let x := groups.foldl (fun y g => modGroup y g fun _ => { inuse := true, owner := t.me.place.slot, dirty := true, bits := 0 }) t.tile
      .done { t with tile := if a = 0 then { x with cnt := Vector.replicate 8 0 } else x }) s

/-- One element scaled (R198). -/
def scaleElem (acc k : Nat) : Nat × FpFlags := roundedRne noTable .f32 ((f32 acc).mul (f32 k))

/-- `acc.scale` (R198). -/
def execAccScale (c : Ctl) (a : BitVec 4) (n b r : BitVec 7) (k : BitVec 2) (s : State) : Host.Outcome State Fault Refusal :=
  mtxInstr c (n.toNat * r.toNat) (fun t =>
    let groups := (List.range n.toNat).map (· + a.toNat)
    if 16 < a.toNat + n.toNat ∨ 8 < b.toNat + r.toNat ∨ n = 0 ∨ r = 0 then .abort t .illegal {}
    else if accBlocked t.tile t.me.place.slot groups b.toNat r.toNat then .abort t .bounds {}
    else
      let v := (kVal t.me .mtx k).toNat % 2 ^ 32
      let res := elemsOf ((groups.filter fun g => (groupOf t.tile g).inuse).flatMap fun g => (List.range (16 * r.toNat)).flatMap fun i =>
        (List.range 16).map fun j =>
          let row := 16 * b.toNat + i
          let y := scaleElem (accGet t.tile row (16 * g + j)) v
          ([(row, 16 * g + j, y.1)], y.2))
      .done (raise { t with tile := accPutAll t.tile res.1 } res.2)) s

/-- A named tile's bits from 256 FP32 elements, row by row (R235). -/
def tileOfF32 (l : List Nat) : TileBits := BitVec.ofNat 8192 (l.foldr (fun x acc => x % 2 ^ 32 + 2 ^ 32 * acc) 0)
/-- FP32 element (i, j) of a tile's bits. -/
def tileF32 (b : TileBits) (i j : Nat) : Nat := (b.extractLsb' (32 * (16 * i + j)) 32).toNat

/-- A named tile as MTX sees it: VEC's writes without a token are seen old or new, element by element (R185). -/
def mixOld (mask : BitVec 256) (old new : TileBits) : TileBits :=
  let m : TileBits := (List.range 256).foldl (fun acc i => if mask.getLsbD i then acc ||| (0xFFFFFFFF#8192 <<< (32 * i)) else acc) 0
  (old &&& m) ||| (new &&& ~~~m)

/-- A named tile read across the engines: the newest contents, mixed with every older one that no token has settled (R9, R185). -/
def readShared (s : State) (v q : Nat) (newest : TileBits) : State × TileBits :=
  (s.me.vOld.filter fun o => o.v = v && o.q = q).foldl (fun acc o => (bump acc.1, mixOld (Config.oldElements acc.1.fresh) o.bits acc.2)) (s, newest)

/-- VEC's pending writes of one tile land (R185): the state an `acc.rd` of it writes over. -/
def settleTile (h : Shuttle) (v : Nat) : Shuttle :=
  { h with v := h.v.setIfInBounds v (newestTile h v), vpend := h.vpend.filter fun w => w.1 ≠ v }

/-- `acc.rd` (R199). -/
def execAccRd (c : Ctl) (v : BitVec 3) (a : BitVec 4) (b : BitVec 7) (s : State) : Host.Outcome State Fault Refusal :=
  mtxInstr c 1 (fun t =>
    if 8 ≤ b.toNat then .abort t .illegal {}
    else if foreignGroup t.tile t.me.place.slot a.toNat then .abort t .bounds {}
    else
      let l := (List.range 16).flatMap fun i => (List.range 16).map fun j => accGet t.tile (16 * b.toNat + i) (16 * a.toNat + j)
      .done (modMe t (fun h => { settleTile (noteTile h v.toNat 12) v.toNat with v := h.v.set v.toNat (tileOfF32 l) v.isLt }))) s

/-- `acc.wr` (R199). -/
def execAccWr (c : Ctl) (a : BitVec 4) (v : BitVec 3) (b : BitVec 7) (s : State) : Host.Outcome State Fault Refusal :=
  mtxInstr c 1 (fun t =>
    if 8 ≤ b.toNat then .abort t .illegal {}
    else if accBlocked t.tile t.me.place.slot [a.toNat] b.toNat 1 then .abort t .bounds {}
    else
      let (t1, bits) := readShared t v.toNat 9 (newestTile t.me v.toNat)
      .done (storeResult t1 [a.toNat] (fun x =>
        (accPutAll x ((List.range 16).flatMap fun i => (List.range 16).map fun j => (16 * b.toNat + i, 16 * a.toNat + j, tileF32 bits i j)), 0)))) s

/-- `acc.flush` (R192). -/
def execAccFlush (c : Ctl) (b r : BitVec 7) (s : State) : Host.Outcome State Fault Refusal :=
  mtxInstr c (2 * r.toNat) (fun t =>
    if 8 < b.toNat + r.toNat ∨ r = 0 then .abort t .illegal {}
    else if (groupsOf 0 256).any (foreignGroup t.tile t.me.place.slot) then .abort t .bounds {}
    else .done (storeResult t (groupsOf 0 256) (fun x => flushInto x b.toNat r.toNat))) s

/-! ### The panel and msync (R200, R201) -/

/-- N of an `mpre`'s N code. -/
def panelN (nc : Nat) : Nat := if nc = 0 then 64 else if nc = 1 then 128 else if nc = 2 then 256 else 32

/-- The issue cycles of an `mpre` (R202). -/
def panelCycles (f nc : Nat) : Nat := (mfmtOf f).elim 1 fun m => mfmtK m * panelN nc / 256

/-- `mpre` (R200). -/
def execMpre (c : Ctl) (r : BitVec 4) (f nc : BitVec 7) (s : State) : Host.Outcome State Fault Refusal :=
  mtxInstr c (panelCycles f.toNat nc.toNat) (fun t =>
    match mfmtOf f.toNat with
    | none => .abort t .illegal {}
    | some mf =>
      let n := panelN nc.toNat
      if 4 ≤ nc.toNat ∨ !streamFits t.me r (mfmtOperand mf true) (mfmtK mf) n then .abort t .illegal {}
      else withBlocks t .mtx [r] fun l =>
        let p : Panel := { fmt := f.toNat, n := n, elems := (l.head?).elim [] (·.1.elems) }
        .done (modTile (modMe t (fun h => commitBlock h r)) (fun x =>
          { x with panels := x.panels.setIfInBounds t.me.place.slot (some p) }))) s

/-- `msync` (R201): MTX completes in issue order, so nothing is left to wait for. -/
def execMsync (c : Ctl) (s : State) : Host.Outcome State Fault Refusal := mtxInstr c 1 (fun t => .done t) s

end Sys2Proof.Machine
end

