-- ==== Sys2Proof/Machine/Vec.lean ====
section
/-! DEFINITION. What every VEC instruction shares (R235 to R247, R263): elements and lanes, the guard, operands and the blocks they pop,
the result queue, the landing of results, the destination. -/
namespace Sys2Proof.Machine

/-! ### Types and elements (R53, R235, R238) -/

/-- Bytes of an element of a type. -/
def vtWidth : VType → Nat
  | .f32 | .i32 => 4
  | .bf16 | .f16 | .i16 => 2
  | .i8 | .u8 => 1
/-- The format a stream operand of a type must deliver (R240). -/
def vtDeliver : VType → DFmt
  | .f32 => .f32 | .bf16 => .bf16 | .f16 => .f16 | .i32 => .i32 | .i16 => .i16 | .i8 => .i8 | .u8 => .u8
/-- The binary format of a floating type. -/
def vtFmt : VType → Option Fmt
  | .f32 => some .f32 | .bf16 => some .bf16 | .f16 => some .f16
  | _ => none
/-- Is an integer type signed (R249)? -/
def vtSigned : VType → Bool
  | .u8 => false
  | _ => true
/-- Bytes of an element of a delivered format; none for one that VEC does not take (R207, R240). -/
def dWidth : DFmt → Option Nat
  | .f32 | .i32 => some 4
  | .bf16 | .f16 | .i16 => some 2
  | .e4m3 | .e5m2 | .i8 | .u8 => some 1
  | _ => none
/-- Bytes of an element of an untyped movement (R257). -/
def xWidth : XWidth → Nat
  | .b32 => 4 | .b16 => 2 | .b8 => 1

/-- Element (r, j) of a tile at a width (R235). -/
def tileElem (b : TileBits) (w r j : Nat) : Nat := (b.extractLsb' (8 * (64 * r + w * j)) (8 * w)).toNat
/-- The tile whose element (r, j) at a width is `f r j` (R235). -/
def tileBuild (w : Nat) (f : Nat → Nat → Nat) : TileBits :=
  BitVec.ofNat 8192 ((List.range (1024 / w)).foldr (fun i acc => f (i / (64 / w)) (i % (64 / w)) % 2 ^ (8 * w) + 2 ^ (8 * w) * acc) 0)
/-- The lane that governs element (r, j) of a width (R238). -/
def laneOf (w r j : Nat) : Nat := 32 * r + w * j / 2
/-- The lanes for which a test holds. -/
def lanesBuild (f : Nat → Bool) : Lanes :=
  BitVec.ofNat 512 ((List.range 512).foldr (fun i acc => (if f i then 1 else 0) + 2 * acc) 0)

/-! ### Predicates and the guard (R44, R241) -/

/-- A lane of a predicate register: p0 to p15 from the entry's snapshot, p16 to p63 as they stand. -/
def laneP (h : Shuttle) (p : BitVec 6) (lane : Nat) : Bool :=
  if p.toNat < 16 then snapP h .vec p else (h.vp.toList.getD (p.toNat - 16) 0).getLsbD lane
/-- The effective guard in a lane. -/
def guardLane (h : Shuttle) (c : Ctl) (lane : Nat) : Bool := (laneP h c.ga lane != c.gan) && (laneP h c.gb lane != c.gbn)
/-- The uniform part of the guard: its components that name p0 to p15. -/
def uniformPart (h : Shuttle) (c : Ctl) : Bool :=
  (decide (16 ≤ c.ga.toNat) || (snapP h .vec c.ga != c.gan)) && (decide (16 ≤ c.gb.toNat) || (snapP h .vec c.gb != c.gbn))

/-- Columns in use at a width (R237). -/
def colsAt (h : Shuttle) (w : Nat) : Nat := Nat.min h.cols (64 / w)
/-- Is an element in SHAPE (R237)? -/
def inShape (h : Shuttle) (w r j : Nat) : Bool := decide (r < h.rows) && decide (j < colsAt h w)
/-- Is an element of a typed instruction active (R241)? -/
def activeAt (h : Shuttle) (c : Ctl) (w r j : Nat) : Bool := inShape h w r j && guardLane h c (laneOf w r j)

/-! ### Landing (R242 to R244) -/

/-- Where a VEC instruction delivers. -/
inductive VTo where
  | tile (a : VDest)
  /-- The two tiles of `vred.maxsum`. -/
  | pair (a b : BitVec 3)
  | pred (p : BitVec 6)
  /-- The output FIFO, with the value over no active lanes (R246). -/
  | fifo (v : Word)
  | none

/-- What a VEC instruction reads and delivers, and its figures of R263. -/
structure VForm where
  dest : VTo
  srcs : List VSrc := []
  preds : List (BitVec 6) := []
  lat : Nat
  occ : Nat := 1

/-- The clock of VEC for the shuttle. -/
def vecClock (h : Shuttle) : Nat := h.vec.clock

/-- The next reservation, its value landing a latency from now (R243). The physical slot keeps its previous contents until then. -/
def reserveSlot (h : Shuttle) (lat : Nat) (v : TileBits) : Shuttle :=
  { h with
    ring := h.ring.getD 15 0 :: h.ring.take 15
    reserved := h.reserved + 1
    rpend := h.rpend ++ [(h.reserved, vecClock h + lat, v)] }

/-- Named tiles that a form reads or writes. -/
def formTiles (f : VForm) : List Nat :=
  f.srcs.filterMap (fun x => match x with
    | .v r => some r.toNat
    | _ => none) ++
  match f.dest with
  | .tile (.v r) => [r.toNat]
  | .pair a b => [a.toNat, b.toNat]
  | _ => []
/-- VEC-owned predicates that a form or a guard reads, or the form writes. -/
def formPreds (f : VForm) (c : Ctl) : List Nat :=
  (([c.ga, c.gb] ++ f.preds ++ match f.dest with
    | .pred p => [p]
    | _ => []).filter fun p => decide (16 ≤ p.toNat)).map fun p => p.toNat - 16
/-- Reservations that a form reads: those that exist. -/
def formSlots (h : Shuttle) (f : VForm) : List Nat :=
  f.srcs.filterMap fun x => match x with
    | .t k => if k.toNat < h.reserved then some (h.reserved - 1 - k.toNat) else none
    | _ => none

/-- Reservations whose physical slot the form's own reservation takes, with a write still pending (R242, R243). -/
def reusedSlots (h : Shuttle) (f : VForm) : List Nat :=
  match f.dest with
  | .tile .t0 => (h.rpend.filter fun x => x.1 + 16 ≤ h.reserved ∧ (h.reserved - x.1) % 16 = 0).map (·.1)
  | _ => []

/-- The cycle in which everything that an interlocked instruction waits for has landed (R242, R243). -/
def readyAt (h : Shuttle) (f : VForm) (c : Ctl) : Nat :=
  if (curOf h .vec).inter then
    Nat.max (latest (h.vpend.filter fun x => x.1 ∈ formTiles f))
      (Nat.max (latest (h.ppend.filter fun x => x.1 ∈ formPreds f c)) (latest (h.rpend.filter fun x => x.1 ∈ formSlots h f ++ reusedSlots h f)))
  else 0

/-- The issue of an instruction: the stall of an interlocked read, and what has landed by then. -/
def issueVec (f : VForm) (c : Ctl) (h : Shuttle) : Shuttle :=
  let t := Nat.max (vecClock h) (readyAt h f c)
  landVec (spendEng h .vec (t - vecClock h)) t

/-! ### Delivering (R241, R242, R245, R246, R262) -/

/-- A named tile written: it lands whole at issue + latency. -/
def putTile (h : Shuttle) (r lat : Nat) (v : TileBits) : Shuttle :=
  let h1 := noteTile h r 9
  { h1 with vpend := h1.vpend ++ [(r, vecClock h + lat, v)] }
/-- A tile destination written: a named tile, or the slot the instruction reserves. -/
def putDest (h : Shuttle) (a : VDest) (lat : Nat) (v : TileBits) : Shuttle :=
  match a with
  | .v r => putTile h r.toNat lat v
  | .t0 => reserveSlot h lat v
/-- A VEC-owned predicate written. -/
def putPred (h : Shuttle) (p : BitVec 6) (lat : Nat) (v : Lanes) : Shuttle :=
  if p.toNat < 16 then h
  else { h with ppend := h.ppend ++ [(p.toNat - 16, vecClock h + lat, v)], pInuse := h.pInuse ||| (1#48 <<< (p.toNat - 16)) }

/-- What inactive elements of a tile destination hold: its old bits, or zero bits in a new slot (R241). -/
def oldBits (h : Shuttle) (a : VDest) : TileBits :=
  match a with
  | .v r => h.v.toList.getD r.toNat 0
  | .t0 => 0

/-- Issue cycles beyond the first (R263). -/
def occupy (s : State) (occ : Nat) : State :=
  modMe s (fun h => spendEng h .vec (occ - 1))

/-- The cycle in which an instruction of a latency completes: with everything that was issued before it (R222). -/
def completesAt (h : Shuttle) (lat : Nat) : Nat := Nat.max (vecClock h + lat) (vecLands h)

/-- Flags that an instruction raises when it completes (R213, R222). -/
def raiseAt (s : State) (lat : Nat) (f : FpFlags) : State :=
  if f = 0 then s else modMe s (fun h => { h with vdue := h.vdue ++ [(completesAt h lat, .flags f)] })

/-- An element that lands in VEC's FIFO at issue + latency, behind what was issued before (R222, R246). -/
def emitVec (s : State) (lat : Nat) (v : Word) : State := modMe s (fun h => { h with vdue := h.vdue ++ [(completesAt h lat, .fifo v)] })

/-- A slot of zero bits, which in an interlocked line waits for the pending write of the slot it reuses (R242, R244). -/
def zeroSlot (f : VForm) (h : Shuttle) : Shuttle :=
  let t := if (curOf h .vec).inter then Nat.max (vecClock h) (latest (h.rpend.filter fun x => x.1 ∈ reusedSlots h f)) else vecClock h
  reserveSlot (landVec (spendEng h .vec (t - vecClock h)) t) f.lat 0

/-- A uniform-false instruction: its slot with zero bits, its scalar over no lanes (R241, R244, R246). -/
def vecFalse (s : State) (f : VForm) : State :=
  match f.dest with
  | .tile .t0 => modMe s (zeroSlot f)
  | .fifo v => emitVec s f.lat v
  | _ => s

/-- A squashed slot: a zero slot where the instruction reserves one (R27). -/
def vecSquash (f : VForm) (s : State) : State :=
  match f.dest with
  | .tile .t0 => modMe s (zeroSlot f)
  | _ => s

/-- A VEC instruction (R241 to R246). -/
def vecInstr (c : Ctl) (f : VForm) (body : State → EngRes) (s : State) : Host.Outcome State Fault Refusal :=
  .next (engRun .vec c (vecSquash f) (fun t =>
    if !uniformPart t.me c then .done (occupy (vecFalse t f) f.occ)
    else match body (modMe t (issueVec f c)) with
      | .done u => .done (occupy u f.occ)
      | r => r) s)

/-! ### Operands (R239, R240) -/

/-- An operand as its instruction reads it. -/
inductive SrcVal where
  | tile (b : TileBits)
  | const (v : Nat)

/-- Element (r, j) of an operand at a width. -/
def SrcVal.at (x : SrcVal) (w r j : Nat) : Nat :=
  match x with
  | .tile b => tileElem b w r j
  | .const v => v

/-- A block as a tile at its delivered width; elements outside it are zero bits (R240, R257). -/
def blockTile (b : Block) (x : Stream) (w : Nat) : TileBits :=
  tileBuild w (fun r j => if r < x.desc.rows ∧ j < x.desc.cols then b.elems.getD (r * x.desc.cols + j) 0 else 0)

/-- Is a stream operand within its limits (R240)? `want` is the format a typed slot reads. -/
def streamOk (h : Shuttle) (r : BitVec 4) (want : Option DFmt) : Bool :=
  match getS h r with
  | none => false
  | some x =>
    match dWidth (delivered x.desc) with
    | none => false
    | some w => !x.desc.out && decide (x.desc.decode ≤ 1) && decide (x.desc.rows ≤ 16 ∧ x.desc.cols * w ≤ 64) &&
        (want.isNone || want = some (delivered x.desc))

/-- Are the stream operands of an instruction within their limits? -/
def streamsOk (h : Shuttle) (srcs : List VSrc) (want : Option DFmt) : Bool :=
  srcs.all fun x => match x with
    | .s r => streamOk h r want
    | _ => true

/-- The streams that an instruction's operands pop, in slot order (R240). -/
def srcStreams (srcs : List VSrc) : List (BitVec 4) :=
  srcs.filterMap fun x => match x with
    | .s r => some r
    | _ => none

/-- The block of each operand that pops one. -/
def giveBlocks : List VSrc → List (Block × Stream) → List (Option (Block × Stream))
  | [], _ => []
  | .s _ :: rest, l => l.head? :: giveBlocks rest l.tail
  | _ :: rest, l => none :: giveBlocks rest l

/-- The streams of an instruction's operands commit a block each, in slot order. -/
def commitAll (h : Shuttle) (srcs : List VSrc) : Shuttle :=
  srcs.foldl (fun h x => match x with
    | .s r => commitBlock h r
    | _ => h) h

/-- An immediate in a type (R239). -/
def immElem (t : VType) (i : BitVec 7) : Nat :=
  match vtFmt t with
  | some f => (roundTo noTable f .rne (FV.ofInt i.toInt)).1
  | none => intBits (8 * vtWidth t) i.toInt

/-- An operand's value: a tile, a result slot, the block it popped, a captured k register, or an immediate read by `imm`. -/
def srcVal1 (s : State) (imm : BitVec 7 → Nat) (w : Nat) (x : VSrc) (got : Option (Block × Stream)) : State × SrcVal :=
  match x, got with
  | .v r, _ =>
    let (s1, b) := readShared s r.toNat 12 (s.me.v.toList.getD r.toNat 0)
    (s1, .tile b)
  | .t k, _ => (s, .tile (s.me.ring.getD k.toNat 0))
  | .s _, some (b, st) => (s, .tile (blockTile b st ((dWidth (delivered st.desc)).getD 1)))
  | .s _, none => (s, .const 0)
  | .k r, _ => (s, .const ((kVal s.me .vec r).toNat % 2 ^ (8 * w)))
  | .imm i, _ => (s, .const (imm i))

/-- The operands' values in slot order. -/
def srcVals (s : State) (imm : BitVec 7 → Nat) (w : Nat) : List VSrc → List (Option (Block × Stream)) → State × List SrcVal
  | [], _ => (s, [])
  | x :: xs, got =>
    let (s1, v) := srcVal1 s imm w x (got.headD none)
    let (s2, vs) := srcVals s1 imm w xs got.tail
    (s2, v :: vs)

/-- An instruction with its operands read and its blocks committed, or stopped (R153, R240). -/
def withSrcs (s : State) (srcs : List VSrc) (want : Option DFmt) (imm : BitVec 7 → Nat) (w : Nat) (f : State → List SrcVal → EngRes) : EngRes :=
  if !streamsOk s.me srcs want then .abort s .illegal {}
  else withBlocks s .vec (srcStreams srcs) fun l =>
    let (s1, vs) := srcVals s imm w srcs (giveBlocks srcs l)
    f (modMe s1 (fun h => commitAll h srcs)) vs

/-! ### Element by element -/

/-- Every element of a tile destination: computed where active, kept where not; and the flags of all that were computed. -/
def tileOfElems (w : Nat) (active : Nat → Nat → Bool) (old : TileBits) (f : Nat → Nat → Nat × FpFlags) : TileBits × FpFlags :=
  let rs := (List.range (1024 / w)).map fun i =>
    let r := i / (64 / w)
    let j := i % (64 / w)
    if active r j then f r j else (tileElem old w r j, 0)
  (BitVec.ofNat 8192 (rs.foldr (fun x acc => x.1 % 2 ^ (8 * w) + 2 ^ (8 * w) * acc) 0), joinFlags (rs.map (·.2)))

/-- A typed element-wise instruction (R237, R241, R248, R249). -/
def elementwise (c : Ctl) (t : VType) (a : VDest) (srcs : List VSrc) (preds : List (BitVec 6)) (lat occ : Nat)
    (f : Shuttle → OvfTable → Nat → List Nat → Nat × FpFlags) (s : State) : Host.Outcome State Fault Refusal :=
  let w := vtWidth t
  vecInstr c { dest := .tile a, srcs := srcs, preds := preds, lat := lat, occ := occ } (fun u =>
    withSrcs u srcs (some (vtDeliver t)) (immElem t) w (fun u vs =>
      let h := u.me
      let ovf := ovfOf h .vec
      let r := tileOfElems w (activeAt h c w) (oldBits h a) (fun i j => f h ovf (laneOf w i j) (vs.map fun x => x.at w i j))
      .done (raiseAt (modMe u (fun h => putDest h a lat r.1)) lat r.2))) s

/-- The elements of a width that a lane governs, by column (R238). -/
def governed (w c : Nat) : List Nat := if w = 4 then [c / 2] else if w = 2 then [c] else [2 * c, 2 * c + 1]

/-- The lanes a typed test writes (R245). -/
def testLanes (w : Nat) (active test : Nat → Nat → Bool) : Lanes :=
  lanesBuild fun l =>
    let act := (governed w (l % 32)).filter (active (l / 32))
    !act.isEmpty && act.all (test (l / 32))

end Sys2Proof.Machine
end

