-- ==== Sys2Proof/Machine/VecOps.lean ====
section
/-! DEFINITION. The meanings of the VEC instructions (R248 to R261). -/
namespace Sys2Proof.Machine

/-! ### Floating-point element-wise (R248) -/

/-- A floating operation on the operands of an element, rounded once (R248); a type that is not floating has none, and its encoding does
not exist (R53). -/
def floatOp (c : Ctl) (t : VType) (a : VDest) (srcs : List VSrc) (lat occ : Nat) (f : OvfTable → Fmt → List Nat → Nat × FpFlags) (s : State) :
    Host.Outcome State Fault Refusal :=
  match vtFmt t with
  | none => engIllegal .vec .illegal s
  | some k => elementwise c t a srcs [] lat occ (fun _ o _ vs => f o k vs) s

/-- The value of the i-th operand. -/
def fvArg (f : Fmt) (vs : List Nat) (i : Nat) : FV := FV.decode f (vs.getD i 0)
/-- The encoding of a NaN-checked bit operation: the canonical NaN for a NaN operand (R206). -/
def canonOr (f : Fmt) (vs : List Nat) (v : Nat) : Nat × FpFlags :=
  if vs.any (fun x => (FV.decode f x).isNan) then (f.cnan, 0) else (v, 0)
/-- The sign bit of a format. -/
def signBit (f : Fmt) : Nat := 2 ^ (f.width - 1)

/-- `vadd`: round(b + c) (R248). -/
def execVadd (c : Ctl) (t : VType) (a : VDest) (b x : VSrc) (s : State) : Host.Outcome State Fault Refusal :=
  floatOp c t a [b, x] 6 1 (fun o f vs => roundedRne o f ((fvArg f vs 0).add (fvArg f vs 1))) s
/-- `vsub`: round(b − c) (R248). -/
def execVsub (c : Ctl) (t : VType) (a : VDest) (b x : VSrc) (s : State) : Host.Outcome State Fault Refusal :=
  floatOp c t a [b, x] 6 1 (fun o f vs => roundedRne o f ((fvArg f vs 0).add (fvArg f vs 1).negate)) s
/-- `vmul`: round(b × c) (R248). -/
def execVmul (c : Ctl) (t : VType) (a : VDest) (b x : VSrc) (s : State) : Host.Outcome State Fault Refusal :=
  floatOp c t a [b, x] 6 1 (fun o f vs => roundedRne o f ((fvArg f vs 0).mul (fvArg f vs 1))) s
/-- `vfma`: round(b × c + d) (R248). -/
def execVfma (c : Ctl) (t : VType) (a : VDest) (b x y : VSrc) (s : State) : Host.Outcome State Fault Refusal :=
  floatOp c t a [b, x, y] 8 1 (fun o f vs => roundedRne o f (FV.fma false (fvArg f vs 0) (fvArg f vs 1) (fvArg f vs 2))) s
/-- `vfms`: round(b × c − d) (R248). -/
def execVfms (c : Ctl) (t : VType) (a : VDest) (b x y : VSrc) (s : State) : Host.Outcome State Fault Refusal :=
  floatOp c t a [b, x, y] 8 1 (fun o f vs => roundedRne o f (FV.fma false (fvArg f vs 0) (fvArg f vs 1) (fvArg f vs 2).negate)) s
/-- `vnfma`: round(−(b × c) + d) (R248). -/
def execVnfma (c : Ctl) (t : VType) (a : VDest) (b x y : VSrc) (s : State) : Host.Outcome State Fault Refusal :=
  floatOp c t a [b, x, y] 8 1 (fun o f vs => roundedRne o f (FV.fma true (fvArg f vs 0) (fvArg f vs 1) (fvArg f vs 2))) s
/-- `vmin`: the lesser, −0 below +0 (R248). -/
def execVmin (c : Ctl) (t : VType) (a : VDest) (b x : VSrc) (s : State) : Host.Outcome State Fault Refusal :=
  floatOp c t a [b, x] 6 1 (fun _ f vs => canonOr f vs (if (fvArg f vs 0).leSigned (fvArg f vs 1) then vs.getD 0 0 else vs.getD 1 0)) s
/-- `vmax`: the greater, −0 below +0 (R248). -/
def execVmax (c : Ctl) (t : VType) (a : VDest) (b x : VSrc) (s : State) : Host.Outcome State Fault Refusal :=
  floatOp c t a [b, x] 6 1 (fun _ f vs => canonOr f vs (if (fvArg f vs 0).leSigned (fvArg f vs 1) then vs.getD 1 0 else vs.getD 0 0)) s
/-- `vabs`: the sign bit cleared (R248). -/
def execVabs (c : Ctl) (t : VType) (a : VDest) (b : VSrc) (s : State) : Host.Outcome State Fault Refusal :=
  floatOp c t a [b] 6 1 (fun _ f vs => canonOr f vs (vs.getD 0 0 % signBit f)) s
/-- `vneg`: the sign bit inverted (R248). -/
def execVneg (c : Ctl) (t : VType) (a : VDest) (b : VSrc) (s : State) : Host.Outcome State Fault Refusal :=
  floatOp c t a [b] 6 1 (fun _ f vs => canonOr f vs ((vs.getD 0 0 + signBit f) % 2 ^ f.width)) s
/-- `vcopysign`: the magnitude of b with the sign of c (R248). -/
def execVcopysign (c : Ctl) (t : VType) (a : VDest) (b x : VSrc) (s : State) : Host.Outcome State Fault Refusal :=
  floatOp c t a [b, x] 6 1 (fun _ f vs => canonOr f vs (vs.getD 0 0 % signBit f + vs.getD 1 0 / signBit f % 2 * signBit f)) s

/-! ### Integer element-wise (R249) -/

/-- An integer operation at width 8w in two's complement, its result taken modulo 2^(8w) (R249). -/
def intOp (c : Ctl) (t : VType) (a : VDest) (b x : VSrc) (f : Nat → Nat → Nat → Int) (s : State) : Host.Outcome State Fault Refusal :=
  let wide := decide (2 ≤ vtWidth t)
  if (vtFmt t).isSome then engIllegal .vec .illegal s
  else
    let n := 8 * vtWidth t
    elementwise c t a [b, x] [] (if wide then 3 else 4) (if wide then 1 else 2)
      (fun _ _ _ vs => (intBits n (f n (vs.getD 0 0) (vs.getD 1 0)), 0)) s

/-- `viadd`: the sum, wrapping (R249). -/
def execViadd (c : Ctl) (t : VType) (a : VDest) (b x : VSrc) (s : State) : Host.Outcome State Fault Refusal :=
  intOp c t a b x (fun _ p q => ((p + q : Nat) : Int)) s
/-- `visub`: the difference, wrapping (R249). -/
def execVisub (c : Ctl) (t : VType) (a : VDest) (b x : VSrc) (s : State) : Host.Outcome State Fault Refusal :=
  intOp c t a b x (fun _ p q => (p : Int) - (q : Int)) s
/-- `vimul`: the product, wrapping (R249). -/
def execVimul (c : Ctl) (t : VType) (a : VDest) (b x : VSrc) (s : State) : Host.Outcome State Fault Refusal :=
  intOp c t a b x (fun _ p q => ((p * q : Nat) : Int)) s
/-- `vand`: bitwise and (R249). -/
def execVand (c : Ctl) (t : VType) (a : VDest) (b x : VSrc) (s : State) : Host.Outcome State Fault Refusal :=
  intOp c t a b x (fun _ p q => ((Nat.land p q : Nat) : Int)) s
/-- `vor`: bitwise or (R249). -/
def execVor (c : Ctl) (t : VType) (a : VDest) (b x : VSrc) (s : State) : Host.Outcome State Fault Refusal :=
  intOp c t a b x (fun _ p q => ((Nat.lor p q : Nat) : Int)) s
/-- `vxor`: bitwise exclusive or (R249). -/
def execVxor (c : Ctl) (t : VType) (a : VDest) (b x : VSrc) (s : State) : Host.Outcome State Fault Refusal :=
  intOp c t a b x (fun _ p q => ((Nat.xor p q : Nat) : Int)) s
/-- `vshl`: b shifted left by c mod 8w (R249). -/
def execVshl (c : Ctl) (t : VType) (a : VDest) (b x : VSrc) (s : State) : Host.Outcome State Fault Refusal :=
  intOp c t a b x (fun n p q => ((p * 2 ^ (q % n) : Nat) : Int)) s
/-- `vshr`: b shifted right by c mod 8w, zeros in (R249). -/
def execVshr (c : Ctl) (t : VType) (a : VDest) (b x : VSrc) (s : State) : Host.Outcome State Fault Refusal :=
  intOp c t a b x (fun n p q => ((p / 2 ^ (q % n) : Nat) : Int)) s
/-- `vsra`: b shifted right by c mod 8w, its top bit in (R249). -/
def execVsra (c : Ctl) (t : VType) (a : VDest) (b x : VSrc) (s : State) : Host.Outcome State Fault Refusal :=
  intOp c t a b x (fun n p q => signedOf n p / ((2 ^ (q % n) : Nat) : Int)) s
/-- `vimin`: the lesser, unsigned for u8 (R249). -/
def execVimin (c : Ctl) (t : VType) (a : VDest) (b x : VSrc) (s : State) : Host.Outcome State Fault Refusal :=
  intOp c t a b x (fun n p q => if intValue (vtSigned t) n p ≤ intValue (vtSigned t) n q then (p : Int) else (q : Int)) s
/-- `vimax`: the greater, unsigned for u8 (R249). -/
def execVimax (c : Ctl) (t : VType) (a : VDest) (b x : VSrc) (s : State) : Host.Outcome State Fault Refusal :=
  intOp c t a b x (fun n p q => if intValue (vtSigned t) n p ≤ intValue (vtSigned t) n q then (q : Int) else (p : Int)) s

/-! ### Compares and selection (R250, R251) -/

/-- The test of `vcmp` (R250). -/
def vecTest (cc : VecCc) (t : VType) (p q : Nat) : Bool :=
  let le (x y : Nat) : Bool := match vtFmt t with
    | some f => (FV.decode f x).le (FV.decode f y)
    | none => decide (intValue (vtSigned t) (8 * vtWidth t) x ≤ intValue (vtSigned t) (8 * vtWidth t) y)
  match cc with
  | .eq => le p q && le q p
  | .ne => !(le p q && le q p)
  | .lt => le p q && !le q p
  | .le => le p q
  | .gt => le q p && !le p q
  | .ge => le q p

/-- `vcmp` (R250). -/
def execVcmp (c : Ctl) (cc : VecCc) (t : VType) (p : BitVec 6) (b x : VSrc) (s : State) : Host.Outcome State Fault Refusal :=
  let w := vtWidth t
  let lat := if 2 ≤ w then 3 else 4
  if p.toNat < 16 then engIllegal .vec .illegal s
  else vecInstr c { dest := .pred p, srcs := [b, x], lat := lat, occ := if 2 ≤ w then 1 else 2 } (fun u =>
    withSrcs u [b, x] (some (vtDeliver t)) (immElem t) w (fun u vs =>
      let h := u.me
      let val (k i j : Nat) : Nat := match vs[k]? with
        | some y => y.at w i j
        | none => 0
      .done (modMe u (fun m => putPred m p lat (testLanes w (activeAt h c w) (fun i j => vecTest cc t (val 0 i j) (val 1 i j))))))) s

/-- `vsel` (R251): pB is read like a guard component. -/
def execVsel (c : Ctl) (t : VType) (a : VDest) (p : BitVec 6) (x y : VSrc) (s : State) : Host.Outcome State Fault Refusal :=
  let wide := decide (2 ≤ vtWidth t)
  elementwise c t a [x, y] [p] (if wide then 3 else 4) (if wide then 1 else 2)
    (fun h _ lane vs => (if laneP h p lane then vs.getD 0 0 else vs.getD 1 0, 0)) s

/-! ### Special functions (R254) -/

/-- A special function of f32 or bf16, rounded once from the exact value (R218, R254). -/
def specialOp (fn : SFn) (c : Ctl) (t : VType) (a : VDest) (b : VSrc) (s : State) : Host.Outcome State Fault Refusal :=
  if t ≠ .f32 ∧ t ≠ .bf16 then engIllegal .vec .illegal s
  else floatOp c t a [b] (if t = .f32 then 24 else 16) (if t = .f32 then 4 else 2) (fun o f vs => special fn o f (fvArg f vs 0)) s

/-- `vexp2` (R254). -/
def execVexp2 (c : Ctl) (t : VType) (a : VDest) (b : VSrc) (s : State) : Host.Outcome State Fault Refusal := specialOp .exp2 c t a b s
/-- `vexp` (R254). -/
def execVexp (c : Ctl) (t : VType) (a : VDest) (b : VSrc) (s : State) : Host.Outcome State Fault Refusal := specialOp .exp c t a b s
/-- `vlog2` (R254). -/
def execVlog2 (c : Ctl) (t : VType) (a : VDest) (b : VSrc) (s : State) : Host.Outcome State Fault Refusal := specialOp .log2 c t a b s
/-- `vrcp` (R254). -/
def execVrcp (c : Ctl) (t : VType) (a : VDest) (b : VSrc) (s : State) : Host.Outcome State Fault Refusal := specialOp .rcp c t a b s
/-- `vrsqrt` (R254). -/
def execVrsqrt (c : Ctl) (t : VType) (a : VDest) (b : VSrc) (s : State) : Host.Outcome State Fault Refusal := specialOp .rsqrt c t a b s
/-- `vsqrt` (R254). -/
def execVsqrt (c : Ctl) (t : VType) (a : VDest) (b : VSrc) (s : State) : Host.Outcome State Fault Refusal := specialOp .sqrt c t a b s
/-- `vtanh` (R254). -/
def execVtanh (c : Ctl) (t : VType) (a : VDest) (b : VSrc) (s : State) : Host.Outcome State Fault Refusal := specialOp .tanh c t a b s

/-! ### Conversions (R252, R253) -/

/-- The binary format of a conversion code. -/
def cvtFmtOf : CvtFmt → Option Fmt
  | .f32 => some .f32 | .bf16 => some .bf16 | .f16 => some .f16 | .e4m3 => some .e4m3 | .e5m2 => some .e5m2
  | _ => none
/-- Bits and signedness of an integer code. -/
def cvtIntOf : CvtFmt → Nat × Bool
  | .i32 => (32, true) | .i16 => (16, true) | .i8 => (8, true)
  | _ => (8, false)
/-- Bytes of an element of a code; a B16M code stands beside f32 elements. -/
def cvtWidth : CvtFmt → Nat
  | .f32 | .i32 | .b16m7 | .b16m4 | .b16m2 => 4
  | .bf16 | .f16 | .i16 => 2
  | .e4m3 | .e5m2 | .i8 | .u8 => 1
/-- m of a B16M code. -/
def cvtBlockM : CvtFmt → Option Nat
  | .b16m7 => some 7 | .b16m4 => some 4 | .b16m2 => some 2
  | _ => none
/-- The format a stream operand of a conversion must deliver; a B16M tile comes from no stream (R240, R253). -/
def cvtDeliver : CvtFmt → DFmt
  | .f32 => .f32 | .bf16 => .bf16 | .f16 => .f16 | .e4m3 => .e4m3 | .e5m2 => .e5m2 | .i32 => .i32 | .i16 => .i16 | .i8 => .i8 | .u8 => .u8
  | .b16m7 => .b16m7 | .b16m4 => .b16m4 | .b16m2 => .b16m2

/-- The value of an element read as a code. -/
def cvtValue (f : CvtFmt) (x : Nat) : FV :=
  match cvtFmtOf f with
  | some k => FV.decode k x
  | none => FV.ofInt (intValue (cvtIntOf f).2 (cvtIntOf f).1 x)

/-- One element converted (R210 to R212, R252). -/
def cvtElem (o : OvfTable) (f t : CvtFmt) (rnd : Rnd) (x : Nat) : Nat × FpFlags :=
  match cvtFmtOf t with
  | some k => roundTo o k rnd (cvtValue f x)
  | none =>
    let (n, sg) := cvtIntOf t
    let r := fvToInt rnd (intLo sg n) (intHi sg n) (cvtValue f x)
    (intBits n r.1, r.2)

/-- A row of 64 bytes of a tile, as one number. -/
def tileRow (b : TileBits) (r : Nat) : Nat := (b.extractLsb' (512 * r) 512).toNat
/-- A tile from sixteen rows. -/
def rowsTile (l : List Nat) : TileBits := BitVec.ofNat 8192 (l.foldr (fun x acc => x % 2 ^ 512 + 2 ^ 512 * acc) 0)

/-- The rows of a conversion to B16M: rows in use are whole blocks, the others old (R253). -/
def toBlocks (h : Shuttle) (c : Ctl) (o : OvfTable) (m : Nat) (rnd : Rnd) (old : TileBits) (v : SrcVal) : TileBits × FpFlags :=
  let rs := (List.range 16).map fun r =>
    if r < h.rows then
      let xs := (List.range 16).map fun j => if j < colsAt h 4 ∧ guardLane h c (laneOf 4 r j) then f32 (v.at 4 r j) else f32 0
      let (p, e, mu, fl) := b16Encode o m rnd xs
      (p + 2 ^ 496 * (e + 256 * mu), fl)
    else (tileRow old r, (0 : FpFlags))
  (rowsTile (rs.map (·.1)), joinFlags (rs.map (·.2)))

/-- Element (r, j) of a B16M tile, exactly (R208, R253). -/
def fromBlock (m : Nat) (v : SrcVal) (r j : Nat) : Nat × FpFlags :=
  match v with
  | .const _ => (0, 0)
  | .tile b =>
    let row := tileRow b r
    roundF32 (b16Value m (row % 2 ^ (8 * b16Bytes m)) (row / 2 ^ 496 % 256) (row / 2 ^ 504 % 256) j)

/-- The figures of a conversion (R263). -/
def cvtFigures (f t : CvtFmt) : Nat × Nat :=
  if (cvtBlockM f).isSome ∨ (cvtBlockM t).isSome then (10, 2)
  else if cvtWidth f = 1 ∨ cvtWidth t = 1 then (7, 2) else (6, 1)

/-- `vcvt` (R252, R253). -/
def execVcvt (c : Ctl) (f t : CvtFmt) (rnd : Rnd) (a : VDest) (b : VSrc) (s : State) : Host.Outcome State Fault Refusal :=
  let (lat, occ) := cvtFigures f t
  let bad : Bool := !cvtPair f t || match b with
    | .imm _ => true
    | .k _ => (cvtBlockM f).isSome
    | _ => false
  if bad then engIllegal .vec .illegal s
  else vecInstr c { dest := .tile a, srcs := [b], lat := lat, occ := occ } (fun u =>
    withSrcs u [b] (some (cvtDeliver f)) (fun _ => 0) (cvtWidth f) (fun u vs =>
      let h := u.me
      let o := ovfOf h .vec
      let v := vs.headD (.const 0)
      let old := oldBits h a
      let r : TileBits × FpFlags := match cvtBlockM t, cvtBlockM f with
        | some m, _ => toBlocks h c o m rnd old v
        | none, some m => tileOfElems 4 (activeAt h c 4) old (fun i j => fromBlock m v i j)
        | none, none =>
          let w := cvtWidth t
          tileOfElems w (fun i j => activeAt h c w i j && decide (j < 64 / cvtWidth f)) old (fun i j => cvtElem o f t rnd (v.at (cvtWidth f) i j))
      .done (raiseAt (modMe u (fun m => putDest m a lat r.1)) lat r.2))) s

/-! ### Reductions (R255, R256) -/

/-- The canonical NaN for any NaN (R206). -/
def canonNan (f : Fmt) (x : Nat) : Nat := if (FV.decode f x).isNan then f.cnan else x

/-- The types of `vred.sum` and `vred.max` (R53). -/
def redType : VType → Bool
  | .f32 | .bf16 | .f16 | .i32 => true
  | _ => false

/-- A sum of terms (R255). -/
def sumTerms (t : VType) (o : OvfTable) (xs : List Nat) : Nat × FpFlags :=
  match vtFmt t with
  | none => (xs.foldl (· + ·) 0 % 2 ^ 32, 0)
  | some .f32 =>
    let r := reedSum xs
    (canonNan .f32 r.1, r.2)
  | some f =>
    let r := reedSum (xs.map fun x => (roundF32 (FV.decode f x)).1)
    let y := roundTo o f .rne (f32 r.1)
    (y.1, r.2 ||| y.2)

/-- The greatest term (R255). -/
def maxTerms (t : VType) (xs : List Nat) : Nat :=
  match vtFmt t with
  | none => xs.foldl (fun m x => if signedOf 32 m < signedOf 32 x then x else m) (xs.headD 0)
  | some f =>
    if xs.any (fun x => (FV.decode f x).isNan) then f.cnan
    else xs.foldl (fun m x => if (FV.decode f x).leSigned (FV.decode f m) then m else x) (xs.headD 0)

/-- The positions of a reduction's line: of a row, or of a column (R255). -/
def lineOfRed (h : Shuttle) (w : Nat) (row : Bool) (i : Nat) : List (Nat × Nat) :=
  if row then (List.range (colsAt h w)).map (fun j => (i, j)) else (List.range h.rows).map (fun r => (r, i))

/-- A reduction's results, one a line in SHAPE, and its flags over every tree. -/
def redResults {α : Type} (h : Shuttle) (w : Nat) (row : Bool) (f : List (Nat × Nat) → α × FpFlags) : List α × FpFlags :=
  unzipFlags ((List.range (if row then h.rows else colsAt h w)).map fun i => f (lineOfRed h w row i))

/-- `vred.sum` and `vred.max`: every element in SHAPE is a term, and the guard masks the writes (R255). -/
def reduce (c : Ctl) (t : VType) (row : Bool) (a : VDest) (b : VSrc) (f : OvfTable → List Nat → Nat × FpFlags) (s : State) :
    Host.Outcome State Fault Refusal :=
  let w := vtWidth t
  let lat := if row then 14 else 12
  if !redType t then engIllegal .vec .illegal s
  else vecInstr c { dest := .tile a, srcs := [b], lat := lat, occ := 2 } (fun u =>
    withSrcs u [b] (some (vtDeliver t)) (immElem t) w (fun u vs =>
      let h := u.me
      let o := ovfOf h .vec
      let v := vs.headD (.const 0)
      let rs := redResults h w row (fun ps => f o (ps.map fun p => v.at w p.1 p.2))
      let d := tileOfElems w (activeAt h c w) (oldBits h a) (fun i j => (rs.1.getD (if row then i else j) 0, 0))
      .done (raiseAt (modMe u (fun m => putDest m a lat d.1)) lat rs.2))) s

/-- `vred.sum.row` (R255). -/
def execVredSumRow (c : Ctl) (t : VType) (a : VDest) (b : VSrc) (s : State) : Host.Outcome State Fault Refusal :=
  reduce c t true a b (fun o xs => sumTerms t o xs) s
/-- `vred.sum.col` (R255). -/
def execVredSumCol (c : Ctl) (t : VType) (a : VDest) (b : VSrc) (s : State) : Host.Outcome State Fault Refusal :=
  reduce c t false a b (fun o xs => sumTerms t o xs) s
/-- `vred.max.row` (R255). -/
def execVredMaxRow (c : Ctl) (t : VType) (a : VDest) (b : VSrc) (s : State) : Host.Outcome State Fault Refusal :=
  reduce c t true a b (fun _ xs => (maxTerms t xs, 0)) s
/-- `vred.max.col` (R255). -/
def execVredMaxCol (c : Ctl) (t : VType) (a : VDest) (b : VSrc) (s : State) : Host.Outcome State Fault Refusal :=
  reduce c t false a b (fun _ xs => (maxTerms t xs, 0)) s

/-- The root of a tree of pairs, in the type (R256). -/
def combRoot (t : VType) (o : OvfTable) (ps : List (Nat × Nat)) : (Nat × Nat) × FpFlags :=
  match vtFmt t with
  | some .f32 =>
    let r := reedOf comb (0, 0) ps
    ((canonNan .f32 r.1.1, canonNan .f32 r.1.2), r.2)
  | some f =>
    let up (x : Nat) : Nat := (roundF32 (FV.decode f x)).1
    let r := reedOf comb (0, 0) (ps.map fun p => (up p.1, up p.2))
    let m := roundTo o f .rne (f32 r.1.1)
    let q := roundTo o f .rne (f32 r.1.2)
    ((m.1, q.1), r.2 ||| m.2 ||| q.2)
  | none => ((0, 0), 0)

/-- `vred.maxsum` (R256). -/
def reducePairs (c : Ctl) (t : VType) (row : Bool) (a b : BitVec 3) (x y : VSrc) (s : State) : Host.Outcome State Fault Refusal :=
  let w := vtWidth t
  let lat := if row then 80 else 72
  if (t ≠ .f32 ∧ t ≠ .bf16) ∨ a = b then engIllegal .vec .illegal s
  else vecInstr c { dest := .pair a b, srcs := [x, y], lat := lat, occ := 16 } (fun u =>
    withSrcs u [x, y] (some (vtDeliver t)) (immElem t) w (fun u vs =>
      let h := u.me
      let o := ovfOf h .vec
      let v (k : Nat) : SrcVal := vs.getD k (.const 0)
      let rs := redResults h w row (fun ps => combRoot t o (ps.map fun p => ((v 0).at w p.1 p.2, (v 1).at w p.1 p.2)))
      let put (r : BitVec 3) (g : Nat × Nat → Nat) : TileBits :=
        (tileOfElems w (activeAt h c w) (oldBits h (.v r)) (fun i j => (g (rs.1.getD (if row then i else j) (0, 0)), 0))).1
      .done (raiseAt (modMe u (fun m => putTile (putTile m a.toNat lat (put a (·.1))) b.toNat lat (put b (·.2)))) lat rs.2))) s

/-- `vred.maxsum.row` (R256). -/
def execVredMaxsumRow (c : Ctl) (t : VType) (a b : BitVec 3) (x y : VSrc) (s : State) : Host.Outcome State Fault Refusal :=
  reducePairs c t true a b x y s
/-- `vred.maxsum.col` (R256). -/
def execVredMaxsumCol (c : Ctl) (t : VType) (a b : BitVec 3) (x y : VSrc) (s : State) : Host.Outcome State Fault Refusal :=
  reducePairs c t false a b x y s

/-! ### Movement (R257, R258) -/

/-- An untyped movement: SHAPE ignored, elements masked by the guard's lanes (R257). -/
def movement (c : Ctl) (w : Nat) (a : VDest) (srcs : List VSrc) (lat occ : Nat) (f : List SrcVal → Nat → Nat → Nat) (s : State) :
    Host.Outcome State Fault Refusal :=
  vecInstr c { dest := .tile a, srcs := srcs, lat := lat, occ := occ } (fun u =>
    withSrcs u srcs none (fun _ => 0) w (fun u vs =>
      let h := u.me
      let r := tileOfElems w (fun i j => guardLane h c (laneOf w i j)) (oldBits h a) (fun i j => (f vs i j, 0))
      .done (modMe u (fun m => putDest m a lat r.1)))) s

/-- Element (r, j) of the k-th operand. -/
def argAt (vs : List SrcVal) (k w r j : Nat) : Nat := (vs.getD k (.const 0)).at w r j

/-- `vmov` (R257). -/
def execVmov (c : Ctl) (a : VDest) (b : VSrc) (s : State) : Host.Outcome State Fault Refusal :=
  movement c 2 a [b] 2 1 (fun vs i j => argAt vs 0 2 i j) s

/-- `vbcast` (R257). -/
def execVbcast (c : Ctl) (x : XWidth) (a : VDest) (b : VSrc) (m : BitVec 7) (s : State) : Host.Outcome State Fault Refusal :=
  let isK : Bool := match b with
    | .k _ => true
    | _ => false
  if 1 < m.toNat ∨ (m = 1 ∧ isK) then engIllegal .vec .illegal s
  else movement c (xWidth x) a [b] 2 1 (fun vs i j => if m = 0 then argAt vs 0 (xWidth x) i 0 else argAt vs 0 (xWidth x) 0 j) s

/-- `vtrn` (R257): each block of sixteen columns is transposed. -/
def execVtrn (c : Ctl) (x : XWidth) (a : VDest) (b : VSrc) (s : State) : Host.Outcome State Fault Refusal :=
  movement c (xWidth x) a [b] 6 2 (fun vs i j => argAt vs 0 (xWidth x) (j % 16) (i + j / 16 * 16)) s

/-- `vperm` (R257). -/
def execVperm (c : Ctl) (x : XWidth) (a : VDest) (b y : VSrc) (s : State) : Host.Outcome State Fault Refusal :=
  let w := xWidth x
  movement c w a [b, y] 6 2 (fun vs i j => argAt vs 0 w i (argAt vs 1 w i j % (64 / w))) s

/-- `vld` (R258): masked by the lanes of the delivered width. -/
def execVld (c : Ctl) (a : VDest) (r : BitVec 4) (s : State) : Host.Outcome State Fault Refusal :=
  vecInstr c { dest := .tile a, srcs := [.s r], lat := 4 } (fun u =>
    let w := match getS u.me r with
      | some x => (dWidth (delivered x.desc)).getD 1
      | none => 1
    withSrcs u [.s r] none (fun _ => 0) w (fun u vs =>
      let h := u.me
      let d := tileOfElems w (fun i j => guardLane h c (laneOf w i j)) (oldBits h a) (fun i j => (argAt vs 0 w i j, 0))
      .done (modMe u (fun m => putDest m a 4 d.1)))) s

/-- A named tile or a result slot as a source. -/
def regSrc (x : VReg) : VSrc :=
  match x with
  | .v r => .v r
  | .t k => .t k

/-- Is an output stream within the limits of `vst` (R240, R258)? -/
def outOk (x : Stream) : Bool :=
  x.desc.out && decide (x.desc.decode = 0) &&
    match dWidth (delivered x.desc) with
    | some w => decide (x.desc.rows ≤ 16 ∧ x.desc.cols * w ≤ 64)
    | none => false

/-- `vst` (R258): one block handed over, read at the stream's element width. -/
def execVst (c : Ctl) (r : BitVec 4) (b : VReg) (s : State) : Host.Outcome State Fault Refusal :=
  if 16 ≤ c.ga.toNat ∨ 16 ≤ c.gb.toNat then engIllegal .vec .illegal s
  else vecInstr c { dest := .none, srcs := [regSrc b], lat := 4 } (fun u =>
    match getS u.me r with
    | none => .abort u .illegal {}
    | some x =>
      if !outOk x then .abort u .illegal {}
      else
        let w := (dWidth (delivered x.desc)).getD 1
        let (u1, v) := srcVal1 u (fun _ => 0) w (regSrc b) none
        handOver u1 r x ((List.range (x.desc.rows * x.desc.cols)).map fun i => v.at w (i / x.desc.cols) (i % x.desc.cols))) s

/-! ### SHAPE (R236, R247) -/

/-- ROWS and COLS of a number, where they lie in range and nothing else is set. -/
def shapeOf (n : Nat) : Option (Nat × Nat) :=
  let rows := n / 256 % 32
  let cols := n % 128
  if 1 ≤ rows ∧ rows ≤ 16 ∧ 1 ≤ cols ∧ cols ≤ 64 ∧ n = rows * 256 + cols then some (rows, cols) else none

/-- SHAPE set from a number, or the entry aborted with a code. -/
def setShape (s : State) (n : Nat) (c : Code) : EngRes :=
  match shapeOf n with
  | some (r, k) => .done (modMe s (fun h => { h with rows := r, cols := k }))
  | none => .abort s c {}

/-- `vshape rows, cols` (R247). -/
def execVshapeImm (c : Ctl) (imm : BitVec 20) (s : State) : Host.Outcome State Fault Refusal :=
  vecInstr c { dest := .none, lat := 1 } (fun u => setShape u imm.toNat .illegal) s
/-- `vshape kA` (R247). -/
def execVshapeK (c : Ctl) (k : BitVec 2) (s : State) : Host.Outcome State Fault Refusal :=
  vecInstr c { dest := .none, lat := 1 } (fun u => setShape u (kVal u.me .vec k).toNat .bounds) s

/-! ### Predicate logic, counts, votes, extraction (R259 to R261) -/

/-- A lane-by-lane operation over all 512 lanes (R259). -/
def predOp (c : Ctl) (a : BitVec 6) (srcs : List (BitVec 6)) (f : List Bool → Bool) (s : State) : Host.Outcome State Fault Refusal :=
  if a.toNat < 16 then engIllegal .vec .illegal s
  else vecInstr c { dest := .pred a, preds := srcs, lat := 1 } (fun u =>
    let h := u.me
    .done (modMe u (fun m => putPred m a 1 (lanesBuild fun l => guardLane h c l && f (srcs.map fun p => laneP h p l))))) s

/-- `vpand` (R259). -/
def execVpand (c : Ctl) (a b p : BitVec 6) (s : State) : Host.Outcome State Fault Refusal :=
  predOp c a [b, p] (fun l => l.getD 0 false && l.getD 1 false) s
/-- `vpor` (R259). -/
def execVpor (c : Ctl) (a b p : BitVec 6) (s : State) : Host.Outcome State Fault Refusal :=
  predOp c a [b, p] (fun l => l.getD 0 false || l.getD 1 false) s
/-- `vpxor` (R259). -/
def execVpxor (c : Ctl) (a b p : BitVec 6) (s : State) : Host.Outcome State Fault Refusal :=
  predOp c a [b, p] (fun l => l.getD 0 false != l.getD 1 false) s
/-- `vpnot` (R259). -/
def execVpnot (c : Ctl) (a b : BitVec 6) (s : State) : Host.Outcome State Fault Refusal := predOp c a [b] (fun l => !l.getD 0 false) s

/-- A predicate over every lane whose guard is true, as a scalar (R260); `idle` is its value over no lanes. -/
def predScalar (c : Ctl) (a : BitVec 6) (idle : Word) (f : List Bool → Nat) (s : State) : Host.Outcome State Fault Refusal :=
  vecInstr c { dest := .fifo idle, preds := [a], lat := 4 } (fun u =>
    let h := u.me
    .done (emitVec u 4 (BitVec.ofNat 64 (f (((List.range 512).filter (guardLane h c)).map (laneP h a)))))) s

/-- `vpcount` (R260). -/
def execVpcount (c : Ctl) (a : BitVec 6) (s : State) : Host.Outcome State Fault Refusal := predScalar c a 0 (fun l => l.count true) s
/-- `vote.any` (R260). -/
def execVoteAny (c : Ctl) (a : BitVec 6) (s : State) : Host.Outcome State Fault Refusal :=
  predScalar c a 0 (fun l => if l.any id then 1 else 0) s
/-- `vote.all` (R260). -/
def execVoteAll (c : Ctl) (a : BitVec 6) (s : State) : Host.Outcome State Fault Refusal :=
  predScalar c a 1 (fun l => if l.all id then 1 else 0) s

/-- A row or column operand of `vext` within 0 to 15; none where a k register has another bit set (R261). -/
def extIndex (h : Shuttle) (x : KOrImm) : Option Nat :=
  let n := (kOrImmVal h .vec x).toNat
  if n < 16 then some n else none

/-- `vext` (R261). -/
def execVext (c : Ctl) (a : VReg) (r x : KOrImm) (s : State) : Host.Outcome State Fault Refusal :=
  vecInstr c { dest := .fifo 0, srcs := [regSrc a], lat := 4 } (fun u =>
    match extIndex u.me r, extIndex u.me x with
    | some i, some j =>
      let (u1, v) := srcVal1 u (fun _ => 0) 4 (regSrc a) none
      .done (emitVec u1 4 (if guardLane u.me c (32 * i + 2 * j) then BitVec.ofNat 64 (v.at 4 i j) else 0))
    | _, _ => .abort u .bounds {}) s

end Sys2Proof.Machine
end

