-- ==== Sys2Proof/Machine/Rewrite.lean ====
section
/-! DEFINITION. The rewrite stage of VEC and MTX and its card deck (R266 to R285): cards and their checks, the window, matching, the
issue and the withdrawal of a group. -/
namespace Sys2Proof.Machine

/-! ### Features (R6, R57) -/

/-- Is an opcode assigned as far as accepted features go (R57)? -/
def featureOk (s : State) (op : Nat) : Bool :=
  let on (i : Nat) : Bool := s.module.accept.getLsbD i
  if op = 0x101 ∨ op = 0x10E ∨ (0x340 ≤ op ∧ op ≤ 0x34F) ∨ (0x3A0 ≤ op ∧ op ≤ 0x3A7) ∨ (0x3D0 ≤ op ∧ op ≤ 0x3D3) then on 0
  else if (0x350 ≤ op ∧ op ≤ 0x35F) ∨ (0x3A8 ≤ op ∧ op ≤ 0x3AF) ∨ (0x3D4 ≤ op ∧ op ≤ 0x3D7) then on 1
  else if op = 0x0C1 then on 2
  else if op = 0x110 then on 3
  else true

/-! ### What an opcode's slots accept (R189, R247) -/

/-- What an operand slot accepts. -/
inductive SlotClass where
  | unused | dest | src | tile | tileOrK | v | p16 | p0 | sIn | sOut | k | immOrK | acc | imm | bsrc | vreg
deriving DecidableEq, Repr

/-- Five slots, those not named unused. -/
def slots5 (l : List SlotClass) : List SlotClass := (l ++ List.replicate 5 SlotClass.unused).take 5

/-- The slots of a VEC opcode (R247); none for an unassigned one and for one that emits to the FIFO, which no card may name (R279). -/
def vecForm (op : Nat) : Option (List SlotClass) :=
  let t := op % 8
  let base := op - t
  let flt := decide (t < 3)
  let int := decide (4 ≤ t)
  if op < 0x140 ∨ 0x2C0 ≤ op then none
  else if base ∈ [0x140, 0x148, 0x150, 0x170, 0x178, 0x190] then (if flt then some (slots5 [.dest, .src, .src]) else none)
  else if base ∈ [0x158, 0x160, 0x168] then (if flt then some (slots5 [.dest, .src, .src, .src]) else none)
  else if base ∈ [0x180, 0x188] then (if flt then some (slots5 [.dest, .src]) else none)
  else if base < 0x1F0 then (if int then some (slots5 [.dest, .src, .src]) else none)
  else if base < 0x220 then (if flt || int then some (slots5 [.p16, .src, .src]) else none)
  else if base = 0x220 then (if flt || int then some (slots5 [.dest, .p0, .src, .src]) else none)
  else if base < 0x260 then (if t < 2 then some (slots5 [.dest, .src]) else none)
  else if base < 0x280 then (if flt || decide (t = 4) then some (slots5 [.dest, .tile]) else none)
  else if base < 0x290 then (if t < 2 then some (slots5 [.v, .v, .tile, .tile]) else none)
  else if op = 0x290 then some [.dest, .tileOrK, .imm, .imm, .imm]
  else if op = 0x298 then some (slots5 [.dest, .tile])
  else if op = 0x299 then some (slots5 [.dest, .sIn])
  else if op = 0x29A then some (slots5 [.sOut, .vreg])
  else if op = 0x29B then some (slots5 [.k])
  else if 0x29C ≤ op ∧ op ≤ 0x29E then some (slots5 [.dest, .tileOrK, .imm])
  else if 0x2A0 ≤ op ∧ op ≤ 0x2A2 then some (slots5 [.dest, .tile])
  else if 0x2A4 ≤ op ∧ op ≤ 0x2A6 then some (slots5 [.dest, .tile, .tile])
  else if 0x2A8 ≤ op ∧ op ≤ 0x2AA then some (slots5 [.p16, .p0, .p0])
  else if op = 0x2AB then some (slots5 [.p16, .p0])
  else none

/-- The slots of an MTX opcode (R189); none for an unassigned one (R56). -/
def mtxForm (op : Nat) : Option (List SlotClass) :=
  if 0x2C0 ≤ op ∧ op ≤ 0x35F then (if op % 4 = 3 then none else some (slots5 [.acc, .sIn, .bsrc, .imm]))
  else if 0x360 ≤ op ∧ op ≤ 0x3AF then some [.acc, .sIn, .bsrc, .imm, .immOrK]
  else if 0x3B0 ≤ op ∧ op ≤ 0x3D7 then some (slots5 [.acc, .sIn, .bsrc, .imm])
  else if op = 0x3D8 then some (slots5 [.acc, .imm, .imm])
  else if op = 0x3D9 then some [.acc, .imm, .imm, .imm, .k]
  else if op = 0x3DA then some (slots5 [.v, .acc, .imm])
  else if op = 0x3DB then some (slots5 [.acc, .v, .imm])
  else if op = 0x3DC then some (slots5 [.acc, .imm, .imm])
  else if op = 0x3DD then some (slots5 [.sIn, .imm, .imm])
  else if op = 0x3DE then some (slots5 [])
  else none

/-- The slots of an opcode of the engine of a card, with its feature accepted (R57, R282). -/
def cardForm (s : State) (mtx : Bool) (op : Nat) : Option (List SlotClass) :=
  if !featureOk s op then none else if mtx then mtxForm op else vecForm op

/-- May the stage match an opcode (R203, R264, R270)? -/
def mayMatch (s : State) (mtx : Bool) (op : Nat) : Bool :=
  (cardForm s mtx op).isSome && !decide (op = 0x29B ∨ op = 0x3DE ∨ (0x360 ≤ op ∧ op ≤ 0x3AF))

/-- Does a slot accept operands of a KIND (R273)? -/
def kindSuits (c : SlotClass) (kind : Nat) : Bool :=
  match kind with
  | 0 => true
  | 1 => c ∈ [SlotClass.dest, .src, .tile, .tileOrK, .v, .vreg]
  | 2 => c ∈ [SlotClass.dest, .src, .tile, .tileOrK, .vreg]
  | 3 => c ∈ [SlotClass.src, .tile, .tileOrK, .sIn, .sOut, .bsrc]
  | 4 | 5 | 6 => c ∈ [SlotClass.src, .tileOrK, .k, .immOrK]
  | _ => c = .unused

/-! ### The card (R272 to R274) -/

namespace Card
/-- A field of a card. -/
def bits (c : BitVec 512) (hi lo : Nat) : Nat := (c.extractLsb' lo (hi + 1 - lo)).toNat
/-- ENABLE. -/
def enable (c : BitVec 512) : Bool := c.getLsbD 0
/-- CLASS: 0 E, 1 B, 2 A, 3 F. -/
def cls (c : BitVec 512) : Nat := bits c 2 1
/-- ENG: MTX. -/
def mtx (c : BitVec 512) : Bool := c.getLsbD 3
/-- Pattern instructions. -/
def npat (c : BitVec 512) : Nat := bits c 5 4 + 1
/-- Replacement instructions. -/
def nrep (c : BitVec 512) : Nat := bits c 6 6 + 1
/-- ULP. -/
def ulp (c : BitVec 512) : Nat := bits c 15 8
/-- FROM. -/
def fromI (c : BitVec 512) : Nat := bits c 17 16
/-- TO. -/
def toI (c : BitVec 512) : Nat := bits c 18 18
/-- Pattern entry i. -/
def pat (c : BitVec 512) (i : Nat) : Nat := (c.extractLsb' (32 + 64 * i) 64).toNat
/-- Replacement entry i. -/
def rep (c : BitVec 512) (i : Nat) : Nat := (c.extractLsb' (288 + 96 * i) 96).toNat
/-- OP of an entry. -/
def op (p : Nat) : Nat := p % 1024
/-- IGN of a pattern entry. -/
def ign (p : Nat) : Nat := bitsOf p 11 10
/-- GANY. -/
def gany (p : Nat) : Bool := decide (bitsOf p 12 12 = 1)
/-- The constraint byte of slot i. -/
def slotByte (p i : Nat) : Nat := bitsOf p (23 + 8 * i) (16 + 8 * i)
/-- VAR of a constraint byte. -/
def var (b : Nat) : Nat := b % 8
/-- KIND of a constraint byte. -/
def kind (b : Nat) : Nat := bitsOf b 6 4
/-- TLOW of a replacement entry. -/
def tlow (r : Nat) : Bool := decide (bitsOf r 12 12 = 1)
/-- Is slot i substituted? -/
def subst (r i : Nat) : Bool := decide (bitsOf r (13 + i) (13 + i) = 1)
/-- The ten bits of slot i of a replacement: A at [67:58], E at [27:18]. -/
def slot (r i : Nat) : Nat := bitsOf r (67 - 10 * i) (58 - 10 * i)
/-- X, Y and OPER of a substituted slot. -/
def subX (x : Nat) : Nat := x % 8
/-- Y. -/
def subY (x : Nat) : Nat := bitsOf x 5 3
/-- OPER. -/
def oper (x : Nat) : Nat := bitsOf x 8 6
end Card

/-! ### The checks at load (R277, R279, R282) -/

/-- The pattern entries in use. -/
def cardPats (c : BitVec 512) : List Nat := (List.range (Card.npat c)).map (Card.pat c)
/-- The replacement entries in use. -/
def cardReps (c : BitVec 512) : List Nat := (List.range (Card.nrep c)).map (Card.rep c)

/-- The low bits that every wildcard of the pattern can take together (R273). -/
def wildValues (s : State) (c : BitVec 512) : List Nat :=
  (List.range 8).filter fun v => (cardPats c).all fun p => (cardForm s (Card.mtx c) (Card.op p + v % 2 ^ Card.ign p)).isSome

/-- What the slots of a pattern entry accept, its wildcard's low bits being those of `w` (R273). -/
def patForm (s : State) (c : BitVec 512) (w p : Nat) : List SlotClass :=
  (cardForm s (Card.mtx c) (Card.op p + w % 2 ^ Card.ign p)).getD []

/-- The opcode that a replacement entry forms under the low bits of the instruction that PAT0 matched (R274). -/
def repOp (c : BitVec 512) (w r : Nat) : Nat :=
  let n := 2 ^ Card.ign (Card.pat c 0)
  if Card.tlow r then Card.op r / n * n + w % n else Card.op r

/-- A slot of the pattern: its constraint byte, what it accepts, and whether it is the destination that R279 has named. -/
structure PatSlot where
  byte : Nat
  takes : SlotClass
  named : Bool

/-- Is a slot one that must hold a named tile (R279): slot A of a VEC opcode that produces a tile? -/
def namesTile (c : BitVec 512) (takes : SlotClass) (i : Nat) : Bool :=
  decide (takes = .dest) || (decide (takes = .v) && decide (i = 0) && !Card.mtx c)

/-- The slots of the pattern in order. -/
def patSlots (s : State) (c : BitVec 512) (w : Nat) : List PatSlot :=
  (cardPats c).flatMap fun p => (patForm s c w p).zipIdx.map fun x =>
    { byte := Card.slotByte p x.2, takes := x.1, named := namesTile c x.1 x.2 }

/-- The KIND a variable's slots require: of its bindings, one that is not 0. -/
def varKind (s : State) (c : BitVec 512) (w v : Nat) : Nat :=
  (((patSlots s c w).filter fun x => v ≠ 0 && Card.var x.byte = v).map fun x => Card.kind x.byte).foldl (fun a k => if k ≠ 0 then k else a) 0
/-- The KIND that a constraint byte puts on its slot, by itself or through its variable. -/
def byteKind (s : State) (c : BitVec 512) (w b : Nat) : Nat := if Card.var b = 0 then Card.kind b else varKind s c w (Card.var b)
/-- Is a variable bound by a slot of the pattern? -/
def varBound (s : State) (c : BitVec 512) (w v : Nat) : Bool := decide (v ≠ 0) && (patSlots s c w).any fun x => Card.var x.byte = v

/-- The stream operands of the pattern, by variable, in slot order (R279): slots of KIND 3, and slots of KIND 0 that could hold one. -/
def patStreams (s : State) (c : BitVec 512) (w : Nat) : List Nat :=
  (patSlots s c w).filterMap fun x =>
    let k := byteKind s c w x.byte
    if k = 3 ∨ (k = 0 ∧ kindSuits x.takes 3) then some (Card.var x.byte) else none

/-- The stream operands of the replacements, by variable, in slot order; a literal stream has no variable. -/
def repStreams (s : State) (c : BitVec 512) (w : Nat) : List Nat :=
  (cardReps c).flatMap fun r =>
    ((cardForm s (Card.mtx c) (repOp c w r)).getD []).zipIdx.filterMap fun x =>
      let v := Card.slot r x.2
      if Card.subst r x.2 then
        let k := varKind s c w (Card.subX v)
        if Card.oper v = 0 ∧ (k = 3 ∨ (k = 0 ∧ kindSuits x.1 3)) then some (Card.subX v) else none
      else if v / 128 = 3 then some 0 else none

/-- Does a literal suit its slot? -/
def literalSuits (c : SlotClass) (x : Nat) : Bool :=
  match c with
  | .unused => decide (x = 0)
  | .dest | .v => decide (0x100 ≤ x ∧ x < 0x108)
  | _ => true

/-- Is a replacement entry well formed (R274, R279, R282)? -/
def repOk (s : State) (c : BitVec 512) (w r : Nat) : Bool :=
  let form := cardForm s (Card.mtx c) (repOp c w r)
  decide (bitsOf r 11 10 = 0 ∧ bitsOf r 95 68 = 0) && form.isSome &&
    (form.getD []).zipIdx.all fun x =>
      let v := Card.slot r x.2
      if Card.subst r x.2 then
        decide (v < 512) && decide (x.1 ≠ .unused) && varBound s c w (Card.subX v) &&
          (if Card.oper v = 0 then
            kindSuits x.1 (varKind s c w (Card.subX v)) && (!namesTile c x.1 x.2 || decide (varKind s c w (Card.subX v) = 1))
          else if Card.oper v = 1 then
            kindSuits x.1 4 && varBound s c w (Card.subY v) && varKind s c w (Card.subX v) ∈ [5, 6] && varKind s c w (Card.subY v) ∈ [5, 6]
          else false)
      else literalSuits x.1 v

/-- Is a pattern entry well formed (R273, R279)? -/
def patOk (s : State) (c : BitVec 512) (w p : Nat) : Bool :=
  decide (Card.op p % 2 ^ Card.ign p = 0) && decide (bitsOf p 15 13 = 0 ∧ bitsOf p 63 56 = 0) &&
    (patForm s c w p).zipIdx.all fun x =>
      let b := Card.slotByte p x.2
      decide (bitsOf b 3 3 = 0 ∧ bitsOf b 7 7 = 0) && kindSuits x.1 (Card.kind b)

/-- Every destination of a result-producing opcode in the pattern is a named tile: of KIND 1, or of a variable that an earlier slot bound
with KIND 1 (R279). -/
def destsNamed (s : State) (c : BitVec 512) (w : Nat) : Bool :=
  let l := patSlots s c w
  l.zipIdx.all fun x =>
    !x.1.named || decide (Card.kind x.1.byte = 1) ||
      (decide (Card.var x.1.byte ≠ 0) && (l.take x.2).any fun y => Card.var y.byte = Card.var x.1.byte && Card.kind y.byte = 1)

/-- The pattern instructions that pop a stream and whose opcode appears in no replacement. -/
def removedPops (s : State) (c : BitVec 512) (w : Nat) : List Nat :=
  (List.range (Card.npat c)).filter fun i =>
    let p := Card.pat c i
    let pops := (patForm s c w p).zipIdx.any fun x => decide (x.1 ≠ .sOut ∧ byteKind s c w (Card.slotByte p x.2) = 3)
    let n := 2 ^ Card.ign p
    pops && !(cardReps c).any fun r => repOp c w r / n * n = Card.op p

/-- Do the fields of a card that no opcode touches pass (R272)? -/
def cardFields (c : BitVec 512) : Bool :=
  let f := decide (Card.cls c = 3)
  decide (Card.bits c 7 7 = 0 ∧ Card.bits c 31 19 = 0 ∧ Card.bits c 511 480 = 0)
    && (if Card.cls c = 1 then decide (1 ≤ Card.ulp c) else decide (Card.ulp c = 0))
    && (f || decide (Card.fromI c = 0 ∧ Card.toI c = 0))
    && ((List.range 4).all fun i => decide (i < Card.npat c) || decide (Card.pat c i = 0))
    && (decide (Card.nrep c = 2) || decide (Card.rep c 1 = 0))
    && (!f || decide (Card.fromI c < Card.npat c ∧ Card.toI c < Card.nrep c))

/-- Do the opcodes, kinds, variables and counts of a card pass, its wildcards having the low bits of `w` (R273, R274, R279, R282)? -/
def cardOkAt (s : State) (c : BitVec 512) (w : Nat) : Bool :=
  let f := decide (Card.cls c = 3)
  let removed := removedPops s c w
  let p := Card.pat c (Card.fromI c)
  let fromOp := Card.op p + w % 2 ^ Card.ign p
  (cardPats c).all (patOk s c w) && (cardReps c).all (repOk s c w) && destsNamed s c w
    && decide (patStreams s c w = repStreams s c w) && 0 ∉ patStreams s c w
    && (if removed = [] then true else f)
    && (!f || (Card.fromI c ∈ removed
        && (decide (fromOp = 0x298 ∨ fromOp = 0x299) || decide (0x2A0 ≤ fromOp ∧ fromOp ≤ 0x2A2))
        && (patForm s c w p).zipIdx.any fun x =>
            let b := Card.slotByte p x.2
            decide (byteKind s c w b = 3) && (List.range 5).any fun i =>
              let r := Card.rep c (Card.toI c)
              Card.subst r i && decide (Card.oper (Card.slot r i) = 0 ∧ Card.subX (Card.slot r i) = Card.var b)))

/-- Does a card's form pass, whatever its wildcards match (R272 to R274, R279, R282)? -/
def cardOk (s : State) (c : BitVec 512) : Bool :=
  cardFields c && !(wildValues s c).isEmpty && (wildValues s c).all (cardOkAt s c)

/-- The cards of a run of bytes. -/
def cardsOf (n : Nat) (bs : List Byte) : List (BitVec 512) := (List.range n).map fun i => bits512 ((bs.drop (64 * i)).take 64)

/-- `card.load` (R136, R283). -/
def execCardLoad (c : Ctl) (a b : BitVec 5) (s : State) : Host.Outcome State Fault Refusal :=
  privInstr c (fun t =>
    let n := (getG t.me b).toNat
    let base := (ctxOf t t.me.tenant).cardBase.toNat
    let install (u : State) (d : List (BitVec 512)) : State := modCtx u u.me.tenant (fun x => { x with deck := d })
    let answer (u : State) (v : Nat) : SeqRes := .done (setVariable u (.g a) (BitVec.ofNat 64 v)) 1
    if !arithDone t.me then .wait t .retry
    else if 128 < n then answer t 0xFFFF
    else if n = 0 then answer (install t []) 0
    else if base % 64 ≠ 0 then .fault t { code := .bounds, va := base }
    else match sysRead t base (64 * n) with
      | (u, none) => .wait u .retry
      | (u, some (.error x)) => .fault u x
      | (u, some (.ok bs)) =>
        let cards := cardsOf n bs
        match cards.findIdx? (fun x => !cardOk u x) with
        | some i => answer u (1 + i)
        | none => answer (install u cards) 0) s

/-- The meaning of an instruction that may stand in a replacement. -/
def repMeaning (i : Instr) (s : State) : Option (Host.Outcome State Fault Refusal) :=
  match i with
  | .vadd c t a b x => some (execVadd c t a b x s)
  | .vsub c t a b x => some (execVsub c t a b x s)
  | .vmul c t a b x => some (execVmul c t a b x s)
  | .vfma c t a b x y => some (execVfma c t a b x y s)
  | .vfms c t a b x y => some (execVfms c t a b x y s)
  | .vnfma c t a b x y => some (execVnfma c t a b x y s)
  | .vmin c t a b x => some (execVmin c t a b x s)
  | .vmax c t a b x => some (execVmax c t a b x s)
  | .vabs c t a b => some (execVabs c t a b s)
  | .vneg c t a b => some (execVneg c t a b s)
  | .vcopysign c t a b x => some (execVcopysign c t a b x s)
  | .viadd c t a b x => some (execViadd c t a b x s)
  | .visub c t a b x => some (execVisub c t a b x s)
  | .vimul c t a b x => some (execVimul c t a b x s)
  | .vand c t a b x => some (execVand c t a b x s)
  | .vor c t a b x => some (execVor c t a b x s)
  | .vxor c t a b x => some (execVxor c t a b x s)
  | .vshl c t a b x => some (execVshl c t a b x s)
  | .vshr c t a b x => some (execVshr c t a b x s)
  | .vsra c t a b x => some (execVsra c t a b x s)
  | .vimin c t a b x => some (execVimin c t a b x s)
  | .vimax c t a b x => some (execVimax c t a b x s)
  | .vcmp c cc t p b x => some (execVcmp c cc t p b x s)
  | .vsel c t a p x y => some (execVsel c t a p x y s)
  | .vexp2 c t a b => some (execVexp2 c t a b s)
  | .vexp c t a b => some (execVexp c t a b s)
  | .vlog2 c t a b => some (execVlog2 c t a b s)
  | .vrcp c t a b => some (execVrcp c t a b s)
  | .vrsqrt c t a b => some (execVrsqrt c t a b s)
  | .vsqrt c t a b => some (execVsqrt c t a b s)
  | .vtanh c t a b => some (execVtanh c t a b s)
  | .vredSumRow c t a b => some (execVredSumRow c t a b s)
  | .vredSumCol c t a b => some (execVredSumCol c t a b s)
  | .vredMaxRow c t a b => some (execVredMaxRow c t a b s)
  | .vredMaxCol c t a b => some (execVredMaxCol c t a b s)
  | .vredMaxsumRow c t a b x y => some (execVredMaxsumRow c t a b x y s)
  | .vredMaxsumCol c t a b x y => some (execVredMaxsumCol c t a b x y s)
  | .vcvt c f t m a b => some (execVcvt c f t m a b s)
  | .vmov c a b => some (execVmov c a b s)
  | .vld c a r => some (execVld c a r s)
  | .vst c r b => some (execVst c r b s)
  | .vbcast c x a b m => some (execVbcast c x a b m s)
  | .vtrn c x a b => some (execVtrn c x a b s)
  | .vperm c x a b y => some (execVperm c x a b y s)
  | .vpand c a b p => some (execVpand c a b p s)
  | .vpor c a b p => some (execVpor c a b p s)
  | .vpxor c a b p => some (execVpxor c a b p s)
  | .vpnot c a b => some (execVpnot c a b s)
  | .mma c f m n a b x d => some (execMma c f m n a b x d s)
  | .mmaReed c f m b x d => some (execMmaReed c f m b x d s)
  | .accZero c a n m => some (execAccZero c a n m s)
  | .accScale c a n b x k => some (execAccScale c a n b x k s)
  | .accRd c v a b => some (execAccRd c v a b s)
  | .accWr c a v b => some (execAccWr c a v b s)
  | .accFlush c b x => some (execAccFlush c b x s)
  | .mpre c r f n => some (execMpre c r f n s)
  | .vshapeK c k => some (execVshapeK c k s)
  | .msync c => some (execMsync c s)
  | _ => none

/-! ### The window (R266, R269 to R271) -/

/-- An instruction of an entry: line, slot, word, and whether its line's PERM differs from that of the line before. -/
structure Seen where
  line : Nat
  slot : Nat
  word : IWord
  perm : Nat
  permFlush : Bool

/-- The lines of an entry in order, the line in hand as its fetch read it, up to the first whose slot 0 fails: one of another MODE, or
one that R40 forbids (R24, R270). -/
def entryLines (s : State) (h : Shuttle) (e : Eng) (c : Cur) : Nat → Nat → List (Nat × BitVec 512)
  | 0, _ => []
  | k + 1, n =>
    let l := if k + 1 = c.left then c.hand else peekLine s h n
    match l with
    | none => []
    | some l =>
      if breach l (engCode e) ∨ Link.inter l ≠ c.inter ∨ h.kern.lines ≤ n then []
      else (n, l) :: (if Link.last l then [] else entryLines s h e c k (Link.next l))

/-- The instructions of an entry in chain order. -/
def entrySeen (s : State) (h : Shuttle) (e : Eng) (c : Cur) : List (List Seen) :=
  let ls := entryLines s h e c c.entry.lines c.entry.head
  ls.zipIdx.map fun x =>
    let l := x.1.2
    let before := if x.2 = 0 then Link.perm l else Link.perm ((ls[x.2 - 1]?).elim 0 (·.2))
    (List.range (Nat.min 5 (Link.slots l))).map fun i =>
      { line := x.1.1, slot := i, word := slotWord l i, perm := Link.perm l, permFlush := decide (i = 0 ∧ Link.perm l ≠ before) }

/-- Does an instruction fail at its operand limits as its engine stands (R48, R186, R240)? It is then never matched (R49, R203). -/
def outsideLimits (s : State) (i : Instr) : Bool :=
  match repMeaning i (modMe s (fun h => { h with dueTrap := none })) with
  | some (.next t) => t.me.dueTrap.any fun x => decide (x.1 = .illegal)
  | _ => false

/-- Is an instruction a flush point, given the one before it in the entry (R270)? -/
def flushPoint (s : State) (e : Eng) (prev : Option Seen) (x : Seen) : Bool :=
  let r := unpack x.word
  let u : Unit4 := if e = .mtx then .mtx else .vec
  decide (r.pop ≠ 0 ∨ r.push ≠ 0) || x.permFlush || !mayMatch s (decide (e = .mtx)) r.op.toNat
    || (match decodeOn u x.word with
      | .ok i => outsideLimits s i
      | .error _ => true)
    || match prev with
      | none => false
      | some p =>
        let q := unpack p.word
        !decide (q.ga = r.ga ∧ q.gan = r.gan ∧ q.gb = r.gb ∧ q.gbn = r.gbn)

/-- The instructions from a point on that no flush point interrupts, at most four. -/
def windowFrom (s : State) (e : Eng) : Nat → Option Seen → List Seen → List Seen
  | 0, _, _ => []
  | _, _, [] => []
  | k + 1, prev, x :: xs => if flushPoint s e prev x then [] else x :: windowFrom s e k (some x) xs

/-- The window of an engine at its next instruction (R266): none where the stage does not act on the entry (R269). -/
def windowOfEng (s : State) (e : Eng) : List Seen :=
  match e, (engOf s.me e).cur with
  | .str, _ => []
  | _, none => []
  | _, some c =>
    if c.entry.loop.isSome ∨ !c.inter ∨ c.withheld ≠ 0 ∨ c.popped ∨ c.bodyDone ∨ c.aborting.isSome ∨ 16 ≤ fifoCount s.me e ∨ !c.deck.any (·.getLsbD 0) then []
    else
      let ls := entrySeen s s.me e c
      let i := c.entry.lines - c.left
      let before := (ls.take i).flatten ++ (ls.getD i []).take c.slot
      let rest := (ls.getD i []).drop c.slot ++ (ls.drop (i + 1)).flatten
      windowFrom s e 4 before.getLast? rest

/-! ### Matching (R273, R275, R278) -/

/-- Does an operand slot meet a KIND (R273)? -/
def kindHolds (h : Shuttle) (e : Eng) (kind x : Nat) : Bool :=
  let k := (kVal h e (BitVec.ofNat 2 x)).toNat % 2 ^ 32
  let isK := decide (x / 4 = 0xA0)
  match kind with
  | 0 => true
  | 1 => decide (x / 8 = 0x20)
  | 2 => decide (x / 16 = 0x14)
  | 3 => decide (x / 16 = 0x18)
  | 4 => isK
  | 5 => isK && decide (k % 2 ^ 23 = 0) && decide (127 ≤ k / 2 ^ 23 ∧ k / 2 ^ 23 ≤ 190)
  | 6 => isK && decide (64 ≤ k / 2 ^ 23 % 256 ∧ k / 2 ^ 23 % 256 ≤ 190)
  | _ => decide (x = 0)

/-- The operand slots of a word. -/
def rawSlots (r : Raw) : List Nat := [r.a.toNat, r.b.toNat, r.c.toNat, r.d.toNat, r.e.toNat]

/-- Variables bound while a pattern is matched: a variable with an encoding, and the low bits of the first wildcard. -/
structure Bind where
  vars : List (Nat × Nat) := []
  wild : Option Nat := none

/-- A slot matched against its constraint byte. -/
def matchSlot (h : Shuttle) (e : Eng) (b : Bind) (byte x : Nat) : Option Bind :=
  if !kindHolds h e (Card.kind byte) x then none
  else
    let v := Card.var byte
    if v = 0 then some b
    else match b.vars.find? (fun y => y.1 = v) with
      | some y => if y.2 = x then some b else none
      | none => some { b with vars := (v, x) :: b.vars }

/-- Slots matched in order. -/
def matchSlots (h : Shuttle) (e : Eng) (p : Nat) : Bind → List (Nat × Nat) → Option Bind
  | b, [] => some b
  | b, (x, i) :: rest =>
    match matchSlot h e b (Card.slotByte p i) x with
    | none => none
    | some b' => matchSlots h e p b' rest

/-- An instruction matched against a pattern entry. -/
def matchEntry (h : Shuttle) (e : Eng) (b : Bind) (p : Nat) (x : Seen) : Option Bind :=
  let r := unpack x.word
  let n := 2 ^ Card.ign p
  let op := r.op.toNat
  let plain := decide (r.ga = 0 ∧ r.gan = false ∧ r.gb = 0 ∧ r.gbn = false)
  if op / n * n ≠ Card.op p then none
  else if !(Card.gany p || plain) then none
  else
    let wild : Option Bind :=
      if n = 1 then some b
      else match b.wild with
        | none => some { b with wild := some (op % 8) }
        | some w => if w % n = op % n then some b else none
    match wild with
    | none => none
    | some b1 => matchSlots h e p b1 (rawSlots r).zipIdx

/-- A window matched against a pattern, in order. -/
def matchPats (h : Shuttle) (e : Eng) : Bind → List Nat → List Seen → Option Bind
  | b, [], _ => some b
  | _, _ :: _, [] => none
  | b, p :: ps, x :: xs =>
    match matchEntry h e b p x with
    | none => none
    | some b' => matchPats h e b' ps xs

/-- Does a class apply under the group's PERM and the launch's flags (R275)? -/
def classAllowed (cls perm : Nat) (climb paired : Bool) : Bool :=
  match cls with
  | 1 => decide (perm = 1 ∨ perm = 2) && !climb
  | 2 => decide (perm = 2) && !climb && !paired
  | _ => true

/-- A group: the card's index and bits, its instructions, the bindings. -/
structure Group' where
  idx : Nat
  card : BitVec 512
  seen : List Seen
  bind : Bind

/-- The first card of the deck that matches the window (R266, R278). -/
def findGroup (s : State) (e : Eng) : Option Group' :=
  let w := windowOfEng s e
  match w with
  | [] => none
  | x :: _ =>
    firstSome (fun i =>
      match (curOf s.me e).deck[i]? with
      | none => none
      | some c =>
        if !Card.enable c ∨ Card.mtx c ≠ decide (e = .mtx) ∨ !classAllowed (Card.cls c) x.perm s.me.climb s.me.paired then none
        else (matchPats s.me e {} (cardPats c) w).map fun b => { idx := i, card := c, seen := w.take (Card.npat c), bind := b })
      (List.range (curOf s.me e).deck.length)

/-! ### The replacement (R274, R278) -/

/-- The encoding bound to a variable. -/
def boundTo (b : Bind) (v : Nat) : Nat := ((b.vars.find? fun y => y.1 = v).map (·.2)).getD 0

/-- Slots of a replacement built from left to right: the slot encodings, and the k registers that stand for products, by number. -/
def buildSlots (h : Shuttle) (e : Eng) (b : Bind) (r : Nat) (free : List Nat) : List Nat → List Nat × List (Nat × Word)
  | [] => ([], [])
  | i :: is =>
    let v := Card.slot r i
    if !Card.subst r i then
      let (xs, ks) := buildSlots h e b r free is
      (v :: xs, ks)
    else if Card.oper v = 1 then
      let val (x : Nat) : FV := f32 ((kVal h e (BitVec.ofNat 2 (boundTo b x))).toNat % 2 ^ 32)
      let p := (roundF32 ((val (Card.subX v)).mul (val (Card.subY v))).1).1
      let k := free.headD 0
      let (xs, ks) := buildSlots h e b r (free.drop 1) is
      ((0x280 + k) :: xs, (k, BitVec.ofNat 64 p) :: ks)
    else
      let (xs, ks) := buildSlots h e b r free is
      (boundTo b (Card.subX v) :: xs, ks)

/-- A replacement instruction with the group's guard: its word, and the k values it reads in place of captured ones. -/
def buildRep (h : Shuttle) (e : Eng) (g : Group') (r : Nat) : IWord × List (Nat × Word) :=
  let n := 2 ^ Card.ign (Card.pat g.card 0)
  let op := if Card.tlow r then Card.op r / n * n + g.bind.wild.getD 0 % n else Card.op r
  let direct := (List.range 5).filterMap fun i =>
    if !Card.subst r i then some (Card.slot r i) else if Card.oper (Card.slot r i) = 1 then none else some (boundTo g.bind (Card.subX (Card.slot r i)))
  let free := (List.range 4).filter fun k => (0x280 + k) ∉ direct
  let (xs, ks) := buildSlots h e g.bind r free (List.range 5)
  let q := unpack ((g.seen.head?).elim 0 (·.word))
  let x (i : Nat) : BitVec 10 := BitVec.ofNat 10 (xs.getD i 0)
  (pack { op := BitVec.ofNat 10 op, ga := q.ga, gan := q.gan, gb := q.gb, gbn := q.gbn, a := x 0, b := x 1, c := x 2, d := x 3, e := x 4 }, ks)

/-- A line that holds replacement words and one slot more, in the hand of an engine. -/
def repLine (e : Eng) (ws : List IWord) : BitVec 512 :=
  BitVec.ofNat 512 ((if e = .mtx then 3 else 2) * 2 ^ 29 + 16 * (ws.length + 1) + 8
    + 2 ^ 32 * ws.foldr (fun w acc => w.toNat + 2 ^ 96 * acc) 0)

/-- k values put in place of captured ones. -/
def withKs (x : Entry) (ks : List (Nat × Word)) : Entry :=
  ks.foldl (fun x k => match k.1 with
    | 0 => { x with k0 := k.2 } | 1 => { x with k1 := k.2 } | 2 => { x with k2 := k.2 } | _ => { x with k3 := k.2 }) x

/-- How the replacement's instructions fare. -/
inductive RepEnd where
  | done (s : State)
  | notReady
  | fails

/-- Replacement instructions run in order from slot i of their line (R278 step 3). -/
def runReps (e : Eng) (orig : Entry) : State → Nat → List (IWord × List (Nat × Word)) → RepEnd
  | s, _, [] => .done s
  | s, i, (w, ks) :: rest =>
    let s0 := modMe s (fun h => modCur h e (fun c => { c with entry := withKs orig ks }))
    match decodeOn (if e = .mtx then .mtx else .vec) w with
    | .error _ => .fails
    | .ok ins =>
      match repMeaning ins s0 with
      | some (.next t) =>
        match (engOf t.me e).cur with
        | none => .fails
        | some c => if c.aborting.isSome then .fails else if c.slot = i + 1 then runReps e orig t (i + 1) rest else .notReady
      | _ => .fails

/-- The input streams that the replacement pops, in order (R278, R279). -/
def repPops (s : State) (mtx : Bool) (ws : List IWord) : List (BitVec 4) :=
  ws.flatMap fun w =>
    let r := unpack w
    let form := (cardForm s mtx r.op.toNat).getD []
    ((rawSlots r).zip form).filterMap fun x => if x.1 / 16 = 0x18 ∧ x.2 ≠ .sOut then some (BitVec.ofNat 4 x.1) else none

/-- The engine one slot on, with the line in hand. -/
def advanceHand (s : State) (e : Eng) (issued : Bool) (h : Shuttle) : Shuttle :=
  let h1 := stepEng issued h e
  match (engOf h1 e).cur with
  | some c => if c.hand.isNone then modCur h1 e (fun x => { x with hand := peekLine s h1 c.line }) else h1
  | none => h1

/-- Past padding lines. -/
def skipPadding (s : State) (e : Eng) : Nat → Shuttle → Shuttle
  | 0, h => h
  | n + 1, h =>
    match (engOf h e).cur with
    | some c => if Link.slots (c.hand.getD 0) ≤ c.slot then skipPadding s e n (advanceHand s e false h) else h
    | none => h

/-- The engine past the group's instructions. -/
def advanceBy (s : State) (e : Eng) : Nat → Shuttle → Shuttle
  | 0, h => h
  | n + 1, h => advanceBy s e n (advanceHand s e true (skipPadding s e 63 h))

/-- The group withdrawn: its originals issue with no card applied, the first of them once a stream that the group parked is resumed
(R267, R280). -/
def withdrawGroup (s : State) (e : Eng) (n : Nat) (behind : Option (BitVec 4)) : State :=
  modMe s (fun h => modCur h e (fun c => { c with withheld := n, card := none, behind := behind }))

/-- Is a group's guard true in some lane as far as its uniform part goes (R44, R241)? A group of a false guard pops nothing. -/
def groupGuard (h : Shuttle) (e : Eng) (c : Ctl) : Bool := if e = .mtx then guardWith (snapP h e) c else uniformPart h c

/-- A group issued as one unit, or withdrawn (R267, R278). -/
def issueGroup (s : State) (e : Eng) (g : Group') : State :=
  let n := g.seen.length
  let cur := curOf s.me e
  let reps := (cardReps g.card).map (buildRep s.me e g)
  let named := modMe s (fun h => modCur h e (fun c => { c with card := some g.idx }))
  let ctl := ctlOf (unpack ((g.seen.head?).elim 0 (·.word)))
  let pops := if groupGuard s.me e ctl then repPops s (decide (e = .mtx)) (reps.map (·.1)) else []
  match peekAll s.me [] pops with
  | .held c r => abortWith named e c r
  | .park r x f => withdrawGroup (parkInput named e r x f) e n (some r)
  | .stop _ _ => withdrawGroup s e n none
  | .wait rs => stallEng (noteWait s rs) e ctl (waitCounts (rs.filterMap (getS s.me)))
  | .ready _ =>
    let trial := modMe s (fun h => modCur h e (fun c => { c with hand := some (repLine e (reps.map (·.1))), slot := 0, left := 2 }))
    match runReps e cur.entry trial 0 reps with
    | .fails => withdrawGroup s e n none
    | .notReady => stallEng s e ctl true
    | .done t =>
      modMe t (fun h => advanceBy s e n (modCur h e (fun c =>
        { cur with spent := c.spent })))

/-- REWRITE_GROUP_ISSUE (R266, R278): the first card that matches the engine's window is applied. -/
def execRewriteGroupIssue (q : Place) (e : Eng) (s : State) : Host.Outcome State Fault Refusal :=
  let s1 := focus s q
  match findGroup s1 e with
  | some g => .next (issueGroup s1 e g)
  | none => .next s1

end Sys2Proof.Machine
end

