-- ==== Sys2Proof/Machine/Fetch.lean ====
section
/-! DEFINITION. What happens before an instruction issues: the events that the sequencer and an engine attend to first, the fetch of
the instruction's line, and the checks of R48 that stand before its meaning (R24, R28, R40 to R42, R48, R49). -/
namespace Sys2Proof.Machine

/-- An agent's next step: an instruction to run, or a state in which nothing issues. -/
inductive Ready where
  | idle (s : State)
  | run (s : State) (i : Instr)

/-- Are entries of the shuttle outstanding (R24)? -/
def outstanding (h : Shuttle) : Bool :=
  decide (h.str.done < h.str.pushed) || decide (h.vec.done < h.vec.pushed) || decide (h.mtx.done < h.mtx.pushed)

/-- The line that holds the pc: the one in hand, or a fetch. -/
def seqLine (s : State) : State × Except Trouble (BitVec 512) :=
  match s.me.hand with
  | some (n, l) => if n = lineOf s.me.pc then (s, .ok l) else fetchLine s (lineOf s.me.pc)
  | none => fetchLine s (lineOf s.me.pc)

/-- A shuttle takes a trap that is due: its record stands written, and the drain waits for the acknowledgement of its stores (R26, R49, R92,
R112, R164). -/
def takeDue (s : State) (c : Code) (va : Nat) : State :=
  let s1 := drainTrap s
  if unacknowledged s1 then s1
  else enterTrap (modMe s1 (fun h => if h.popped then { unpop h h.ctl.pop.toNat with popped := false } else h)) (codeNum c) va s1.me.pc

/-- The g register of a source, if it is one. -/
def srcRegs : GSrc → List (BitVec 5)
  | .reg g => [g]
  | _ => []
/-- The g register of an operand that may be an immediate. -/
def immRegs : GOrImm → List (BitVec 5)
  | .reg g => [g]
  | _ => []
/-- The g registers of an address. -/
def addrRegs : Addr → List (BitVec 5)
  | .imm7 b _ | .imm20 b _ => [b]
  | .idx b c => [b, c]

/-- The g registers and the predicates that a SEQ instruction reads, its control fields with them; an instruction of no sequencer has none. -/
def seqUses (i : Instr) : Option (Ctl × List (BitVec 5) × List (BitVec 6)) :=
  match i with
  | .add c _ b x | .sub c _ b x | .mul c _ b x | .mulh c _ b x | .div c _ b x | .divu c _ b x | .rem c _ b x | .remu c _ b x
  | .and c _ b x | .or c _ b x | .xor c _ b x | .andn c _ b x | .shl c _ b x | .shr c _ b x | .sra c _ b x | .rotl c _ b x
  | .min c _ b x | .max c _ b x | .minu c _ b x | .maxu c _ b x | .cmp c _ _ b x => some (c, b :: srcRegs x, [])
  | .clz c _ b | .popc c _ b | .extZ c _ b _ | .extS c _ b _ | .ptgReg c _ b | .xlinv c b _ | .ovfLoad c b => some (c, [b], [])
  | .mov c _ x => some (c, match x with
    | .g r => [r]
    | .b _ => [], [])
  | .pand c _ b p | .por c _ b p | .pxor c _ b p => some (c, [], [b, p])
  | .pnot c _ b | .pmov c _ b | .br c _ b _ | .brl c _ b _ => some (c, [], [b])
  | .ld c _ _ x => some (c, addrRegs x, [])
  | .st c _ a x => some (c, a :: addrRegs x, [])
  | .cas c _ _ b x y _ => some (c, [b, x, y], [])
  | .amoAdd c _ _ b x _ | .amoAnd c _ _ b x _ | .amoOr c _ _ b x _ | .amoXor c _ _ b x _ | .amoMin c _ _ b x _ | .amoMax c _ _ b x _
  | .amoMinu c _ _ b x _ | .amoMaxu c _ _ b x _ | .amoSwap c _ _ b x _ | .amoFaddF32 c _ b x _ | .barArrive c _ b x _
  | .barWait c b x _ => some (c, [b, x], [])
  | .barInit c a x _ => some (c, a :: immRegs x, [])
  | .waitany c _ m | .waitall c m | .ffready c _ m | .tagclr c m | .setsr c _ m => some (c, immRegs m, [])
  | .run c _ _ g _ | .runLoop c _ _ g _ _ => some (c, [g, g + 1, g + 2, g + 3], [])
  | .spawn c _ b | .kick c _ b | .cardLoad c _ b => some (c, [b], [])
  | .getsr c _ _ t => some (c, t.toList, [])
  | .nop c | .trap c _ | .safept c | .climbpt c _ | .exit c | .ldi c _ _ | .ptgLabel c _ _ | .fence c _ _ _ | .popEng c _ _ | .popP c _
  | .tokPush c _ _ | .tokPop c _ _ | .tstamp c _ | .objsync c | .sysret c | .ctxFence c => some (c, [], [])
  | _ => none

/-- A SEQ instruction issues in an exposed line: every result of variable latency that it reads has landed (R91). -/
def landReads (i : Instr) (h : Shuttle) : Shuttle :=
  match seqUses i with
  | none => h
  | some (c, gs, ps) =>
    let read : List SeqDest := gs.map .g ++ (c.ga :: c.gb :: ps).map .p
    { h with late := h.late.filter fun d => d ∉ read }

/-- The instruction at the pc of the shuttle in focus, from its line (R41, R48). Past the last valid slot of a LAST line the trap is that
slot's (R41). -/
def issueSeq (s : State) (l : BitVec 512) : Ready :=
  let h := s.me
  let bad : Ready := .idle (decodeTrap s .illegal)
  if breach l 0 then bad
  else if Link.slots l = 0 ∧ slotOf h.pc = 0 ∧ !Link.last l then
    .idle (modMe s (fun h => { h with pc := codeAddr (Link.next l) 0, hand := none, lastInter := some (Link.inter l), clock := h.clock + 1 }))
  else if Link.slots l ≤ slotOf h.pc then
    if Link.slots l = slotOf h.pc ∧ slotOf h.pc ≠ 0 ∧ Link.last l then .idle (decodeTrap (modMe s (fun h => { h with pc := h.pc - 1 })) .illegal)
    else bad
  else
    let w := slotWord l (slotOf h.pc)
    let s1 := modMe s (fun h => { h with lastInter := some (Link.inter l), crossing := 0, fresh := false, issued := true, hand := some (lineOf h.pc, l) })
    if privOp (unpack w).op ∧ (unpack w).op.toNat < 0x100 ∧ !h.priv then .idle (decodeTrap s1 .priv)
    else match decodeOn .seq w with
      | .error _ => .idle (decodeTrap s1 .illegal)
      | .ok i => if featureOk s1 (unpack w).op.toNat then .run (modMe s1 (landReads i)) i else .idle (decodeTrap s1 .illegal)

/-- A wait of the sequencer looked at again; one that is a safe point and goes on stops a shuttle that is asked to stop, a paired one after
its compare (R28, R398, R407). -/
def waitOn (s : State) : State :=
  modMe (retryWait s) (fun h =>
    if h.stopReq ∧ h.life = .running ∧ stallsSafe h ∧ h.wait ≠ some .exit then
      if h.paired then { h with compareDue := true } else stopInWait h
    else h)

/-- A cycle at a change of MODE: it counts towards the 64 while every engine waits as R24 lists. -/
def crossMode (h : Shuttle) : Shuttle :=
  { h with clock := h.clock + 1, crossing := if [Eng.str, .vec, .mtx].all (engStuck h) then h.crossing + 1 else 0 }

/-- The sequencer of the shuttle in focus, before it issues (R24, R28, R92). -/
def readySeq (s : State) : Ready :=
  let h := s.me
  if h.life ≠ .running then .idle s
  else match h.dueTrap with
    | some (c, va, n) => if recWaits s n then .idle s else .idle (takeDue s c va)
    | none =>
      if h.compareDue then .idle s
      else match h.wait with
        | some _ => .idle (waitOn s)
        | none =>
          if h.fresh ∧ h.stopReq then .idle (modMe s (fun h => { h with life := .stopped }))
          else if h.kern.lines ≤ lineOf h.pc ∨ 2 ^ 25 ≤ h.pc.toNat then .idle (decodeTrap s .illegal)
          else match seqLine s with
            | (s1, .error x) => .idle (faultTrap s1 x {})
            | (s1, .ok l) =>
              if h.priv ∧ h.pc = h.trapVec ∧ !targetOk s1 h h.pc then .idle (decodeTrap s1 .illegal)
              else if h.lastInter = some (!Link.inter l) ∧ outstanding h then .idle (modMe s1 crossMode)
              else issueSeq s1 l

/-- The unit of the map that an engine executes (R50). -/
def engUnit : Eng → Unit4
  | .str => .str | .vec => .vec | .mtx => .mtx

/-- Does the instruction in hand wait behind a stream that a withdrawn group parked (R267)? -/
def parkedBehind (h : Shuttle) (c : Cur) : Bool :=
  match c.behind with
  | some r => (getS h r).any (·.parked)
  | none => false

/-- An engine's clock at an issue: not before the cycle after the engine's last (R17). -/
def meetTurn (s : State) (e : Eng) : State :=
  modMe s (fun h => passTo h e (s.tile.free.toList.getD (engIndex e) 0))

/-- An engine of the shuttle in focus, before it issues (R17, R18, R22, R24, R40, R48, R57, R266). A word is decoded before its slot is found squashed,
so that one that fails aborts the entry there too (DEDUCED, log entry 113). -/
def readyEng (s : State) (e : Eng) : Ready :=
  let q := engOf s.me e
  if s.me.life = .idle ∨ s.me.life = .exited then .idle s
  else match q.cur with
    | none => .idle (startEntry s e)
    | some c =>
      if c.aborting.isSome ∨ 16 ≤ fifoCount s.me e then .idle s
      else if s.me.kern.lines ≤ c.line then .idle (abortEntry s e .illegal)
      else if parkedBehind s.me c then .idle (stallEng s e {} false)
      else
        let got : State × Except Trouble (BitVec 512) := match c.hand with
          | some l => (s, .ok l)
          | none => fetchLine s c.line
        match got with
        | (s1, .error x) => .idle (abortWith s1 e x.code { va := x.va, aux := x.aux })
        | (s1, .ok l) =>
          let s2 := modMe s1 (fun h => modCur h e (fun x => { x with hand := some l }))
          if breach l (engCode e) ∨ Link.inter l ≠ c.inter then .idle (abortEntry s2 e .illegal)
          else if Link.slots l ≤ c.slot then
            .idle (modMe s2 (fun h => skipLine h e))
          else
            let w := slotWord l c.slot
            if unitOf (unpack w).op = engUnit e ∧ privOp (unpack w).op ∧ !c.entry.priv then .idle (abortEntry s2 e .priv)
            else match decodeOn (engUnit e) w with
              | .error _ => .idle (abortEntry s2 e .illegal)
              | .ok i =>
                if !featureOk s2 (unpack w).op.toNat then .idle (abortEntry s2 e .illegal)
                else if (findGroup s2 e).isSome then .run (meetTurn s2 e) (.rewriteGroupIssue s2.me.place e)
                else .run (meetTurn s2 e) i

end Sys2Proof.Machine
end

