-- ==== Sys2Proof/Machine/EngEvents.lean ====
section
/-! DEFINITION. Happenings inside the engines: an entry starts, a token lets an instruction proceed, a result lands, a mode crossing
is deadlocked, an entry reaches its budget (R8, R20, R24, R71, R91, R242). -/
namespace Sys2Proof.Machine

/-- ENTRY_START (R8, R24): the engine takes the next entry of the shuttle's queue. -/
def execEntryStart (q : Place) (e : Eng) (s : State) : Host.Outcome State Fault Refusal :=
  let s1 := focus s q
  if s1.me.life = .idle ∨ s1.me.life = .exited then .next s1 else .next (startEntry s1 e)

/-- TOKEN_AVAILABLE (R20): a wait on a pop, or on a full counter for a push, ends when the counter allows. -/
def execTokenAvailable (q : Place) (w : Who) (s : State) : Host.Outcome State Fault Refusal :=
  match w with
  | .seq => endWait q (fun w => match w with
    | .popTok _ => true
    | .pushTok _ => true
    | .pushRes _ _ => true
    | .pushAck _ => true
    | .tokPop _ _ => true
    | .tokPush _ _ => true
    | _ => false) s
  | .eng e =>
    let s1 := focus s q
    match (engOf s1.me e).cur with
    | none => .next s1
    | some c =>
      if c.aborting.isSome then .next s1
      else if c.bodyDone then .next (finishEng s1 s1 e c.ctl)
      else if c.ctl.pop ≠ 0 ∧ !c.popped ∧ tokCount s1.me c.ctl.pop.toNat ≠ 0 then .next (modMe s1 (fun h => doPopEng h e c.ctl))
      else .next s1

/-- Has VEC an instruction of an exposed line in hand that it has not found waiting (R23, R242)? The cycles up to its issue are then fixed. -/
def exposedVec (h : Shuttle) : Bool :=
  match h.vec.cur with
  | some c => !c.inter && !c.stalled && c.aborting.isNone
  | none => false

/-- Does a wait let the clock pass results by while the instruction that waits has its operands or needs none? One that issues again, or a trap
that is drained, reads what it read (R23, R26). -/
def waitsApart (w : Option Wait) : Bool :=
  match w with
  | none | some .retry | some .exit | some (.drain _ _ _ _) => false
  | some _ => true

/-- RESULT_LANDS (R91, R242): the result that lands next does, and the clock of its unit has reached its cycle. In an exposed line whose
next instruction waits for nothing, a unit's cycles are fixed, and only a result that is due lands (R23, R244). -/
def execResultLands (q : Place) (w : Who) (s : State) : Host.Outcome State Fault Refusal :=
  let s1 := focus s q
  match w with
  | .seq =>
    match s1.me.pend.foldl (fun m x => minOpt m (some x.land)) none with
    | none => .next s1
    | some t =>
      if exposed s1.me ∧ s1.me.clock < t ∧ !waitsApart s1.me.wait then .next s1
      else .next (modMe s1 (fun h =>
        { landSome h (h.pend.filter fun x => x.land ≤ t) (h.pend.filter fun x => !(decide (x.land ≤ t))) with clock := Nat.max h.clock t }))
  | .eng _ =>
    match vecNext s1.me with
    | none => .next s1
    | some t =>
      if exposedVec s1.me ∧ s1.me.vec.clock < t then .next s1
      else .next (modMe s1 (fun h => passTo (landVec h t) .vec t))

/-- MODE_CROSSING_DEADLOCK (R24): once the state has held for 64 cycles each waiting entry is aborted with WATCHDOG, one record an engine,
and the trap is due at the crossing. -/
def execModeCrossingDeadlock (q : Place) (s : State) : Host.Outcome State Fault Refusal :=
  let s1 := focus s q
  let engs := [Eng.str, Eng.vec, Eng.mtx]
  if s1.me.life = .running ∧ 64 ≤ s1.me.crossing ∧ outstanding s1.me ∧ engs.all (engStuck s1.me) then
    .next (modMe (engs.foldl (fun t e => if (engOf t.me e).cur.isSome then abortEntry t e .watchdog else t) s1)
      (fun h => { h with crossing := 0 }))
  else .next s1

/-- ENTRY_WATCHDOG (R71): an entry whose counted cycles have reached its budget is aborted with WATCHDOG. -/
def execEntryWatchdog (q : Place) (e : Eng) (s : State) : Host.Outcome State Fault Refusal :=
  let s1 := focus s q
  match (engOf s1.me e).cur with
  | none => .next s1
  | some c =>
    match budget s1 c e with
    | none => .next s1
    | some n => if n ≤ c.spent ∧ c.aborting.isNone then .next (abortEntry s1 e .watchdog) else .next s1

end Sys2Proof.Machine
end

