-- ==== Sys2Proof/Machine/Zones.lean ====
section
/-! DEFINITION. Landing zones: their headers, the staging of contributions, the combination of a round, and `slzput` (R175, R301,
R348 to R351). -/
namespace Sys2Proof.Machine

/-! ### Device accesses of near-data units and landing zones -/

/-- A record of an access that the device makes for a tenant; a HOSTPAGE record also sends its request (R365, R373). -/
def deviceFault (s : State) (eng t : Nat) (x : Trouble) : State :=
  let (s1, n) := postRec s false t { code := x.code, eng := eng, tenant := t, va := x.va, aux := x.aux }
  if x.code = .hostpage then modCtx s1 t (fun c => sendPrq c { addr := x.aux, idx := n % 512, write := x.write }) else s1

/-- Bytes written by the device for a tenant at the place that an address leads to, page by page, with the checks of R371: a page that fails one
takes nothing, and the first to fail leaves a record of the engine. -/
def devicePut (s : State) (eng t va : Nat) (bs : List Byte) (poisoned : Bool) (use : Use := .store) : State :=
  let q : Asker := { tenant := t, shuttle := false }
  ((unitsOf va bs.length 4096).foldl (fun (acc : State × Bool) u =>
    let lo := Nat.max va (u * 4096)
    let hi := Nat.min (va + bs.length) ((u + 1) * 4096)
    let fails (st : State) (x : Trouble) : State × Bool := (if acc.2 then st else deviceFault st eng t x, true)
    match resolve acc.1 q use lo (hi - lo) with
    | (st, .ok (.fabric _ _, _)) => fails st { code := .xlate, va := lo }
    | (st, .ok (l, p)) => (writeAt st q l p ((bs.drop (lo - va)).take (hi - lo)) poisoned, acc.2)
    | (st, .error x) => fails st x) (s, false)).1

/-! ### The header (R348, R351) -/

/-- A field of a header's bytes. -/
def hdrField (hd : List Byte) (a n : Nat) : Nat := natOfBytes ((hd.drop a).take n)
/-- CONTRIB. -/
def zContrib (hd : List Byte) : Nat := hdrField hd 0 4
/-- OP: 0 sum, 1 max, 2 maxsum. -/
def zOp (hd : List Byte) : Nat := hdrField hd 4 1
/-- MODE: 0 reed order, 1 compatibility tree. -/
def zMode (hd : List Byte) : Nat := hdrField hd 5 1
/-- FMT: 0 f32, 1 bf16, 5 i32. -/
def zFmt (hd : List Byte) : Nat := hdrField hd 6 1
/-- RSIZE. -/
def zRsize (hd : List Byte) : Nat := hdrField hd 16 4
/-- OVF. -/
def zOvf (hd : List Byte) : OvfTable := BitVec.ofNat 10 (hdrField hd 20 2)
/-- F0 to F7, up to the 0 that ends them. -/
def zTree (hd : List Byte) : List Nat := ((List.range 8).map fun i => hdrField hd (24 + i) 1).takeWhile (fun f => f ≠ 0)

/-- Is a header legal for a zone of a size (R348, R351)? -/
def headerOk (hd : List Byte) (size : Nat) : Bool :=
  let pair := match zOp hd, zFmt hd with
    | 0, 0 | 0, 1 | 0, 5 | 1, 0 | 1, 1 | 1, 5 | 2, 0 | 2, 1 => true
    | _, _ => false
  pair && decide (1 ≤ zContrib hd ∧ zContrib hd ≤ 65535) && decide (zMode hd ≤ 1) && decide (hdrField hd 7 1 = 0)
    && decide (zRsize hd % 48 = 0 ∧ zRsize hd + 64 ≤ size) && ovfLegal (hdrField hd 20 2) && decide (hdrField hd 23 1 = 0)
    && decide (hdrField hd 32 32 = 0)
    && (if zMode hd = 1 then decide ((zTree hd).foldl (· * ·) 1 = zContrib hd) else decide (hdrField hd 24 8 = 0))

/-! ### Combination (R350, R351) -/

/-- Consecutive groups of f terms, each folded left to right. -/
def foldGroups {α : Type} (node : α → α → α × FpFlags) (f : Nat) : Nat → List α → List α × FpFlags
  | 0, _ => ([], 0)
  | fuel + 1, l =>
    match l.take f with
    | [] => ([], 0)
    | x :: xs =>
      let r := xs.foldl (fun (acc : α × FpFlags) y => let n := node acc.1 y; (n.1, acc.2 ||| n.2)) (x, 0)
      let rest := foldGroups node f fuel (l.drop f)
      (r.1 :: rest.1, r.2 ||| rest.2)

/-- The compatibility tree: level j groups the results of level j − 1 by Fj (R351). -/
def treeOf {α : Type} (node : α → α → α × FpFlags) (dflt : α) : List Nat → List α → α × FpFlags
  | [], l => (l.headD dflt, 0)
  | f :: fs, l =>
    let g := foldGroups node f l.length l
    let r := treeOf node dflt fs g.1
    (r.1, g.2 ||| r.2)

/-- The combination of a zone's mode. -/
def zoneTree {α : Type} (hd : List Byte) (node : α → α → α × FpFlags) (dflt : α) (l : List α) : α × FpFlags :=
  if zMode hd = 1 then treeOf node dflt (zTree hd) l else reedOf node dflt l

/-- BF16 bits widened exactly to FP32. -/
def widenBf16 (x : Nat) : Nat := (roundF32 (FV.decode .bf16 x)).1
/-- The node of a floating maximum in a format (R248, R350). -/
def maxNode (f : Fmt) (x y : Nat) : Nat × FpFlags :=
  (canonOr f [x, y] (if (FV.decode f x).leSigned (FV.decode f y) then y else x)).1 |> fun r => (r, 0)
/-- The node of a signed maximum. -/
def imaxNode (x y : Nat) : Nat × FpFlags := (if signedOf 32 x < signedOf 32 y then y else x, 0)
/-- The node of an integer sum. -/
def iaddNode (x y : Nat) : Nat × FpFlags := ((x + y) % 2 ^ 32, 0)

/-- Bytes of an element of a zone. -/
def zElem (hd : List Byte) : Nat := if zFmt hd = 1 then 2 else 4

/-- The result bytes of one element position, or of one pair for maxsum, from the contributors' encodings there; a NaN is canonical (R206,
R350). -/
def zoneElem (hd : List Byte) (xs : List Nat) (ys : List Nat) : List Byte × FpFlags :=
  match zOp hd, zFmt hd with
  | 0, 0 => let r := zoneTree hd fadd 0 xs; (bytesOf 4 (canonNan .f32 r.1), r.2)
  | 0, 1 =>
    let r := zoneTree hd fadd 0 (xs.map widenBf16)
    let y := roundTo (zOvf hd) .bf16 .rne (f32 r.1)
    (bytesOf 2 y.1, r.2 ||| y.2)
  | 0, _ => let r := zoneTree hd iaddNode 0 xs; (bytesOf 4 r.1, r.2)
  | 1, 0 => let r := zoneTree hd (maxNode .f32) 0 xs; (bytesOf 4 (canonNan .f32 r.1), r.2)
  | 1, 1 => let r := zoneTree hd (maxNode .bf16) 0 xs; (bytesOf 2 (canonNan .bf16 r.1), r.2)
  | 1, _ => let r := zoneTree hd imaxNode 0 xs; (bytesOf 4 r.1, r.2)
  | _, 0 => let r := zoneTree hd comb (0, 0) (xs.zip ys); (bytesOf 4 (canonNan .f32 r.1.1) ++ bytesOf 4 (canonNan .f32 r.1.2), r.2)
  | _, _ =>
    let r := zoneTree hd comb (0, 0) ((xs.map widenBf16).zip (ys.map widenBf16))
    let m := roundTo (zOvf hd) .bf16 .rne (f32 r.1.1)
    let q := roundTo (zOvf hd) .bf16 .rne (f32 r.1.2)
    (bytesOf 2 m.1 ++ bytesOf 2 q.1, r.2 ||| m.2 ||| q.2)

/-- The staged number at an offset, bytes not contributed as 0 (R349). -/
def stagedAt (z : Zone) (c off n : Nat) : Nat :=
  natOfBytes ((List.range n).map fun i =>
    match z.staged.find? (fun x => x.1 = c && x.2.1 = off + i) with
    | some x => x.2.2
    | none => 0)

/-- The result area of a round, and its flags (R350). -/
def zoneResult (z : Zone) (hd : List Byte) : List Byte × FpFlags :=
  let w := zElem hd
  let step := if zOp hd = 2 then 2 * w else w
  let r := (List.range (zRsize hd / step)).map fun i =>
    let at' (d : Nat) : List Nat := (List.range (zContrib hd)).map fun c => stagedAt z c (i * step + d) w
    zoneElem hd (at' 0) (if zOp hd = 2 then at' w else [])
  (r.flatMap (·.1), joinFlags (r.map (·.2)))

/-! ### Rounds (R349) -/

/-- Are all sectors of a contributor marked? -/
def contributorDone (z : Zone) (hd : List Byte) (c : Nat) : Bool := (List.range (zRsize hd / 48)).all fun k => decide ((c, k) ∈ z.marks)
/-- Is every contributor's every sector marked? -/
def roundDone (z : Zone) (hd : List Byte) : Bool := (List.range (zContrib hd)).all (contributorDone z hd)

/-- A zone replaced by its tenant and base. -/
def putZone (s : State) (z : Zone) : State :=
  { s with zones := s.zones.map fun x => if x.tenant = z.tenant ∧ x.base = z.base then z else x }

/-- A round that is complete: the result area, ZFLAGS, FLAG, and the marks cleared, in that order (R349, R301). -/
def completeRound (s : State) (z : Zone) (hd : List Byte) : State :=
  let r := zoneResult z hd
  let s1 := (List.range (zRsize hd / 48)).foldl (fun st k =>
    devicePut st 4 z.tenant (z.base + 64 + 48 * k) ((r.1.drop (48 * k)).take 48) (z.bad.any fun x => x.2 = k)) s
  let s2 := devicePut s1 4 z.tenant (z.base + 22) (bytesOf 1 r.2.toNat) false
  let flag := (homeNat s2 z.tenant (z.base + 8) 8).getD 0
  let s3 := devicePut s2 4 z.tenant (z.base + 8) (bytesOf 8 (flag + 1)) false
  putZone s3 { z with header := none, staged := [], marks := [], bad := [] }

/-- What stands against a contribution: BOUNDS for an illegal header, an index of CONTRIB or more, or bytes beyond RSIZE; RIGHTS for a
kernel launched with CLIMB or PAIRED into a MODE 1 zone (R348, R349, R351). -/
def contribTrouble (hd : List Byte) (size : Nat) (c : Contrib) : Option Code :=
  if !headerOk hd size ∨ zContrib hd ≤ c.contributor ∨ zRsize hd < c.off + c.bytes.length then some .bounds
  else if zMode hd = 1 ∧ c.barred then some .rights
  else none

/-- The header that governs a zone's next contribution: the one its round captured, or the one in memory (R349, R354). -/
def zoneHeader (s : State) (z : Zone) : List Byte :=
  match z.header with
  | some hd => hd
  | none => (homeBytes s z.tenant z.base 64).getD []

/-- A zone with a contribution staged: the bytes replace staged ones, and each sector is marked once. -/
def stageIn (z : Zone) (hd : List Byte) (c : Contrib) : Zone :=
  let n := c.bytes.length
  let keep := z.staged.filter fun x => !(x.1 = c.contributor && decide (c.off ≤ x.2.1 ∧ x.2.1 < c.off + n))
  let secs := (unitsOf c.off n 48).map fun k => (c.contributor, k)
  { z with
    header := some hd
    staged := keep ++ (List.range n).map fun i => (c.contributor, c.off + i, c.bytes.getD i 0)
    marks := secs.foldl (fun l m => if m ∈ l then l else m :: l) z.marks
    bad := if c.poisoned then secs ++ z.bad else z.bad }

/-- The sender of an `slzput` sector learns that it is staged: its TAGBYTES rise, and its tag is set with the last (R175). -/
def sectorStaged (s : State) (q : Place) (tag i n : Nat) : State :=
  let s1 := focus s q
  let s2 := modMe s1 (fun h => modCopy (addTagBytes h tag n) tag
    (fun d => { d with fly := d.fly.filter (fun y => y.idx ≠ i), doneSet := insertNat d.doneSet i }))
  modMe (copyStops s2 tag) finishCopies

/-- A peer's packet that its contribution's outcome answers: it can be acknowledged (R352). -/
def packetDone (s : State) (c : Contrib) : State :=
  match c.remote with
  | some n => { s with fabric := { s.fabric with stores := s.fabric.stores.map fun x => if x.1 = n then (x.1, { x.2 with arrived := true }) else x } }
  | none => s

/-- The sender of a contribution that fails: an `slzput` fails (R164, R175); a peer's packet leaves a record of engine 5, any other sender's
tenant gets one of engine 4. -/
def contribFails (s : State) (z : Zone) (c : Contrib) (code : Code) : State :=
  match c.sender with
  | some (q, tag, i) =>
    let s1 := focus s q
    copyMeets (modMe s1 (fun h => modCopy h tag (fun d => { d with fly := d.fly.filter (fun y => y.idx ≠ i) }))) tag
      { code := code, va := z.base + c.off }
  | none => packetDone (postRec s false z.tenant
      { code := code, eng := if c.remote.isSome then 5 else 4, tenant := z.tenant, obj := z.obj, va := z.base + c.off }).1 c

/-- The zone and the place in its queue of the i-th contribution that is not staged. -/
def contribAt (zs : List Zone) (i : Nat) : Option (Zone × Nat) :=
  match zs with
  | [] => none
  | z :: rest => if i < z.queue.length then some (z, i) else contribAt rest (i - z.queue.length)

/-- ZONE_CONTRIBUTION (R349): the i-th contribution that has arrived is staged, or fails, or waits for step 5 of the round in which its
contributor is complete, under the header that governs then (R354); the last of a round completes it. -/
def execZoneContribution (i : Nat) (s : State) : Host.Outcome State Fault Refusal :=
  match contribAt s.zones i with
  | none => .next s
  | some (z, k) =>
    match z.queue[k]? with
    | none => .next s
    | some c =>
      let hd := zoneHeader s z
      let z1 := { z with queue := z.queue.eraseIdx k }
      if z.header.isSome && contributorDone z hd c.contributor then .next s
      else match contribTrouble hd z.size c with
        | some code => .next (contribFails (putZone s z1) z c code)
        | none =>
          let z2 := stageIn z1 hd c
          let s1 := putZone s z2
          let s2 := if roundDone z2 hd then completeRound s1 z2 hd else s1
          .next (match c.sender with
            | some (q, tag, j) => sectorStaged s2 q tag j c.bytes.length
            | none => packetDone s2 c)

/-! ### The instruction (R175) -/

/-- `slzput` (R175): the references are checked at issue; the sectors of the source go to the zone's staging. A paired shuttle's is
ILLEGAL (R405). -/
def execSlzput (c : Ctl) (tag : BitVec 7) (kl ks : BitVec 2) (n : KOrImm) (kc : BitVec 2) (s : State) :
    Host.Outcome State Fault Refusal :=
  if s.me.paired then engIllegal .str .illegal s
  else strInstr c (fun t =>
    let d := kVal t.me .str kl
    let r := kVal t.me .str ks
    let len := (kOrImmVal t.me .str n).toNat
    match takeRefs t (.zone, d) (.source, r) with
    | (t1, .error (code, w)) => refStop t1 code w
    | (t1, .ok (x, y)) =>
      if len ≠ 0 ∧ Obj.size x.entry < 64 + x.off + len then refStop t1 .bounds d
      else if !refHolds t1 y len then refStop t1 .bounds r
      else acceptCopy t1 { kind := .slzput, tag := tagNat tag, dst := x, src := y, rows := if len = 0 then 0 else 1, width := len,
                           value := (kVal t1.me .str kc).toNat, cls := c.cls.toNat, hint := c.hint.toNat, issued := decide (len = 0) }) s

end Sys2Proof.Machine
end

