-- ==== Sys2Proof/Machine/FabricEv.lean ====
section
/-! DEFINITION. The fabric: remote stores and release flags, their acknowledgement, and the failure and recovery of a link (R301, R352,
R353, R413). -/
namespace Sys2Proof.Machine

/-- The fabric changed. -/
def modFabric (s : State) (f : Fabric → Fabric) : State := { s with fabric := f s.fabric }
/-- A remote store by its number. -/
def remoteAt (s : State) (i : Nat) : Option Remote := (s.fabric.stores.find? fun x => x.1 = i).map (·.2)
/-- A release flag by its number. -/
def flagAt (s : State) (i : Nat) : Option FlagMsg := (s.fabric.flags.find? fun x => x.1 = i).map (·.2)
/-- A remote store changed. -/
def modRemote (s : State) (i : Nat) (f : Remote → Remote) : State :=
  modFabric s (fun b => { b with stores := b.stores.map fun x => if x.1 = i then (x.1, f x.2) else x })
/-- A release flag changed. -/
def modFlag (s : State) (i : Nat) (f : FlagMsg → FlagMsg) : State :=
  modFabric s (fun b => { b with flags := b.flags.map fun x => if x.1 = i then (x.1, f x.2) else x })

/-- Does a port carry traffic of a tenant's window: in its mask, and its link up (R353, R413)? -/
def carries (s : State) (t w port : Nat) : Bool :=
  decide ((windowEntry s t w).ports / 2 ^ port % 2 = 1) && !s.fabric.portsDown.getLsbD port

/-- A port for a tenant's window that carries traffic now, or the one named where none does. -/
def workingPort (s : State) (t w port : Nat) : Nat :=
  if carries s t w port then port else pickPort (windowEntry s t w).ports s.fabric.portsDown

/-- The address of a byte of a peer module's memory in the model's one list of peer memory: modules lie 2^64 bytes apart. -/
def peerAddr (x : Window) (off : Nat) : Nat := x.peer * 2 ^ 64 + x.base + off

/-- A peer's bytes written in this module's memory, with the checks of R371; what does not translate, what the tenant may not write, a CODED
page and a guarded tier map line take nothing, and a record says so (R228, R314). -/
def peerPut (s : State) (t va : Nat) (bs : List Byte) (poisoned : Bool) : State :=
  let q : Asker := { tenant := t, shuttle := false }
  match resolveAll s q .store va bs.length with
  | (s1, .error x) => (postRec s1 false t { code := x.code, eng := 5, tenant := t, va := x.va, aux := x.aux }).1
  | (s1, .ok ps) => (ps.foldl (fun (acc : State × List Byte) p =>
      (writeAt acc.1 q p.1 p.2.1 (acc.2.take p.2.2) poisoned, acc.2.drop p.2.2)) (s1, bs)).1

/-- A peer's contribution brought to its landing zone, once; an object that is no usable zone takes nothing (R349). -/
def peerContribution (s : State) (i : Nat) (r : Remote) (obj contributor : Nat) : State :=
  if s.zones.any fun z => z.queue.any fun c => c.remote = some i then s
  else match objEntry s r.tenant obj with
    | (s1, some e) =>
      if Obj.usable e && decide (Obj.type e = 4) then
        zoneSend s1 r.tenant obj (Obj.base e) (Obj.size e)
          { contributor := contributor, off := r.off, bytes := r.bytes, poisoned := r.poisoned, remote := some i }
      else modRemote s1 i (fun x => { x with arrived := true })
    | (s1, none) => modRemote s1 i (fun x => { x with arrived := true })

/-- Has a shuttle's store to a peer one of its earlier ones before it that has not arrived: of its class, either of class 0, or to bytes of it
(R113, R296)? -/
def remoteBehind (s : State) (i : Nat) (r : Remote) : Bool :=
  (s.fabric.stores.takeWhile fun x => x.1 ≠ i).any fun x =>
    let y := x.2
    decide (y.sender = 0 ∧ y.place = r.place) && !y.arrived && match y.cls, r.cls with
      | some a, some b => decide (a = b ∨ a = 0 ∨ b = 0 ∨ (y.window = r.window ∧ y.off < r.off + r.bytes.length ∧ r.off < y.off + y.bytes.length))
      | _, _ => false

/-- REMOTE_STORE_ARRIVAL (R352): the store's bytes lie in the peer's memory, or in the staging of the peer's landing zone, which is the
peer's own state; another module's store lies in this module's memory, its contribution comes to a zone of this module. -/
def execRemoteStoreArrival (i : Nat) (s : State) : Host.Outcome State Fault Refusal :=
  match remoteAt s i with
  | none => .next s
  | some r =>
    if r.arrived then .next s
    else if r.sender ≠ 0 then
      .next (match r.contrib with
        | some (obj, c) => peerContribution s i r obj c
        | none => modRemote (peerPut s r.tenant r.off r.bytes r.poisoned) i (fun x => { x with arrived := true }))
    else if !carries s r.tenant r.window r.port || remoteBehind s i r then .next s
    else
      let x := windowEntry s r.tenant r.window
      let s1 := if x.zone then s else modMem s (fun m => { m with peer := memWrite m.peer (peerAddr x r.off) r.bytes })
      .next (modRemote s1 i (fun x => { x with arrived := true }))

/-- REMOTE_STORE_ACK (R352): the acknowledgement of a store that has arrived. -/
def execRemoteStoreAck (i : Nat) (s : State) : Host.Outcome State Fault Refusal :=
  match remoteAt s i with
  | none => .next s
  | some r => if r.arrived then .next (modFabric s (fun b => { b with stores := b.stores.filter fun x => x.1 ≠ i })) else .next s

/-- RELEASE_FLAG_SEND (R352): a flag is sent once every remote store that its shuttle issued earlier to that peer is acknowledged. -/
def execReleaseFlagSend (i : Nat) (s : State) : Host.Outcome State Fault Refusal :=
  match flagAt s i with
  | none => .next s
  | some f =>
    if f.sent ∨ f.after.any (fun k => (remoteAt s k).isSome) then .next s
    else .next (modFlag s i (fun x => { x with sent := true, port := workingPort s f.tenant f.window f.port }))

/-- Does a flag supersede the last one applied (R353)? -/
def flagNewer (last seq : Nat) : Bool :=
  let d := (seq + 2 ^ 32 - last) % 2 ^ 32
  decide (1 ≤ d ∧ d < 2 ^ 31)

/-- The last sequence number applied for a sender and a slot; 0 before the first. -/
def lastFlag (b : Fabric) (key slot : Nat) : Nat :=
  match b.last.find? (fun x => x.1 = key && x.2.1 = slot) with
  | some x => x.2.2
  | none => 0

/-- A flag word (R352). -/
def flagWord (sender seq : Nat) : Nat := sender % 65536 * 2 ^ 48 + seq % 2 ^ 32

/-- RELEASE_FLAG_APPLY (R352, R353): a flag that arrives is applied as one 8-byte write, or discarded. -/
def execReleaseFlagApply (i : Nat) (s : State) : Host.Outcome State Fault Refusal :=
  match flagAt s i with
  | none => .next s
  | some f =>
    let mine := decide (f.sender = 0)
    let x := windowEntry s f.tenant f.window
    let key := if mine then 65536 + x.peer else f.sender
    if f.applied ∨ !f.sent ∨ (mine ∧ !carries s f.tenant f.window f.port) then .next s
    else
      let s1 := modFlag s i (fun y => { y with applied := true })
      if !flagNewer (lastFlag s.fabric key f.slot) f.seq then .next s1
      else
        let s2 := modFabric s1 (fun b => { b with last := (key, f.slot, f.seq) :: b.last.filter fun y => !(y.1 = key && y.2.1 = f.slot) })
        .next (if mine then
            modMem s2 (fun m => { m with
              peer := memWrite m.peer (peerAddr x (x.size - 4096 + 8 * f.slot)) (bytesOf 8 (flagWord Config.senderId.toNat f.seq)) })
          else peerPut s2 f.tenant f.va (bytesOf 8 (flagWord f.sender f.seq)) false)

/-- RELEASE_FLAG_ACK (R353): the acknowledgement of a flag that was applied or discarded. -/
def execReleaseFlagAck (i : Nat) (s : State) : Host.Outcome State Fault Refusal :=
  match flagAt s i with
  | none => .next s
  | some f => if f.applied then .next (modFabric s (fun b => { b with flags := b.flags.filter fun x => x.1 ≠ i })) else .next s

/-- Every message that its port no longer carries is given a port that works (R353): an unacknowledged store is sent again, a flag that was
sent is sent again beside the first, which may yet arrive. -/
def resend (s : State) : State :=
  let lost (sender t w port : Nat) : Bool := decide (sender = 0) && !carries s t w port && carries s t w (workingPort s t w port)
  let stores := s.fabric.stores.map fun x =>
    if lost x.2.sender x.2.tenant x.2.window x.2.port then
      (x.1, { x.2 with port := workingPort s x.2.tenant x.2.window x.2.port, arrived := false }) else x
  let again := s.fabric.flags.filterMap fun x =>
    if lost x.2.sender x.2.tenant x.2.window x.2.port && x.2.sent &&
        !(s.fabric.flags.any fun y => y.2.tenant = x.2.tenant && y.2.window = x.2.window && y.2.slot = x.2.slot && y.2.seq = x.2.seq &&
          carries s y.2.tenant y.2.window y.2.port) then
      some { x.2 with port := workingPort s x.2.tenant x.2.window x.2.port, applied := false } else none
  modFabric s (fun b => { b with
    stores := stores
    flags := b.flags ++ ((List.range again.length).map (· + b.nextId)).zip again
    nextId := b.nextId + again.length })

/-- LINK_FAILURE (R353): a port stops; what it had sent and not had acknowledged is sent again on a working port. -/
def execLinkFailure (port : Nat) (s : State) : Host.Outcome State Fault Refusal :=
  .next (resend (modFabric s (fun b => { b with portsDown := b.portsDown ||| (1#8 <<< port) })))

/-- Is a port out of service: retraining after a swap of lanes, or fenced (R362)? -/
def portOut (s : State) (port : Nat) : Bool :=
  decide (port ∈ s.module.retraining) || s.module.errors.any fun c => c.fenced && match c.unit with
    | .linkLane p _ => decide (p = port)
    | _ => false

/-- LINK_RECOVERY (R353): a port works again; what it held arrives, and what no port carried is sent. -/
def execLinkRecovery (port : Nat) (s : State) : Host.Outcome State Fault Refusal :=
  if portOut s port then .next s
  else .next (resend (modFabric s (fun b => { b with portsDown := b.portsDown &&& ~~~(1#8 <<< port) })))

end Sys2Proof.Machine
end

