-- ==== Sys2Proof/Machine/Digest.lean ====
section
/-! DEFINITION. The 128-bit SHAKE256 digest that the two sides of a paired shuttle form (R406). The function is the one FIPS 202 names SHAKE256, which
the spec names and does not print: PRESUMED, log entry 34. -/
namespace Sys2Proof.Machine

/-- The rotations of the twenty-five lanes, lane (x, y) at x + 5y. -/
def laneTurns : List Nat := [0, 1, 62, 28, 27, 36, 44, 6, 55, 20, 3, 10, 43, 25, 39, 41, 45, 15, 21, 8, 18, 2, 61, 56, 14]

/-- The constants of the twenty-four rounds. -/
def roundConsts : List Word :=
  [0x0000000000000001, 0x0000000000008082, 0x800000000000808A, 0x8000000080008000, 0x000000000000808B, 0x0000000080000001,
   0x8000000080008081, 0x8000000000008009, 0x000000000000008A, 0x0000000000000088, 0x0000000080008009, 0x000000008000000A,
   0x000000008000808B, 0x800000000000008B, 0x8000000000008089, 0x8000000000008003, 0x8000000000008002, 0x8000000000000080,
   0x000000000000800A, 0x800000008000000A, 0x8000000080008081, 0x8000000000008080, 0x0000000080000001, 0x8000000080008008]

/-- One lane of twenty-five. -/
def lane (a : List Word) (i : Nat) : Word := a.getD i 0

/-- The column parities mixed into the lanes. -/
def mixColumns (a : List Word) : List Word :=
  let c (x : Nat) : Word := lane a (x % 5) ^^^ lane a (x % 5 + 5) ^^^ lane a (x % 5 + 10) ^^^ lane a (x % 5 + 15) ^^^ lane a (x % 5 + 20)
  let d := (List.range 5).map fun x => c (x + 4) ^^^ (c (x + 1)).rotateLeft 1
  a.zipIdx.map fun v => v.1 ^^^ lane d (v.2 % 5)

/-- The lanes rotated and moved to their new places. -/
def turnLanes (a : List Word) : List Word :=
  (List.range 25).map fun i =>
    let j := (i % 5 + 3 * (i / 5)) % 5 + 5 * (i % 5)
    (lane a j).rotateLeft (laneTurns.getD j 0)

/-- The rows combined, and the round's constant entered. -/
def mixRows (a : List Word) (rc : Word) : List Word :=
  (List.range 25).map fun i =>
    let at' (k : Nat) : Word := lane a ((i % 5 + k) % 5 + 5 * (i / 5))
    lane a i ^^^ (~~~ at' 1 &&& at' 2) ^^^ (if i = 0 then rc else 0)

/-- The permutation of the twenty-five lanes. -/
def permute (a : List Word) : List Word := roundConsts.foldl (fun b rc => mixRows (turnLanes (mixColumns b)) rc) a

/-- One block of 136 bytes taken in. -/
def takeBlock (a : List Word) (bs : List Byte) : List Word :=
  permute (a.zipIdx.map fun v => if v.2 < 17 then v.1 ^^^ BitVec.ofNat 64 (natOfBytes ((bs.drop (8 * v.2)).take 8)) else v.1)

/-- A message padded to whole blocks. -/
def padMessage (bs : List Byte) : List Byte :=
  let n := 136 - bs.length % 136
  if n = 1 then bs ++ [0x9F] else bs ++ [0x1F] ++ List.replicate (n - 2) 0 ++ [0x80]

/-- The blocks of a padded message taken in, the first at the front. -/
def takeBlocks : Nat → List Byte → List Word → List Word
  | 0, _, a => a
  | n + 1, bs, a => takeBlocks n (bs.drop 136) (takeBlock a bs)

/-- The first 128 bits that SHAKE256 gives of a message, its first byte the lowest. -/
def shake128Bits (bs : List Byte) : BitVec 128 :=
  let a := takeBlocks (bs.length / 136 + 1) (padMessage bs) (List.replicate 25 0)
  BitVec.ofNat 128 ((lane a 0).toNat + (lane a 1).toNat * 2 ^ 64)

end Sys2Proof.Machine
end

