-- ==== Sys2Proof/Machine/KickOps.lean ====
section
/-! DEFINITION. Kicks: the descriptor, the argument block, the checks in the order of R335, and what acceptance holds (R132, R300, R323,
R325, R332 to R335, R345). -/
namespace Sys2Proof.Machine

/-! ### Durations (R345) -/

/-- Column cycles of the published bound of a near-data write: 1.62 µs at 1.6 GHz, 3.2 µs at 0.8 GHz (R345, R363). -/
def writeBound (tierM : Bool) : Nat := if tierM then 2592 else 2560

/-- Column cycles of one slot operation, fill terms left out; tier S takes twice the passes but for `rflush` (R345). -/
def slotCost (tierM : Bool) (i : Instr) : Nat :=
  let k := match i with
    | .dot _ _ _ | .twd _ _ _ => 2
    | .exp2 _ _ | .rcp _ _ => 4
    | .rflush _ _ => 24
    | _ => 1
  match i with
  | .rflush _ _ => 24
  | .wst _ _ | .wacc _ _ _ => (if tierM then 1 else 2) + writeBound tierM
  | _ => if tierM then k else 2 * k

/-- The legal slot operations of a word (R58, R59, R337). -/
def slotInstrs (w : IWord) : List Instr :=
  [decodeFetch (slotsOf w).1, decodeArith (slotsOf w).2.1, decodeWb (slotsOf w).2.2].filterMap fun x => match x with
    | .ok i => some i
    | .error _ => none

/-- Column cycles of a word: the greatest of its slots'. -/
def wordCost (tierM : Bool) (w : IWord) : Nat := (slotInstrs w).foldl (fun m i => Nat.max m (slotCost tierM i)) 0

/-- Microseconds of unit time for column cycles at 1.6 GHz, rounded up (R323, R331). -/
def unitTime (cycles : Nat) : Nat := (cycles + 200 + 1599) / 1600

/-! ### Units and slots (R331, R332, R355, R359) -/

/-- The storage controller and the stripe of a data frame (R359). -/
def stripeOf (f : Nat) : Nat × Nat := (f % 4, f / 4 / 15)
/-- The data frames of a stripe of a controller; its parity frame lies on the channel that none of them takes (R359). -/
def stripeFrames (q k : Nat) : List Nat := (List.range 15).map fun i => 4 * (15 * k + i) + q
/-- The channel of a stripe's parity frame (R359). -/
def parityChannel (k : Nat) : Nat := k % 16
/-- The channel of a data frame (R359). -/
def frameChannel (f : Nat) : Nat := if f / 4 % 15 < parityChannel (stripeOf f).2 then f / 4 % 15 else f / 4 % 15 + 1

/-- The channel engine of a physical seal tile at tier S: 16 × controller + channel. -/
def unitOfTileS (T : Nat) : Nat := 16 * (stripeOf (T / 8)).1 + frameChannel (T / 8)

/-- The microcode slot of a number that serves a tier. -/
def slotFor (s : State) (m : Bool) (n : Nat) : Option MSlot := s.slots.find? fun x => x.slot = n && (if m then x.tierM else x.tierS)

/-- Every kick that is not complete: queued, running, or away (R335). -/
def allKicks (s : State) : List Kick :=
  ((s.nd :: s.otherNd).flatMap fun u => u.queue ++ (match u.body with
    | some b => [b.kick]
    | none => [])) ++ s.away.map fun x => x.1.kick

/-- Is a pick of a tenant's tier map held by a body kicked and not completed, or by the team started from its record (R306, R325)? -/
def pickHeld (s : State) (t tmap p : Nat) : Bool :=
  (allKicks s).any fun k => k.tenant = t && k.desc.tmap = tmap && decide (k.desc.pickFirst ≤ p ∧ p < k.desc.pickFirst + k.desc.pickCount)

/-! ### Translations held (R335) -/

/-- The leaf of a VA for a near-data unit: none where it does not translate, or lies in a HOST page. -/
def ndLeaf (s : State) (t va : Nat) : Option Word :=
  if Config.teamWindow ≤ va ∨ (windowOf va).isSome then none
  else match walkHome s t va with
    | some e => if leafHost e then none else some e
    | none => none

/-- The leaves of every base frame that some ranges of VAs touch. -/
def holdPages (s : State) (t : Nat) (rs : List (Nat × Nat)) : Option (List (Nat × Word)) :=
  ((rs.flatMap fun r => unitsOf r.1 r.2 98304).eraseDups).foldr (fun f acc =>
    match ndLeaf s t (f * 98304), acc with
    | some e, some l => some ((f, e) :: l)
    | _, _ => none) (some [])

/-- The tables of the walks for some ranges of VAs read through the L2, where the module holds no translation (R369). -/
def readTables (s : State) (rs : List (Nat × Nat)) : State :=
  ((rs.flatMap fun r => unitsOf r.1 r.2 98304).eraseDups).foldl (fun st f =>
    if (tlbFind st st.me.tenant f).isSome then st else (walkThrough st st.me.tenant (f * 98304)).1) s

/-- The leaf a kick holds for a VA. -/
def heldLeaf (k : Kick) (va : Nat) : Option Word := (k.pages.find? fun p => p.1 = va / 98304).map (·.2)
/-- The physical address a kick holds for a VA. -/
def heldPa (k : Kick) (va : Nat) : Option Nat := (heldLeaf k va).map fun e => leafAddr e va

/-- The MSC policy of the leaf through which a kick reaches a physical address. -/
def kickPolicy (k : Kick) (pa : Nat) : Nat :=
  match k.pages.find? fun p => decide (leafAddr p.2 (p.1 * 98304) ≤ pa ∧ pa < leafAddr p.2 (p.1 * 98304) + 98304) with
  | some p => leafMscp p.2
  | none => 0

/-- A tile sealed at once with what was written, its MSC copy given up: tier S engines never use the MSC (R356, R384). -/
def sealNow (s : State) (T : Nat) (secs : List Nat) : State :=
  (sealTile (match s.mem.msc.find? (fun x => x.tile = T) with
    | some x => mscDrop s x
    | none => s) T secs).1

/-- Runs of bytes written for a kick by a unit at their home (R300, R356): the L2 copies of their lines are invalidated; at tier M the sectors
are dirty in the MSC, at tier S their tiles are verified and sealed. A line of a guarded tier map takes nothing (R314). -/
def unitStore (s : State) (k : Kick) (m : Bool) (runs0 : List (Nat × List Byte)) : State :=
  let runs := runs0.filter fun r => !guardedLine s r.1 r.2.length
  let secs := (runs.flatMap fun r => unitsOf r.1 r.2.length 48).eraseDups
  let tiles := (secs.map (· / 128)).eraseDups
  let s1 := (runs.flatMap fun r => unitsOf r.1 r.2.length 192).foldl l2Invalidate s
  let s2 := if m then s1 else tiles.foldl (fun st T => (verifyTile st k.tenant true T).1) s1
  let whole := runs.flatMap fun r => wholeSectors r.1 r.2.length
  let s3 := runs.foldl (fun st r => putHome st k.tenant false r.1 r.2 false) s2
  tiles.foldl (fun st T => let mine := secs.filter fun x => x / 128 = T
    if m then (mscWrite st T mine (mine.filter fun x => x ∈ whole) (kickPolicy k (6144 * T))).1 else sealNow st T mine) s3

/-- What stands against a near-data write of some bytes of a frame through the leaf that a kick holds (R228, R314, R371). -/
def unitDenied (s : State) (e : Word) (pa n : Nat) : Option Code :=
  if !leafW e then some .rights
  else if leafCoded e then some .codedwrite
  else if guardedLine s pa n then some .rights
  else none

/-- Bytes written by a unit of a tier through the translations of a kick, frame by frame: its mailbox and its record. A frame that does not admit
them takes nothing, and the first such leaves a record of engine 4. -/
def unitPut (s : State) (k : Kick) (m : Bool) (va : Nat) (bs : List Byte) : State :=
  let runs := (unitsOf va bs.length 98304).filterMap fun f =>
    let lo := Nat.max va (f * 98304)
    let hi := Nat.min (va + bs.length) ((f + 1) * 98304)
    (heldLeaf k lo).map fun e => (lo, e, leafAddr e lo, (bs.drop (lo - va)).take (hi - lo))
  let denied (r : Nat × Word × Nat × List Byte) : Option Code := unitDenied s r.2.1 r.2.2.1 r.2.2.2.length
  let s1 := match firstSome (fun r => (denied r).map fun c => (r.1, c)) runs with
    | some (a, c) => (postRec s false k.tenant { code := c, eng := 4, ndTierM := m, tenant := k.tenant, team := k.team, va := a }).1
    | none => s
  unitStore s1 k m ((runs.filter fun r => (denied r).isNone).map fun r => r.2.2)

/-! ### The descriptor and the argument block (R333, R334) -/

/-- A field of a kick descriptor. -/
def kickField (bs : List Byte) (a n : Nat) : Nat := natOfBytes ((bs.drop a).take n)

/-- Do TIER and UNIT name a unit, or the home unit of a tier (R333)? -/
def kickUnitOk (bs : List Byte) : Bool :=
  decide (kickField bs 0 1 ≤ 1) && (decide (kickField bs 2 2 = 0xFFFF) || decide (kickField bs 2 2 < if kickField bs 0 1 = 1 then 512 else 64))

/-- Is ARGVA as it must be (R333)? -/
def kickArgOk (bs : List Byte) : Bool := decide (kickField bs 24 8 < 2 ^ 56 ∧ kickField bs 24 8 % 32 = 0)

/-- The fields of 32 descriptor bytes as they stand (R333). -/
def kickFields (bs : List Byte) : KickDesc :=
  let f := kickField bs
  { tierM := decide (f 0 1 = 1), slot := f 1 1, unit := f 2 2, mbox := f 4 2, crec := f 6 2, tmap := f 8 2, ptlog := f 10 1, etlog := f 11 1,
    pickFirst := f 12 4, pickCount := f 16 4, trip := f 20 4, argVa := f 24 8 }

/-- The fields of 32 descriptor bytes; none where a fixed range or a must-be-0 bit is broken (R333, R335). -/
def parseKick (bs : List Byte) : Option KickDesc :=
  let f := kickField bs
  let ok := kickUnitOk bs && decide (f 10 1 ≤ 24 ∧ f 11 1 ≤ 24) && decide (1 ≤ f 20 4 ∧ f 20 4 ≤ 2 ^ 24) && kickArgOk bs
    && (decide (f 8 2 = 0xFFFF) || (decide (1 ≤ f 16 4) && decide (f 6 2 ≠ 0xFFFF)))
  if ok then some (kickFields bs) else none

/-- How a word names a pattern (R338, R342). -/
inductive PatNeed where
  | plainIn | unitIn | anyIn | out | zone
deriving DecidableEq, Repr

/-- The patterns that a slot operation names. -/
def patNeeds (i : Instr) : List (Nat × PatNeed) :=
  match i with
  | .fld _ y => [(y.toNat, .plainIn)]
  | .fldp _ y => [(y.toNat, .unitIn)]
  | .fnext y => [(y.toNat, .anyIn)]
  | .wst _ y => [(y.toNat, .out)]
  | .wacc _ y _ => [(y.toNat, .zone)]
  | _ => []

/-- Does a pattern's direction, TYPE, DECODE and format suit a word that names it? -/
def suits (p : Option Pattern) (n : PatNeed) : Bool :=
  match p with
  | none => false
  | some x =>
    let d := x.desc
    match n with
    | .plainIn => !d.out && decide (d.decode = 0) && decide (d.format ≠ 13)
    | .unitIn => !d.out && decide (d.decode ≠ 0)
    | .anyIn => !d.out
    | .out => d.out && decide (Obj.type x.entry = 0) && decide (d.format ≠ 13)
    | .zone => d.out && decide (Obj.type x.entry = 4) && decide (d.format = 0 ∨ d.format = 1 ∨ d.format = 5)

/-- Pattern j of a kick: the descriptor of the slot's kernel with ADD applied, by checks 1 to 5 of R151; a unit of DECODE 1 or 2 is its own
block (R334). None is malformed. -/
def kickPattern (s : State) (k : Kern) (n add : Nat) : State × Option Pattern :=
  if k.nStream ≤ n then (s, none)
  else match homeBytes s s.me.tenant (k.base + k.strOff + 64 * n) 64 with
    | none => (s, none)
    | some bs =>
      let (d0, zero) := parseDesc bs
      let d1 := { d0 with offset := (d0.offset + add) % 2 ^ 48 }
      let d := if d1.decode = 2 then { d1 with rows := 1, cols := 16 } else d1
      if !zero ∨ (d.out ∧ d.decode ≠ 0) ∨ !shapeOk d ∨ (d.decode = 0 ∧ 16 < d.rows * d.cols) ∨ d.obj = 0xFFFF then (s, none)
      else
        match objEntry s s.me.tenant d.obj with
        | (s1, none) => (s1, none)
        | (s1, some e) =>
          let use := if d.out ∧ Obj.type e = 4 then ObjUse.zone else bindUse d d.decode
          if Obj.usable e && useOk e use && decide (Obj.format e = d.format) && patternInside d (Obj.size e) then
            (s1, some { desc := d, entry := e, n := if d.decode = 1 then patternUnits d else patternUnits d / unitsPerBlock d })
          else (s1, none)

/-- The eight patterns of an argument block, and whether each is well formed: one that is malformed stands as none. -/
def kickPatterns (s : State) (k : Kern) (args : List Byte) : State × List (Option Pattern) × Bool :=
  if args.length < 32 then (s, [], false)
  else (List.range 8).foldl (fun acc j =>
    let (s0, l, ok) := acc
    let dn := ((args.drop (4 * j)).take 1).headD 0
    if dn = 0xFF then (s0, l ++ [none], ok)
    else if 64 ≤ dn.toNat then (s0, l ++ [none], false)
    else
      let (s1, p) := kickPattern s0 k dn.toNat (natOfBytes ((args.drop (4 * j + 1)).take 3))
      (s1, l ++ [p], ok && p.isSome)) (s, [], true)

/-- The ranges of VAs of a pattern: its units, and the scale records of a DECODE 1 or 2 pattern (R334). -/
def patRanges (p : Pattern) : List (Nat × Nat) :=
  let sp := unitSpan p.desc
  let u := unitBytes p.desc
  let b := Obj.base p.entry
  let lo := sp.1.toNat
  let hi := sp.2.toNat
  (b + lo, hi + u - lo) :: (if p.desc.decode = 0 then [] else
    [(Obj.scaleBase p.entry + lo / u * Obj.scaleStride p.entry, (hi / u - lo / u) * Obj.scaleStride p.entry + 2)])

/-- Is an object writable and at least so long: a mailbox or a climb record (R335)? A twill tensor is not, of which no part is written but whole
segments (R230; DEDUCED, log entry 124). -/
def writableObj (s : State) (idx n : Nat) : State × Option (BitVec 256) :=
  if idx = 0xFFFF then (s, none)
  else match objEntry s s.me.tenant idx with
    | (s1, none) => (s1, none)
    | (s1, some e) => (s1, if Obj.usable e ∧ Obj.right e 1 ∧ Obj.format e ≠ fmtTwill ∧ n ≤ Obj.size e then some e else none)

/-- Is a pick range refused (R325)? -/
def picksRefused (s : State) (m : TMap) (d : KickDesc) : Bool :=
  (List.range d.pickCount).any fun i =>
    let p := d.pickFirst + i
    match tierEnt s m p with
    | some e => decide (Tier.state e ≠ 0) || decide (Tier.hed e ≠ if d.tierM then 1 else 0) || pickHeld s m.tenant m.idx p
    | none => true

/-- The unit a kick goes to: the one named, or the home unit of the first byte of pattern 0 (R333). -/
def kickUnit (s : State) (d : KickDesc) (p0 : Option Pattern) : Option Nat :=
  if d.unit ≠ 0xFFFF then some d.unit
  else match p0 with
    | none => none
    | some p =>
      let va := Obj.base p.entry + (unitOff p.desc 0).toNat
      match ndLeaf s s.me.tenant va with
      | some e => some (if d.tierM then unitOfTileM (leafAddr e va / 6144) else unitOfTileS (leafAddr e va / 6144))
      | none => none

/-- A near-data unit changed by tier and number. -/
def modNd (s : State) (m : Bool) (u : Nat) (f : NdUnit → NdUnit) : State :=
  let s1 := focusNd s m u
  { s1 with nd := f s1.nd }

/-- A kick accepted (R335): the quota charged, the translations held, dirty lines of the footprint written back (R300), the mailbox
cleared, and the body queued. -/
def acceptKick (s : State) (k : Kick) (u : Nat) : State :=
  let frames := k.pages.map fun p => leafAddr p.2 (p.1 * 98304)
  let inFoot (line : Nat) : Bool := frames.any fun a => decide (a ≤ 192 * line + 191 ∧ 192 * line < a + 98304)
  let s1 := ((s.mem.l2.map (·.line)).filter inFoot).foldl writeBack s
  let s2 := unitPut s1 k k.desc.tierM k.mboxVa (List.replicate 64 0)
  let s3 := modNd s2 k.desc.tierM u (fun x => { x with queue := x.queue ++ [k] })
  { s3 with nextKick := s3.nextKick + 1 }

/-- The status of a kick whose descriptor and argument block have been read (R335), and the state it leaves; the slot's kernel object has
the kick right. -/
def submitKick (s : State) (desc args : List Byte) (slot : Option MSlot) (kern : Option Kern) : State × Nat :=
  let named := kickFields desc
  let (s1, ps, wellFormed) := match kern with
    | some k => kickPatterns s k args
    | none => (s, List.replicate 8 none, true)
  let p0 := ps.headD none
  let unit := if kickUnitOk desc then kickUnit s1 named p0 else none
  let full := match unit with
    | some u => decide (64 ≤ (ndOf s1 named.tierM u).queue.length)
    | none => false
  if full then (s1, 1)
  else match parseKick desc with
    | none => (s1, 2)
    | some d =>
      let (s2, mb) := writableObj s1 d.mbox 64
      let (s3, cr) := if d.crec = 0xFFFF then (s2, some 0) else writableObj s2 d.crec 512
      let map := if d.tmap = 0xFFFF then none else tmapOf s3 s3.me.tenant d.tmap
      let mapOk := d.tmap = 0xFFFF || (match map with
        | some m => decide (d.pickFirst + d.pickCount ≤ m.picks)
        | none => false)
      let needs := (slot.elim [] (·.words)).flatMap fun w => (slotInstrs w).flatMap patNeeds
      match mb, cr with
      | some mbe, some cre =>
        if !wellFormed ∨ !mapOk ∨ (slot.isSome && needs.any fun n => !suits (ps.getD n.1 none) n.2) ∨
            (slot.isSome ∧ d.unit = 0xFFFF ∧ p0.isNone) then (s3, 2)
        else
          let refused := match map with
            | some m => picksRefused s3 m d
            | none => false
          if refused then (s3, 3)
          else match slot with
            | none => (s3, 4)
            | some x =>
              let cost := if d.tierM then unitTime ((x.words.map (wordCost true)).foldl (· + ·) 0 * d.trip) else 0
              match (if cost = 0 then some s3 else chargeFor s3 s3.me.tenant s3.me.launch 4 cost) with
              | none => (s3, 5)
              | some s4' =>
                let s4 := readTables s4' ((ps.filterMap id).flatMap patRanges ++ [(Obj.base mbe, 64)]
                  ++ (if d.crec = 0xFFFF then [] else [(Obj.base cre, 512)]))
                let ranges := (ps.filterMap id).flatMap patRanges ++ [(Obj.base mbe, 64)]
                  ++ (if d.crec = 0xFFFF then [] else [(Obj.base cre, 512)])
                match holdPages s4 s4.me.tenant ranges, unit with
                | some pages, some u =>
                  let k : Kick := {
                    id := s4.nextKick, tenant := s4.me.tenant, launch := s4.me.launch, team := s4.me.team, desc := d, kobj := x.kobj,
                    pats := Vector.ofFn fun (i : Fin 8) => ps.getD i.val none, ovf := (ctxOf s4 s4.me.tenant).ovf, mboxVa := Obj.base mbe,
                    crecVa := if d.crec = 0xFFFF then 0 else Obj.base cre, pages := pages, charge := cost }
                  (acceptKick s4 k u, 0)
                | _, _ => (if cost = 0 then s4 else unchargeFor s4 s4.me.tenant s4.me.launch 4 cost, 6)
      | _, _ => (s3, 2)

/-- The slot that a kick may use: of its tenant, serving its tier, and not closing (R332, R335). -/
def kickSlot (s : State) (desc : List Byte) : Option MSlot :=
  match slotFor s (desc.headD 0 = 1) ((desc.drop 1).headD 0).toNat with
  | some x => if x.tenant = s.me.tenant ∧ !x.closing then some x else none
  | none => none

/-- The argument block of a descriptor read by the shuttle; a malformed ARGVA names none. -/
def kickArgs (s : State) (desc : List Byte) : State × Option (Except Trouble (List Byte)) :=
  if kickArgOk desc then sysRead s (kickField desc 24 8) 32 else (s, some (.ok []))

/-- Has the kernel object of the shuttle's own image the kick right (R87)? -/
def mayKick (s : State) : State × Bool :=
  match objEntry s s.me.tenant s.me.kern.obj with
  | (s1, some e) => (s1, Obj.usable e && useOk e .kick)
  | (s1, none) => (s1, false)

/-- `kick` (R132): the descriptor and the argument block are read, a release at PACKAGE scope over every class is made, and the kick is
submitted. RIGHTS where the image's own kernel object, or that of the slot, lacks the kick right (R87). A paired shuttle's is ILLEGAL
(R405). A descriptor that is not 32-byte aligned is BOUNDS (DESIGN CHOICE, log entry 119). -/
def execKick (c : Ctl) (a b : BitVec 5) (s : State) : Host.Outcome State Fault Refusal :=
  if s.me.paired then seqIllegal s
  else seqInstr c (fun t0 =>
    let ea := (getG t0.me b).toNat
    let (t, may) := mayKick t0
    if !may then .trap t { code := .rights, va := 0 } { obj := t.me.kern.obj }
    else if ea % 32 ≠ 0 then .fault t { code := .bounds, va := ea }
    else match sysRead t ea 32 with
      | (u, none) => .wait u .retry
      | (u, some (.error x)) => .fault u x
      | (u, some (.ok desc)) =>
        match kickArgs u desc with
        | (v, none) => .wait v .retry
        | (v, some (.error x)) => .fault v x
        | (v, some (.ok args)) =>
          if releasePending v 65535 then .wait v .retry
          else match kickSlot v desc with
            | none =>
              let r := submitKick v desc args none none
              .done (setVariable r.1 (.g a) (BitVec.ofNat 64 r.2)) 1
            | some slot =>
              match objEntry v v.me.tenant slot.kobj with
              | (w, none) => .fault w { code := .rights, va := 0 }
              | (w, some e) =>
                if !(Obj.usable e && useOk e .kick) then .trap w { code := .rights, va := 0 } { obj := slot.kobj }
                else
                  let r := submitKick w desc args (some slot) ((kernHeader w w.me.tenant slot.kobj e).map (·.1))
                  .done (setVariable r.1 (.g a) (BitVec.ofNat 64 r.2)) 1) s

end Sys2Proof.Machine
end

