-- ==== Sys2Proof/Machine/NdBody.lean ====
section
/-! DEFINITION. Near-data bodies: their state, the fetch slot, climb points and records, faults and completion (R308, R309, R316, R317,
R326, R327, R331, R336 to R338, R343, R344, R346, R347). -/
namespace Sys2Proof.Machine

/-! ### Registers and scalars (R336) -/

/-- Lane k of a near-data register: +0 at or beyond its LEN. -/
def nLane (r : NReg) (k : Nat) : Nat := if k < r.len then (r.lanes.extractLsb' (32 * k) 32).toNat else 0
/-- A near-data register of its lanes, lane 0 first, and LEN. -/
def nReg (l : List Nat) (n : Nat) : NReg :=
  { lanes := (List.range 16).foldl (fun w k => w ||| ((BitVec.ofNat 512 (l.getD k 0 % 2 ^ 32)) <<< (32 * k))) 0, len := n }
/-- A register of a body. -/
def getN (b : Body) (x : BitVec 8) : NReg := b.regs.n.toList.getD x.toNat {}
/-- A body with its registers changed. -/
def modRegs (b : Body) (f : BodyRegs → BodyRegs) : Body := { b with regs := f b.regs }
/-- A register written. -/
def setN (b : Body) (x : BitVec 8) (r : NReg) : Body := modRegs b (fun g => { g with n := g.n.setIfInBounds x.toNat r })
/-- A scalar. -/
def getSc (b : Body) (y : BitVec 8) : BitVec 32 := b.regs.sc.toList.getD y.toNat 0
/-- Flags raised by a body, for its mailbox (R339, R347). -/
def raiseNd (b : Body) (f : FpFlags) : Body := { b with kick := { b.kick with flags := b.kick.flags ||| f } }

/-- A pattern of a body. -/
def patOf (b : Body) (y : BitVec 8) : Option Pattern := (b.kick.pats.toList.getD y.toNat none)
/-- A pattern's position. -/
def posOf (b : Body) (y : BitVec 8) : Nat := b.regs.pos.toList.getD y.toNat 0
/-- A pattern's position advanced by one. -/
def stepPos (b : Body) (y : BitVec 8) : Body := modRegs b (fun g => { g with pos := g.pos.setIfInBounds y.toNat (posOf b y + 1) })

/-- The body on the unit in focus changed. -/
def modBody (s : State) (f : Body → Body) : State := { s with nd := { s.nd with body := s.nd.body.map f } }

/-- The microcode slot of a kick's body at the tier of the unit in focus. -/
def bodySlot (s : State) (k : Kick) : Option MSlot := slotFor s s.nd.tierM k.desc.slot
/-- The words of a body. -/
def bodyWords (s : State) (k : Kick) : List IWord :=
  match bodySlot s k with
  | some x => x.words
  | none => []

/-! ### Faults and completion (R343, R347, R375) -/

/-- A record for a kick, in the queue of its tenant, or of the management function for that function's own launches (R375). -/
def postKick (s : State) (k : Kick) (r : FaultRec) : State × Nat :=
  postRec s (s.loom.launches.any fun l => l.id = k.launch && decide (l.fn = 0)) k.tenant r

/-- Does a kick's record still wait for room (R375)? -/
def kickWaits (s : State) (k : Kick) (n : Nat) : Bool :=
  (fqWaiting s (s.loom.launches.any fun l => l.id = k.launch && decide (l.fn = 0)) k.tenant).any fun r => r.seqno = n

/-- What a body's slot meets: a code, a VA, and the pattern concerned. -/
structure NdFault where
  code : Code
  va : Nat := 0
  pat : Option Nat := none
  obj : Nat := 0xFFFF
deriving DecidableEq, Repr

/-- The record of a body's fault (R343, R373): for POISON, AUX is the physical tile. -/
def bodyRec (s : State) (b : Body) (slotOp : Nat) (f : NdFault) : FaultRec :=
  let at' := match bodySlot s b.kick with
    | some x => x.pos.getD b.regs.word (0, 0)
    | none => (0, 0)
  { code := f.code, eng := 4, ndTierM := s.nd.tierM, tenant := b.kick.tenant, stream := f.pat.getD 0xFF, ptile := s.nd.unit,
    team := b.kick.team, codepos := codePos at'.1 at'.2 + slotOp * 2 ^ 25, obj := f.obj, va := f.va,
    cpos := match f.pat with
      | some p => b.wordStart.pos.toList.getD p 0
      | none => 0
    spos := b.regs.iter
    aux := if f.code = .poison then ((heldPa b.kick f.va).map (· / 6144)).getD 0 else 0 }

/-- A body stops on a fault (R60, R343): no slot of the word takes effect, the record is written, and the kick is to complete with status
3. -/
def bodyFault (s : State) (slotOp : Nat) (f : NdFault) : State :=
  match s.nd.body with
  | none => s
  | some b =>
    let (s1, n) := postKick s b.kick (bodyRec s b slotOp f)
    modBody s1 (fun x => { x with regs := x.wordStart, kick := { x.kick with flags := x.wordFlags }, state := .finished, status := 3, fseq := n })

/-! ### Climb points and records (R315, R317, R344) -/

/-- The pick that holds the next unit of pattern 0; none where pattern 0 is exhausted or the kick names no picks (R344). -/
def nextPick (s : State) (b : Body) (g : BodyRegs) : Option Nat :=
  match tmapOf s b.kick.tenant b.kick.desc.tmap, b.kick.pats.toList.getD 0 none with
  | some m, some p =>
    let i := g.pos.toList.getD 0 0
    if p.n ≤ i then none
    else
      let u := if p.desc.decode = 0 then i * unitsPerBlock p.desc else i
      some ((Obj.base p.entry + (unitOff p.desc u).toNat - Obj.base m.entry) * 8
        / Nat.max 1 (elemBits (Obj.format m.entry) (2 ^ m.log2pick)))
  | _, _ => none

/-- Present levels of a reed stack, highest first. -/
def openLevels (g : BodyRegs) : List Nat := (List.range 24).reverse.filter fun l => g.c / 2 ^ l % 2 = 1

/-- The open nodes of a record: value, level and first position over 2^level (R315, R344). -/
def recordNodes (d : KickDesc) (g : BodyRegs) : List (Nat × Nat × Nat) :=
  (openLevels g).map fun l =>
    let t := ((openLevels g).filter fun h => l < h).foldl (fun n h => n + 2 ^ h) 0
    let first := d.pickFirst * 2 ^ d.ptlog + t * 2 ^ d.etlog
    ((g.levels.toList.getD l 0).toNat, l + d.etlog, first / 2 ^ (l + d.etlog))

/-- Bytes of a table of 8-byte fields, those at or beyond a count written as 0. -/
def table8 (total count : Nat) (f : Nat → Nat) : List Byte := (List.range total).flatMap fun j => bytesOf 8 (if j < count then f j else 0)

/-- The 512 bytes of a climb record (R315, R344). -/
def recordBytes (s : State) (k : Kick) (cpid : Nat) (g : BodyRegs) (pick : Nat) : List Byte :=
  let lay := match bodySlot s k with
    | some x => x.layout
    | none => (0, 0, 0, 0)
  let nodes := recordNodes k.desc g
  let seq := match tmapOf s k.tenant k.desc.tmap with
    | some m => (match tierEnt s m pick with
      | some e => Tier.seq e
      | none => 0)
    | none => 0
  bytesOf 2 k.kobj ++ bytesOf 1 cpid ++ bytesOf 1 (if s.nd.tierM then 1 else 0) ++ bytesOf 1 0 ++ bytesOf 1 nodes.length
    ++ bytesOf 1 lay.1 ++ bytesOf 1 0 ++ bytesOf 4 pick ++ bytesOf 4 (k.desc.pickFirst + k.desc.pickCount - pick) ++ bytesOf 4 seq
    ++ bytesOf 2 k.desc.tmap ++ List.replicate 10 (0 : Byte)
    ++ table8 8 lay.1 (fun j => g.pos.toList.getD j 0) ++ table8 4 (Nat.min 1 lay.2.1) (fun _ => g.iter)
    ++ table8 16 lay.2.2.1 (fun j => (g.sc.toList.getD j 0).toNat)
    ++ table8 24 nodes.length (fun j => match nodes[j]? with
      | some n => n.1 + (n.2.2 % 2 ^ 27 + n.2.1 % 32 * 2 ^ 27) * 2 ^ 32
      | none => 0)
    ++ List.replicate 64 (0 : Byte)

/-- Bytes in the order in which they were written, gathered in runs of rising addresses. -/
def runsOf (ws : List (Nat × Byte)) : List (Nat × List Byte) :=
  (ws.foldl (fun (acc : List (Nat × List Byte)) w => match acc with
    | r :: rest => if w.1 = r.1 + r.2.length then (r.1, r.2 ++ [w.2]) :: rest else (w.1, [w.2]) :: acc
    | [] => [(w.1, [w.2])]) []).reverse

/-- The contributions that a body has held back are sent (R349). -/
def sendPuts (s : State) (b : Body) : State := b.puts.foldl (fun st x => zoneSend st b.kick.tenant x.1 x.2.1 x.2.2.1 x.2.2.2) s

/-- The writes a body has made take their place in home order (R300); where another agent stored to a byte while the kick was outstanding,
either value survives (R304). The contributions that it has held back are sent. -/
def landWrites (s : State) (b : Body) : State :=
  let lands (w : Nat × Byte) : Bool := !decide (w.1 ∈ b.kick.stored) || Config.chooseStale (s.fresh * 65536 + w.1)
  sendPuts (if b.kick.stored.isEmpty then unitStore s b.kick s.nd.tierM (runsOf b.writes)
    else bump (unitStore s b.kick s.nd.tierM (runsOf (b.writes.filter lands)))) b

/-- The record of a body written from the state of its last climb point, and the writes made before it in place (R317, R321). Answers
false where NODES exceeds the layout's count, and the body faults BOUNDS (R344). -/
def writeRecord (s : State) (b : Body) (cpid : Nat) (g : BodyRegs) (pick : Nat) : State × Bool :=
  let lay := match bodySlot s b.kick with
    | some x => x.layout.2.2.2
    | none => 0
  if lay < (recordNodes b.kick.desc g).length then (bodyFault s 0 { code := .bounds, va := b.kick.crecVa }, false)
  else
    let s1 := landWrites s b
    (modBody (unitPut s1 b.kick s1.nd.tierM b.kick.crecVa (recordBytes s1 b.kick cpid g pick))
      (fun x => { x with writes := [], climbWrites := 0, puts := [] }), true)

/-- A hand-over ends without a flip: marked picks return to ready, with HED, SEQ and the copies as they stand (R308, R320). -/
def unmark (s : State) (t tmap : Nat) (ps : List Nat) : State :=
  match tmapOf s t tmap with
  | none => s
  | some m => ps.foldl (fun st p => match tierEnt st m p with
    | some e => if Tier.state e = 1 then putTierHome st m p (Tier.withState e 0) else st
    | none => st) s

/-- The hand-over of a kick. -/
def handoverOf (s : State) (kick : Nat) : Option Handover := s.handovers.find? fun h => h.kick = kick
/-- The request of a kick withdrawn (R308, R330). -/
def withdraw (s : State) (k : Kick) : State :=
  match handoverOf s k.id with
  | none => s
  | some h => unmark { s with handovers := s.handovers.filter fun x => x.kick ≠ k.id } k.tenant k.desc.tmap h.marked

/-- The registers with which a body resumes from a climb point: every register is dead there (R344). -/
def deadRegs (g : BodyRegs) : BodyRegs := { g with n := Vector.replicate 32 {} }

/-- The unit in focus released: its body leaves it. -/
def releaseUnit (s : State) : State := { s with nd := { s.nd with body := none } }

/-- A body as it stood at its last climb point, but for its registers: what it did since, stores and contributions, is discarded (R327). -/
def backToClimb (b : Body) : Body :=
  { b with kick := { b.kick with flags := b.climbFlags, words := b.climbWords }, writes := b.writes.take b.climbWrites, puts := [] }

/-- A body that needs a lost pick stops with its record (R327): where the heddle has moved to a higher tier a hand-over begins from step
2; where the pick is parked for repair the unit is released. A request that was pending is withdrawn (R330). A body that has passed no
climb point has no record to write: it leaves its unit, and starts afresh when the pick is ready. -/
def bodyNeedsLost (s : State) (b : Body) (pick : Nat) (e : TierEnt) : State :=
  let s0 := withdraw s b.kick
  let b0 := backToClimb b
  match b.climbAt with
  | none => { releaseUnit s0 with away := s0.away ++ [({ b0 with regs := {}, state := .climbed }, .repair pick)] }
  | some (id, g) =>
    match writeRecord (modBody s0 (fun _ => b0)) b0 id g ((nextPick s0 b g).getD pick) with
    | (s1, false) => s1
    | (s1, true) =>
      if Tier.state e = 3 then
        match s1.nd.body with
        | some b1 => { releaseUnit s1 with away := s1.away ++ [({ b1 with regs := g, state := .climbed }, .repair pick)] }
        | none => s1
      else
        let h : Handover := { kick := b.kick.id, tierM := s1.nd.tierM, unit := s1.nd.unit, target := Tier.hed e, lost := true,
                              since := tstampOf s1 }
        { modBody s1 (fun x => { x with regs := g, state := .climbed }) with handovers := s1.handovers ++ [h] }

/-- Is a pick lost to a tier: parked for repair, or its heddle at another (R326)? -/
def pickLost (e : TierEnt) (tierM : Bool) : Bool := decide (Tier.state e = 3) || decide (Tier.hed e ≠ if tierM then 1 else 0)

/-- The entry of a pick of a kick's tier map. -/
def kickEnt (s : State) (k : Kick) (p : Nat) : Option TierEnt :=
  match tmapOf s k.tenant k.desc.tmap with
  | some m => tierEnt s m p
  | none => none

/-- CLIMB_CHECK (R308, R317, R327, R344): the body keeps its state, and the contributions it has made leave for their zones; with a request pending, or its next pick lost, it writes its record and
stops. -/
def execClimbCheck (u : Nat) (s : State) : Host.Outcome State Fault Refusal :=
  let s1 := focusNd s (ndNumber u).1 (ndNumber u).2
  match s1.nd.body with
  | none => .next s1
  | some b =>
    let cp : Option (Nat × Nat) := match bodySlot s1 b.kick with
      | some x => x.climbs.find? fun c => c.1 = b.regs.word
      | none => none
    match cp with
    | none => .next s1
    | some (_, id) =>
      if b.state ≠ .running ∨ b.phase ≠ 0 then .next s1
      else
        let b1 := { b with
          climbAt := some (id, deadRegs b.regs), climbFlags := b.kick.flags, climbWords := b.kick.words, climbWrites := b.writes.length,
          phase := 1, wordStart := b.regs, wordFlags := b.kick.flags, puts := [] }
        let s2 := modBody (sendPuts s1 b) (fun _ => b1)
        match nextPick s2 b1 b1.regs with
        | none => .next (if (handoverOf s2 b.kick.id).isSome then withdraw s2 b.kick else s2)
        | some p =>
          match kickEnt s2 b.kick p with
          | none => .next s2
          | some e =>
            if pickLost e s2.nd.tierM then .next (bodyNeedsLost s2 b1 p e)
            else if (handoverOf s2 b.kick.id).isNone then .next s2
            else
              match writeRecord s2 b1 id (deadRegs b1.regs) p with
              | (s3, false) => .next (withdraw s3 b.kick)
              | (s3, true) =>
                .next { modBody s3 (fun x => { x with state := .climbed }) with
                  handovers := s3.handovers.map fun h => if h.kick = b.kick.id ∧ !h.held then { h with since := tstampOf s3 } else h }

/-! ### Reading the footprint (R228, R300, R338, R346) -/

/-- The frames of NAND from which a tier S body reads a range of physical addresses: lost ones are reported (R326). -/
def nandFrames (s : State) (pa n : Nat) : State × Bool :=
  let lost := ((unitsOf pa n 6144).map (· / 8)).filter fun f => f ∈ s.module.nandLost
  match lost with
  | [] => (s, true)
  | f :: _ => ((reportLost s ((List.range 8).map (· + 8 * f)) 0).1, false)

/-- Bytes of one frame read by the unit in focus at a physical address. -/
def unitReadPa (s : State) (t pa n msc : Nat) : State × List Byte × Bool :=
  if s.nd.tierM then devRead s t false pa n { alloc := false, msc := msc }
  else
    let (s1, there) := nandFrames s pa n
    if !there then (s1, List.replicate n 0, true)
    else
      let (s2, ok) := (unitsOf pa n 6144).foldl (fun acc T => let r := verifyTile acc.1 t false T; (r.1, acc.2 && r.2)) (s1, true)
      if ok then (s2, memRead s2.mem.home pa n, (unitsOf pa n 48).any fun k => k ∈ s2.mem.poison)
      else (bump s2, garbage s2 n, true)

/-- Bytes of a body's own earlier writes that a later read of the same bytes meets: the old bytes or its own, which R300 leaves open. -/
def ownWrites (s : State) (b : Body) (pa : Nat) (bs : List Byte) : State × List Byte :=
  if b.writes.any (fun w => decide (pa ≤ w.1 ∧ w.1 < pa + bs.length)) then
    if Config.chooseStale s.fresh then (bump s, bs)
    else (bump s, (List.range bs.length).map fun i => match b.writes.reverse.find? (fun w => w.1 = pa + i) with
      | some w => w.2
      | none => bs.getD i 0)
  else (s, bs)

/-- A read of the body's footprint (R338): a CODED page admits only the segments of `fldp`; poisoned bytes are POISON. -/
def bodyRead (s : State) (b : Body) (coded : Bool) (va n : Nat) : State × Except NdFault (List Byte) :=
  (unitsOf va n 98304).foldl (fun (acc : State × Except NdFault (List Byte)) f =>
    match acc with
    | (s0, .error x) => (s0, .error x)
    | (s0, .ok bs) =>
      let lo := Nat.max va (f * 98304)
      let hi := Nat.min (va + n) ((f + 1) * 98304)
      match heldLeaf b.kick lo with
      | none => (s0, .error { code := .footprint, va := lo })
      | some e =>
        if !leafR e ∨ (leafCoded e ∧ !coded) then (s0, .error { code := .rights, va := lo })
        else
          let pa := leafAddr e lo
          let (s1, got, bad) := unitReadPa s0 b.kick.tenant pa (hi - lo) (leafMscp e)
          if bad then (s1, .error { code := .poison, va := lo })
          else let (s2, mine) := ownWrites s1 b pa got; (s2, .ok (bs ++ mine))) (s, .ok [])

/-- The pick of a kick's tier map that holds a VA. -/
def pickAtVa (s : State) (k : Kick) (va : Nat) : Option Nat :=
  match tmapOf s k.tenant k.desc.tmap with
  | some m => (picksTouched m va 1).head?
  | none => none

/-- A fault of a fetch: a poisoned or lost pick of the kick's tier map is handled as lost (R326, R327, R343), anything else stops the
body. -/
def fetchFault (s : State) (b : Body) (f : NdFault) : State :=
  let lost := match f.code, pickAtVa s b.kick f.va with
    | .poison, some p => (match kickEnt s b.kick p with
      | some e => if pickLost e s.nd.tierM then some (p, e) else none
      | none => none)
    | _, _ => none
  match lost with
  | some (p, e) => bodyNeedsLost s b p e
  | none => bodyFault s 0 f

/-! ### The fetch slot (R338) -/

/-- What a fetch-slot operation does to the body on the unit in focus. -/
def fetchSlot (f : State → Body → State × Except NdFault Body) (s : State) : Host.Outcome State Fault Refusal :=
  match s.nd.body with
  | none => .next s
  | some b =>
    match f s b with
    | (s1, .ok b1) => .next (modBody s1 (fun _ => { b1 with phase := 2 }))
    | (s1, .error x) => .next (fetchFault s1 b x)

/-- `fnop` (R338). -/
def execFnop (s : State) : Host.Outcome State Fault Refusal := fetchSlot (fun t b => (t, .ok b)) s

/-- An element as `fld` places it in a lane (R338), a NaN canonical (R206). -/
def fldElem (format v : Nat) : Nat :=
  match format with
  | 0 => (roundF32 (f32 v)).1
  | 1 => (roundF32 (FV.decode .bf16 v)).1
  | 2 => (roundF32 (FV.decode .f16 v)).1
  | 3 => (roundF32 (FV.decode .e4m3 v)).1
  | 4 => (roundF32 (FV.decode .e5m2 v)).1
  | 6 => intBits 32 (intValue true 16 v)
  | 7 => intBits 32 (intValue true 8 v)
  | _ => v

/-- The bytes of the units of the next block or unit of a pattern, each unit by itself. -/
def readUnits (b : Body) (p : Pattern) (coded : Bool) (s : State) : List Nat → State × Except NdFault (List (List Byte))
  | [] => (s, .ok [])
  | j :: js =>
    match bodyRead s b coded (Obj.base p.entry + (unitOff p.desc j).toNat) (unitBytes p.desc) with
    | (s1, .error x) => (s1, .error x)
    | (s1, .ok bs) =>
      match readUnits b p coded s1 js with
      | (s2, .ok l) => (s2, .ok (bs :: l))
      | (s2, .error x) => (s2, .error x)

/-- The pattern of a fetch and its position; a fetch past the last block or unit is FOOTPRINT (R346). -/
def fetchPat (b : Body) (y : BitVec 8) : Except NdFault (Pattern × Nat) :=
  match patOf b y with
  | none => .error { code := .footprint, pat := some y.toNat }
  | some p => if p.n ≤ posOf b y then .error { code := .footprint, pat := some y.toNat, obj := p.desc.obj } else .ok (p, posOf b y)

/-- A fault that names the pattern met. -/
def NdFault.of (x : NdFault) (y : BitVec 8) (p : Pattern) : NdFault := { x with pat := some y.toNat, obj := p.desc.obj }

/-- `fld` (R338). -/
def execFld (x y : BitVec 8) (s : State) : Host.Outcome State Fault Refusal :=
  fetchSlot (fun t b =>
    match fetchPat b y with
    | .error e => (t, .error e)
    | .ok (p, i) =>
      let u := unitsPerBlock p.desc
      match readUnits b p false t ((List.range u).map (· + i * u)) with
      | (t1, .error e) => (t1, .error (e.of y p))
      | (t1, .ok l) => (t1, .ok (stepPos (setN b x (nReg (l.map fun bs => fldElem p.desc.format (natOfBytes bs)) l.length)) y))) s

/-- `fldp` (R338): the raw bytes of a unit, and its scale record. -/
def execFldp (x y : BitVec 8) (s : State) : Host.Outcome State Fault Refusal :=
  fetchSlot (fun t b =>
    match fetchPat b y with
    | .error e => (t, .error e)
    | .ok (p, i) =>
      let off := (unitOff p.desc i).toNat
      match bodyRead t b (decide (p.desc.decode = 1)) (Obj.base p.entry + off) (unitBytes p.desc) with
      | (t1, .error e) => (t1, .error (e.of y p))
      | (t1, .ok bs) =>
        match bodyRead t1 b false (Obj.scaleBase p.entry + off / unitBytes p.desc * Obj.scaleStride p.entry) 2 with
        | (t2, .error e) => (t2, .error (e.of y p))
        | (t2, .ok r) =>
          let words (n : Nat) : List Nat := (List.range n).map fun k => natOfBytes ((bs.drop (4 * k)).take 4)
          let lanes := words (if p.desc.decode = 1 then 12 else 4) ++ [natOfBytes r]
          (t2, .ok (stepPos (setN b x (nReg lanes 16)) y))) s

/-- `fnext` (R338). -/
def execFnext (y : BitVec 8) (s : State) : Host.Outcome State Fault Refusal :=
  fetchSlot (fun t b => match fetchPat b y with
    | .error e => (t, .error e)
    | .ok _ => (t, .ok (stepPos b y))) s

/-- `frec` (R338). -/
def execFrec (x y : BitVec 8) (s : State) : Host.Outcome State Fault Refusal :=
  fetchSlot (fun t b => (t, .ok (setN b x (nReg (List.replicate 16 (getSc b y).toNat) 16)))) s

/-! ### Starting, ending and completing (R335 to R337, R347) -/

/-- KICK_BODY_START (R331, R335, R336): a free unit that is in service takes the oldest kick of its queue. -/
def execKickBodyStart (u : Nat) (s : State) : Host.Outcome State Fault Refusal :=
  let s1 := focusNd s (ndNumber u).1 (ndNumber u).2
  if unitOut s1 s1.nd.tierM s1.nd.unit then .next s1 else
  match s1.nd.body, s1.nd.queue with
  | none, k :: rest =>
    let g := k.start.getD {}
    .next { s1 with nd := { s1.nd with queue := rest, body := some { kick := k, regs := g, wordStart := g, wordFlags := k.flags } } }
  | _, _ => .next s1

/-- The end of a word: the next word, the next iteration, or the end of the body (R337). -/
def endWord (s : State) (b : Body) : Body :=
  let ws := bodyWords s b.kick
  let b1 := { b with spent := b.spent + wordCost s.nd.tierM (ws.getD b.regs.word 0), phase := 0 }
  if b.regs.word + 1 < ws.length then modRegs b1 (fun g => { g with word := g.word + 1 })
  else if b.regs.iter + 1 < b.kick.desc.trip then modRegs b1 (fun g => { g with word := 0, iter := g.iter + 1 })
  else { b1 with state := .finished, status := if s.nd.tierM = b.kick.desc.tierM then 1 else 2 }

/-- The mailbox of a kick completed: bytes 8 to 63 first, then bytes 0 to 7 as one write (R309, R347). -/
def completeMailbox (s : State) (k : Kick) (status fseq : Nat) : State :=
  let words := k.words.toList.flatMap fun w => bytesOf 4 w.toNat
  let s1 := unitPut s k s.nd.tierM (k.mboxVa + 8) (bytesOf 4 fseq ++ bytesOf 4 0 ++ words)
  unitPut s1 k s.nd.tierM k.mboxVa (bytesOf 4 status ++ bytesOf 1 k.flags.toNat ++ bytesOf 3 0)

/-- The unused unit time of a kick returned, every run of its body counted (R323). -/
def returnTime (s : State) (k : Kick) (spent : Nat) : State :=
  let back := k.charge - unitTime (k.ran + spent)
  if back = 0 then s else unchargeFor s k.tenant k.launch 4 back

/-- A kick completed by its unit: its mailbox, and its unused unit time returned (R323, R347). -/
def completeKick (s : State) (k : Kick) (spent status fseq : Nat) : State := returnTime (completeMailbox s k status fseq) k spent

/-- A kick completed by the tier manager after a hand-over to tier C: bytes 0 to 7 of the mailbox alone, as one write; the words are the
shuttle's (R347). -/
def completeUpper (s : State) (k : Kick) (spent : Nat) : State :=
  returnTime (unitPut s k true k.mboxVa (bytesOf 4 2 ++ bytesOf 1 k.flags.toNat ++ bytesOf 3 0)) k spent

/-- BODY_COMPLETE (R300, R308, R347): the body's writes take their place, a request still pending is withdrawn, and the kick completes,
unless its record waits for room (R375). -/
def execBodyComplete (u : Nat) (s : State) : Host.Outcome State Fault Refusal :=
  let s1 := focusNd s (ndNumber u).1 (ndNumber u).2
  match s1.nd.body with
  | none => .next s1
  | some b =>
    if b.state ≠ .finished ∨ (b.status = 3 ∧ kickWaits s1 b.kick b.fseq) then .next s1
    else .next (completeKick (releaseUnit (landWrites (withdraw s1 b.kick) b)) b.kick b.spent b.status b.fseq)

/-- A word about to issue: legal, with TWILL accepted where it decodes a segment (R59, R60); answers its fetch operation. -/
def beginWord (s : State) (b : Body) : State × Option Instr :=
  let w := (bodyWords s b.kick).getD b.regs.word 0
  let s1 := modBody s (fun x => { x with phase := 1, wordStart := x.regs, wordFlags := x.kick.flags })
  let bad (k : Nat) : State × Option Instr := (bodyFault s1 k { code := .illegal }, none)
  match decodeFetch (slotsOf w).1, decodeArith (slotsOf w).2.1, decodeWb (slotsOf w).2.2 with
  | .ok f, .ok a, .ok _ =>
    let twd := match a with
      | .twd _ _ _ => true
      | _ => false
    if twd && !s1.module.accept.getLsbD 0 then bad 1 else (s1, some f)
  | .error _, _, _ => bad 0
  | _, .error _, _ => bad 1
  | _, _, .error _ => bad 2

end Sys2Proof.Machine
end

