-- ==== Sys2Proof/Machine/Place.lean ====
section
/-! DEFINITION. Work hierarchies, queue control words and the placement of teams (R31 to R37, R396, R402), and the start state of a
shuttle (R7). -/
namespace Sys2Proof.Machine

/-! ### Levels (R31 to R33) -/

/-- Shuttles that a domain holds (R31); MODULE and LANE have no figure. -/
def domainShuttles (d : Nat) : Nat :=
  match d with
  | 1 => 1 | 2 => 4 | 3 => 16 | 4 => 64 | 5 => 768 | 6 => 1536 | _ => 0
/-- Tiles that a domain holds, 1 for SHUTTLE and TILE (R31). -/
def domainTiles (d : Nat) : Nat :=
  match d with
  | 1 => 1 | 2 => 1 | 3 => 4 | 4 => 16 | 5 => 192 | 6 => 384 | _ => 0
/-- The covering scope of a domain (R31): the scope of the same name, SYSTEM for MODULE. -/
def coveringScope (d : Nat) : Nat := if d = 7 then 6 else d - 1

/-- The team level: the highest level whose domain is not MODULE (R32). -/
def teamLevel (l : List Level) : Nat := (l.takeWhile fun x => x.domain ≠ 7).length - 1
/-- Shuttles of an instance of a level. -/
def instShuttles (l : List Level) (n : Nat) : Nat := ((l.take (n + 1)).map (·.extent)).foldl (· * ·) 1
/-- c: shuttles of the highest level instance whose domain is SHUTTLE or TILE (R32). -/
def perTileOf (l : List Level) : Nat := ((l.takeWhile fun x => x.domain ≤ 2).map (·.extent)).foldl (· * ·) 1
/-- Shuttles of a team. -/
def teamShuttles (l : List Level) : Nat := instShuttles l (teamLevel l)
/-- Tiles of a team (R32, R33). -/
def teamTiles (l : List Level) : Nat := teamShuttles l / Nat.max 1 (perTileOf l)
/-- Teams of a launch: the instances of the levels above the team level. -/
def teamCount (l : List Level) : Nat := ((l.drop (teamLevel l + 1)).map (·.extent)).foldl (· * ·) 1
/-- Domain of the team. -/
def teamDomain (l : List Level) : Nat := ((l[teamLevel l]?).map (·.domain)).getD 1

/-- Do values never decrease outward? -/
def rising : List Nat → Bool
  | [] => true
  | [_] => true
  | a :: b :: r => decide (a ≤ b) && rising (b :: r)

/-- The capacity test of R32 on one level. -/
def capacityOk (l : List Level) (n : Nat) : Bool :=
  match l[n]? with
  | none => true
  | some x =>
    if x.domain ≤ 2 then decide (instShuttles l n ≤ domainShuttles x.domain)
    else decide (instShuttles l n / Nat.max 1 (perTileOf l) ≤ domainTiles x.domain)

/-- The checks of R32. -/
def levelsOk (l : List Level) : Bool :=
  (l.all fun x => decide (1 ≤ x.domain ∧ x.domain ≤ 7 ∧ x.extent ≠ 0 ∧ x.scope ≤ 6 ∧ coveringScope x.domain ≤ x.scope))
    && decide ((l.head?).map (·.domain) = some 1) && rising (l.map (·.domain)) && rising (l.map (·.scope))
    && (List.range (teamLevel l + 1)).all (capacityOk l)

/-- Indices of a number in row-major order over extents, the first fastest (R33). -/
def unrank (n : Nat) : List Nat → List Nat
  | [] => []
  | e :: es => n % Nat.max 1 e :: unrank (n / Nat.max 1 e) es

/-- LVLIDX of a shuttle: its ordinal over the team's levels, the team's index over those above (R33, R34). -/
def levelIndices (l : List Level) (ordinal team : Nat) : List Nat :=
  let ext := l.map (·.extent)
  unrank ordinal (ext.take (teamLevel l + 1)) ++ unrank team (ext.drop (teamLevel l + 1))

/-! ### Queue control words (R35, R36) -/

/-- Bytes of an L1 share code (R388). -/
def l1Bytes (code : Nat) : Nat := if code = 0 then 0 else 32768 * 2 ^ code
/-- The default layout's QCW of a physical slot and role for an L1 share in bytes (R36). -/
def defaultFor (share slot role : Nat) : Word :=
  let t := (Config.sramBytes - share) / 64
  BitVec.ofNat 64 ((t - 560 * (slot + 1) + 16 * role) % 16384 + (if role = 3 then 512 else 16) * 65536 + 3 * 268435456)
/-- The QCW of a team slot's role hosted by a physical slot (R36). -/
def formQcw (decl : List (Nat × Nat × Word)) (share team phys role : Nat) : Word :=
  match decl.find? fun d => d.1 = team && d.2.1 = role with
  | some d => d.2.2
  | none => defaultFor share phys role
/-- The QCWs of a team's slots on one tile, by the physical slots that host them. -/
def formQcws (decl : List (Nat × Nat × Word)) (share : Nat) (slots : List Nat) : List (Nat × Nat × Word) :=
  ((List.range slots.length).zip slots).flatMap fun x => (List.range 4).map fun r => (x.2, r, formQcw decl share x.1 x.2 r)

/-- Do two areas share a byte? -/
def areasMeet (a b : Nat × Nat) : Bool := decide (a.2 ≠ 0 ∧ b.2 ≠ 0 ∧ a.1 < b.1 + b.2 ∧ b.1 < a.1 + a.2)
/-- Is no area of a list over another? -/
def areasApart : List (Nat × Nat) → Bool
  | [] => true
  | a :: r => !(r.any (areasMeet a)) && areasApart r

/-- The checks of R35 on the QCWs of a tile: the top, the overlaps, the ESIZE of the role. -/
def qcwsOk (share : Nat) (l : List (Nat × Nat × Word)) : Bool :=
  (l.all fun x =>
    let a := qcwArea x.2.2
    let e := bitsOf x.2.2.toNat 30 28
    (decide (a.2 = 0) || decide (a.1 + a.2 ≤ Config.sramBytes - share)) && (if x.2.1 = 3 then decide (3 ≤ e) else decide (e = 3)))
    && areasApart (l.map fun x => qcwArea x.2.2)

/-! ### Placement (R37, R396, R402) -/

/-- What a team asks of a tile: its L1 share in bytes, its shuttles, its QCW declarations and its regions, the launch that placement is
for, and the teams whose shuttles count as gone (R397). -/
structure Fit where
  share : Nat
  perTile : Nat
  qcws : List (Nat × Nat × Word)
  regions : List Region
  launch : Nat
  gone : List Nat := []
deriving DecidableEq, Repr

/-- The shuttles on a tile that hold a slot: those of a team, ended or not, until their team ends. -/
def tileShuttles (s : State) (gone : List Nat) (t : Nat) : List Shuttle :=
  (allShuttles s).filter fun h => h.place.tile = t && h.life ≠ .idle && !decide (h.team ∈ gone)

/-- The slots a team takes on a tile, where the tile fits it; `groups` are the column groups that must be free there (R37, R396, R402). -/
def tileFits (s : State) (f : Fit) (groups : List Nat) (t : Nat) : Option (List Nat) :=
  let there := tileShuttles s f.gone t
  let free := (List.range 4).filter fun j => !(there.any fun h => h.place.slot = j)
  let slots := free.take f.perTile
  let x := tileOf s t
  let mine := formQcws f.qcws f.share slots
  let areas := mine.map (fun q => qcwArea q.2.2) ++ f.regions.map fun r => (r.base, r.size)
  let shared := (there.map fun h => (h.team, h.launch)).eraseDups
  let held := s.loom.holds.any fun y => y.1 = t && y.2 ≠ f.launch
  let owners := there.map (·.place.slot)
  let apart := shared.all fun k => (footprint s t k.1 k.2).all fun a => !(areas.any (areasMeet a))
  let groupsFree := groups.all fun g => match x.groups.toList[g]? with
    | some y => !y.inuse || !decide (y.owner ∈ owners)
    | none => false
  if slots.length = f.perTile && !held && (there.isEmpty || decide (x.l1share = f.share)) && qcwsOk f.share mine && apart && groupsFree then
    some slots
  else none

/-- The lowest tiles of a list that fit, virtual tile by virtual tile from v (R396). -/
def chooseTiles (fits : Nat → Nat → Option (List Nat)) : List Nat → Nat → Nat → Option (List (Nat × List Nat))
  | _, _, 0 => some []
  | [], _, _ + 1 => none
  | t :: ts, v, n + 1 =>
    match fits v t with
    | some slots => (chooseTiles fits ts (v + 1) n).map fun r => (t, slots) :: r
    | none => chooseTiles fits ts v (n + 1)

/-- The tiles of instance i of a domain, of those in a range of tiles. -/
def instanceTiles (d i lo hi : Nat) : List Nat :=
  let n := domainTiles d
  ((List.range n).map (· + i * n)).filter fun t => decide (lo ≤ t ∧ t < hi)

/-- The placement of a team in one instance. -/
def placeIn (s : State) (f : Fit) (groups : Nat → List Nat) (d n lo hi i : Nat) : Option (List (Nat × List Nat)) :=
  chooseTiles (fun v t => tileFits s f (groups v) t) (instanceTiles d i lo hi) 0 n

/-- The placement of a team: the lowest-numbered instance that fits (R396), of those in a range of tiles. -/
def placeTeam (s : State) (f : Fit) (groups : Nat → List Nat) (d n lo hi : Nat) : Option (List (Nat × List Nat)) :=
  firstSome (placeIn s f groups d n lo hi) (List.range (Config.numTiles / Nat.max 1 (domainTiles d)))

/-- Both sides of a team: die 0 and die 1 where it is paired (R405), else one. -/
def placeSides (s : State) (f : Fit) (groups : Nat → List Nat) (d n : Nat) (paired : Bool) :
    Option (List (Nat × List Nat) × List (Nat × List Nat)) :=
  if paired then
    match placeTeam s f groups d n 0 192, placeTeam s f groups d n 192 384 with
    | some a, some b => some (a, b)
    | _, _ => none
  else (placeTeam s f groups d n 0 384).map fun a => (a, [])

/-- The places of a placement in ordinal order: team slot j of virtual tile v is ordinal v × c + j (R33, R36). -/
def placesOf (l : List (Nat × List Nat)) : List Place := l.flatMap fun x => x.2.map fun j => { tile := x.1, slot := j }

/-- The placement that a launch's teams ask for. -/
def fitOf (l : Launch) (gone : List Nat) : Fit :=
  { share := l1Bytes l.l1, perTile := perTileOf l.levels, qcws := l.qcws, regions := l.regions, launch := l.id, gone := gone }

/-! ### Starting shuttles (R7, R33 to R36) -/

/-- A tile made ready for the shuttles of a team: the L1 share, the QCWs of the slots, nothing in the L1 (R35, R393). -/
def prepareTile (s : State) (share : Nat) (qcws : List (Nat × Nat × Word)) (t : Nat) : State :=
  modTileAt s t (fun x => flashL1 { x with
    l1share := share
    qcw := qcws.foldl (fun v q => v.setIfInBounds (4 * q.1 + q.2.1) q.2.2) x.qcw })

/-- The groups that a slot owns on a tile released, with CNT where group 0 is among them, and its panel (R182, R200). -/
def releaseSlot (x : Tile) (slot : Nat) : Tile :=
  let mine (g : Group) : Bool := g.inuse && decide (g.owner = slot)
  { x with
    groups := x.groups.map fun g => if mine g then {} else g
    cnt := if mine (x.groups[0]) then Vector.replicate 8 0 else x.cnt
    panels := x.panels.setIfInBounds slot none }

/-- A shuttle started afresh at a place (R7): the start state, with what its launch gives it. -/
def startShuttle (s : State) (l : Launch) (team ordinal perTile index : Nat) (p : Place) : State :=
  let s1 := modTileAt s p.tile (fun x => releaseSlot x p.slot)
  modShuttle s1 p (fun _ => {
    place := p, life := .running, priv := l.priv, tenant := l.tenant, team := team, ordinal := ordinal, vtile := ordinal / Nat.max 1 perTile,
    kern := l.kern, argBase := BitVec.ofNat 64 l.argVa, teamWin := if 3 ≤ teamDomain l.levels then BitVec.ofNat 64 Config.teamWindow else 0,
    lvlIdx := levelIndices l.levels ordinal index, lvlExt := l.levels.map (·.extent), climb := l.climb, paired := l.paired,
    band := l.band, launch := l.id, pc := codeAddr l.kern.seqHead 0, clock := s.cycles })

/-- The shuttles of a team started at their places. -/
def startSide (s : State) (l : Launch) (team index : Nat) (side : List (Nat × List Nat)) : State :=
  let s1 := side.foldl (fun st x => prepareTile st (l1Bytes l.l1) (formQcws l.qcws (l1Bytes l.l1) x.2) x.1) s
  let ps := placesOf side
  ((List.range ps.length).zip ps).foldl (fun st x => startShuttle st l team x.1 (perTileOf l.levels) index x.2) s1

end Sys2Proof.Machine
end

