-- ==== Sys2Proof/Machine/Save.lean ====
section
/-! DEFINITION. The context save area: its size and layout, saving a shuttle's state into it and restoring it (R290, R303, R400 to R402,
R406, R407). The bytes whose place within a block the manual does not give stand in a layout of the model's own. -/
namespace Sys2Proof.Machine

/-! ### The save area's size (R401, R407) -/

/-- Bytes of a shuttle block. -/
def shuttleBlock : Nat := 221184
/-- Bytes of the KEEP regions of a virtual tile. -/
def keepBytes (l : List Region) : Nat := ((l.filter (·.keep)).map (·.size)).foldl (· + ·) 0
/-- DEPTHs of a team slot's three command queues. -/
def slotDepths (decl : List (Nat × Nat × Word)) (slot : Nat) : List Nat := (List.range 3).map fun r => qcwDepth (formQcw decl 0 slot 0 r)
/-- Bytes of one side's save area: the header, the shuttle blocks, the KEEP regions, the command-queue images. -/
def sideBytes (shuttles tiles perTile : Nat) (regions : List Region) (decl : List (Nat × Nat × Word)) : Nat :=
  256 + shuttleBlock * shuttles + tiles * keepBytes regions
    + tiles * ((List.range perTile).map fun j => (slotDepths decl j).foldl (fun n d => n + 64 * d) 0).foldl (· + ·) 0
/-- The size that R401 gives one side of a launch. -/
def saveBytes (l : Launch) : Nat := sideBytes (teamShuttles l.levels) (teamTiles l.levels) (perTileOf l.levels) l.regions l.qcws

/-- Base VA of a third of a launch's save area: third 0 but for checkpoints (R407). -/
def saveBase (s : State) (l : Launch) (third : Nat) : Option Nat := (entryFresh s l.tenant l.save).map fun e => Obj.base e + third * saveBytes l

/-- Offset of a shuttle's block. -/
def blockOff (ordinal : Nat) : Nat := 256 + shuttleBlock * ordinal
/-- Offset of a virtual tile's KEEP regions. -/
def keepOff (l : Launch) (vtile : Nat) : Nat := 256 + shuttleBlock * teamShuttles l.levels + vtile * keepBytes l.regions
/-- Offset of a shuttle's command-queue images. -/
def imageOff (l : Launch) (ordinal : Nat) : Nat :=
  keepOff l (teamTiles l.levels) + ((List.range ordinal).map fun o =>
    (slotDepths l.qcws (o % Nat.max 1 (perTileOf l.levels))).foldl (fun n d => n + 64 * d) 0).foldl (· + ·) 0

/-! ### What is saved (R400) -/

/-- The groups of a tile that a slot owns, by number (R183). -/
def ownedGroups (x : Tile) (slot : Nat) : List (Nat × Group) :=
  ((List.range 16).zip x.groups.toList).filter fun g => g.2.inuse && decide (g.2.owner = slot)

/-- A shuttle's state as a save keeps it: results landed, DIRTY bits cleared, the result queue dead, nothing in flight (R30, R183, R262,
R400, R402). -/
def saveShuttle (s : State) (p : Place) : SavedShuttle :=
  let h := settleVec (landAll (shuttleAt s p))
  let x := tileOf s p.tile
  let groups := (ownedGroups x p.slot).map fun g => (g.1, { g.2 with dirty := false })
  { shuttle := { h with
      vDirty := 0, ring := [], reserved := 0, vOld := [], hand := none, lastInter := none, wait := none, fresh := true, issued := false,
      exiting := false, stopReq := false,
      s := h.s.map fun y => match y with
        | some st => some (if st.desc.out then st else { st with buf := [], spos := st.cpos, flying := false, parked := false })
        | none => none }
    groups := groups, cnt := if groups.any (fun g => g.1 = 0) then x.cnt.toList else [], panel := x.panels.toList.getD p.slot none }

/-- Bytes of a list of 64-bit words. -/
def wordBytes (l : List Word) : List Byte := l.flatMap fun w => bytesOf 8 w.toNat
/-- A list of bytes padded with 0, or cut, to a length. -/
def padTo (n : Nat) (l : List Byte) : List Byte := l.take n ++ List.replicate (n - l.length) (0 : Byte)
/-- A bitmap of the positions that meet a test. -/
def bitmap (n : Nat) (f : Nat → Bool) : Nat := (List.range n).foldl (fun w i => if f i then w + 2 ^ i else w) 0

/-- A stream's descriptor as the 64 bytes of R147. -/
def descBytes (d : Desc) : List Byte :=
  bytesOf 2 d.obj ++ bytesOf 1 (if d.out then 1 else 0) ++ bytesOf 1 d.cls ++ bytesOf 1 d.format ++ bytesOf 1 d.decode ++ bytesOf 1 (d.rows - 1)
    ++ bytesOf 1 (d.cols - 1) ++ bytesOf 1 d.ndims ++ bytesOf 1 (if d.keep then 1 else 0) ++ bytesOf 6 0
    ++ ((List.range 4).flatMap fun i => if i < d.ndims then bytesOf 4 (d.counts.getD i 0) ++ bytesOf 4 (d.strides.getD i 0 % 2 ^ 32).toNat
      else bytesOf 8 0)
    ++ bytesOf 6 d.offset ++ bytesOf 2 0 ++ bytesOf 2 d.ratio ++ bytesOf 6 0

/-- The 128 bytes of a bound stream: descriptor, captured entry, CPOS, the failure with its code, VA and AUX. -/
def streamBytes (x : Option Stream) : List Byte :=
  match x with
  | none => List.replicate 128 (0 : Byte)
  | some st => padTo 128 (descBytes st.desc ++ bytesOf 32 st.entry.toNat ++ bytesOf 8 st.cpos ++ bytesOf 1 ((st.failed.map codeNum).getD 0)
    ++ bytesOf 7 st.failVa ++ bytesOf 8 st.failAux)

/-- The kinds of copy, by number. -/
def copyKinds : List CopyKind := [.copy, .copy2d, .fill, .gather, .scatter, .stwenc, .slzput, .promote]

/-- The 64 bytes of a parked copy (R366): its references, the third of them the index array's or the error's, lengths, what it is, the committed
count, the bitmap above it, the sequence number, the instruction. -/
def copyBytes (c : CopyOp) : List Byte :=
  let lead := ((List.range (c.next + 1)).find? fun i => i ∉ c.doneSet).getD c.next
  let word (r : Ref) : List Byte := bytesOf 6 r.off ++ bytesOf 2 r.obj
  word c.dst ++ word c.src ++ word (if c.kind = .stwenc then c.aux else c.idx) ++ bytesOf 6 c.width ++ bytesOf 2 c.rows
    ++ bytesOf 2 (c.cls % 16 + 16 * (c.hint % 16) + 256 * copyKinds.findIdx (· = c.kind) + (if c.parkHost then 2048 else 0))
    ++ bytesOf 4 c.dstride ++ bytesOf 4 c.sstride ++ bytesOf 8 c.value ++ bytesOf 5 lead
    ++ bytesOf 1 (bitmap 8 fun i => decide (lead + 1 + i ∈ c.doneSet)) ++ bytesOf 4 c.parkSeq ++ bytesOf 4 c.codepos

/-- The 64 bytes of an entry pushed and not started. -/
def entryBytes (e : Nat) (x : Entry) : List Byte :=
  padTo 64 (bytesOf 4 x.head ++ bytesOf 2 x.lines ++ bytesOf 1 e ++ bytesOf 1 (if x.priv then 1 else 0)
    ++ wordBytes [x.k0, x.k1, x.k2, x.k3] ++ bytesOf 2 x.preds.toNat ++ bytesOf 2 x.ovf.toNat
    ++ bytesOf 1 (if x.loop.isSome then 1 else 0) ++ bytesOf 3 0 ++ bytesOf 8 (x.loop.getD 0))

/-- The parts of a shuttle's block that are written at every save, by offset (R400, R401). -/
def fixedParts (s : State) (h : Shuttle) (v : SavedShuttle) (x : Tile) : List (Nat × List Byte) :=
  let c := ctxOf s h.tenant
  let parked := h.copies.filter (·.parked)
  let head := bytesOf 8 h.pc.toNat ++ bytesOf 1 (if h.priv then 1 else 0)
    ++ bytesOf 1 (bitmap 4 fun i => (h.b.toList.getD i {}).fromG) ++ bytesOf 6 0 ++ bytesOf 6 h.pInuse.toNat ++ bytesOf 1 h.vInuse.toNat
    ++ bytesOf 1 0 ++ bytesOf 2 (bitmap 16 fun i => v.groups.any fun g => g.1 = i)
    ++ bytesOf 2 (bitmap 16 fun i => (h.s.toList.getD i none).isSome) ++ bytesOf 4 0
    ++ bytesOf 8 (bitmap 64 fun i => parked.any fun c => c.tag = i)
    ++ bytesOf 2 h.str.queue.length ++ bytesOf 2 h.vec.queue.length ++ bytesOf 2 h.mtx.queue.length
    ++ bytesOf 1 (if v.panel.isSome then 1 else 0)
  let mid := bytesOf 8 h.fpflags.toNat ++ bytesOf 4 h.rows ++ bytesOf 4 h.cols ++ bytesOf 8 (h.p &&& 0xFFFE).toNat
    ++ padTo 16 ((h.tok.toList.drop 1).flatMap (bytesOf 1 ·)) ++ bytesOf 8 h.tagReady.toNat ++ bytesOf 8 c.ovf.toNat
    ++ wordBytes [h.trapPc, h.trapCode, h.trapVa, h.trapVec] ++ padTo 32 (v.cnt.flatMap (bytesOf 4 ·))
  [(0, padTo 64 head), (64, wordBytes h.g.toList), (320, wordBytes (h.b.toList.map (·.addr))), (352, padTo 128 mid),
   (480, wordBytes ((List.range 4).map fun r => qcwOf x (4 * h.place.slot + r))),
   (512, padTo 128 (wordBytes h.str.fifo) ++ padTo 128 (wordBytes h.vec.fifo) ++ padTo 128 (wordBytes h.mtx.fifo)
     ++ bytesOf 8 h.str.fifo.length ++ bytesOf 8 h.vec.fifo.length ++ bytesOf 8 h.mtx.fifo.length),
   (1024, h.tagBytes.toList.flatMap (bytesOf 8 ·)), (1536, h.s.toList.flatMap streamBytes)]
    ++ parked.map fun c => (3584 + 64 * c.tag, copyBytes c)

/-- A stationary panel as its part of the block holds it: F, N, the number of elements, then each element in 2 bytes, which a B16M4 or
B16M2 value fills as the upper half of its FP32 form, and a B16M7 value in the 4 bytes of that form (R183, R208). -/
def panelBytes (q : Panel) : List Byte :=
  bytesOf 2 q.fmt ++ bytesOf 2 q.n ++ bytesOf 4 q.elems.length
    ++ q.elems.flatMap fun x => if q.fmt = 5 then bytesOf 4 x else if q.fmt = 6 ∨ q.fmt = 7 then bytesOf 2 (x / 65536) else bytesOf 2 x

/-- The parts written where their condition holds: predicates, tiles, groups, the panel (R183, R262, R400). -/
def condParts (h : Shuttle) (dirty : List (Nat × Group)) (panel : Option Panel) : List (Nat × List Byte) :=
  ((List.range 48).filter fun i => h.pInuse.getLsbD i).map (fun i => (7680 + 64 * i, bytesOf 64 (h.vp.toList.getD i 0).toNat))
    ++ ((List.range 8).filter fun i => h.vInuse.getLsbD i && h.vDirty.getLsbD i).map
        (fun i => (10752 + 1024 * i, bytesOf 1024 (h.v.toList.getD i 0).toNat))
    ++ dirty.map (fun g => (18944 + 8192 * g.1, bytesOf 8192 g.2.bits.toNat))
    ++ match panel with
      | some q => [(150016, panelBytes q)]
      | none => []

/-- Bytes written into a tenant's save area by the device, with a release at SYSTEM scope (R303). -/
def putParts (s : State) (t base : Nat) (l : List (Nat × List Byte)) : State := l.foldl (fun st x => devicePut st 7 t (base + x.1) x.2 false) s

/-- The KEEP regions with their offsets among them, in region-index order (R290, R401). -/
def keepSpans (l : List Region) : List (Nat × Region) :=
  let k := (l.filter (·.keep)).mergeSort fun a b => a.idx ≤ b.idx
  (k.foldl (fun (acc : Nat × List (Nat × Region)) r => (acc.1 + r.size, acc.2 ++ [(acc.1, r)])) (0, [])).2

/-- One shuttle's state written into a third of its launch's save area, its tile's KEEP regions with the first shuttle of the tile's
(R400). The DIRTY bits of what was written are cleared. A paired gang's third 0 takes everything in use, for what a checkpoint wrote into
another third is not in this one (R407). -/
def writeShuttle (s : State) (l : Launch) (third : Nat) (p : Place) (ordinal : Nat) : State :=
  match saveBase s l third with
  | none => s
  | some base =>
    let h := settleVec (landAll (shuttleAt s p))
    let x := tileOf s p.tile
    let v := saveShuttle s p
    let c := Nat.max 1 (perTileOf l.levels)
    let whole := l.paired && decide (third = 0)
    let dirty := (ownedGroups x p.slot).filter fun g => g.2.dirty || whole
    let marked := if whole then { h with vDirty := BitVec.allOnes 8 } else h
    let s1 := putParts s l.tenant (base + blockOff ordinal) (fixedParts s h v x ++ condParts marked dirty v.panel)
    let keep := if ordinal % c = 0 then
        (keepSpans l.regions).map fun k => (keepOff l (ordinal / c) + k.1, memRead x.scratch k.2.base k.2.size) else []
    let image (e : Nat) (q : EngQ) : List Byte := q.queue.flatMap (entryBytes e)
    let d := slotDepths l.qcws (ordinal % c)
    let images := [(imageOff l ordinal, image 1 h.str), (imageOff l ordinal + 64 * d.getD 0 0, image 2 h.vec),
                   (imageOff l ordinal + 64 * (d.getD 0 0 + d.getD 1 0), image 3 h.mtx)]
    let s2 := putParts s1 l.tenant base (keep ++ images)
    modTileAt (modShuttle s2 p (fun m => { m with vDirty := 0 })) p.tile (fun y => { y with
      groups := y.groups.map fun g => if g.inuse && decide (g.owner = p.slot) then { g with dirty := false } else g })

/-- The header of a save (R401): one more save made, at this time. -/
def writeHeader (s : State) (l : Launch) (third state : Nat) : State :=
  match saveBase s l third with
  | none => s
  | some base =>
    let n := (homeNat s l.tenant (base + 8) 8).getD 0
    putParts s l.tenant base [(0, padTo 256 (bytesOf 4 state ++ bytesOf 2 (teamShuttles l.levels) ++ bytesOf 2 (teamTiles l.levels)
      ++ bytesOf 8 (n + 1) ++ bytesOf 8 (tstampOf s)))]

/-- STATE alone of the header of third 0, where no save is made (R401, R404). -/
def writeState (s : State) (l : Launch) (state : Nat) : State :=
  match saveBase s l 0 with
  | none => s
  | some base => putParts s l.tenant base [(0, bytesOf 4 state)]

/-! ### Restoring (R402)

What a block holds is what comes back, whoever wrote it (R408). Where a part stands as the save wrote it, the record kept beside it is taken, which
also holds what the part has no room for. -/

/-- A number read back from a save area, or the value kept beside it. -/
def savedNat (s : State) (t a n dflt : Nat) : Nat :=
  match homeBytes s t a n with
  | some bs => natOfBytes bs
  | none => dflt

/-- The number in `n` bytes of a block from an offset. -/
def partNat (bs : List Byte) (a n : Nat) : Nat := natOfBytes ((bs.drop a).take n)

/-- A word of a block from an offset. -/
def partWord (bs : List Byte) (a : Nat) : Word := BitVec.ofNat 64 (partNat bs a 8)

/-- The fault codes (R374). -/
def allCodes : List Code :=
  [.illegal, .priv, .divergent, .rights, .bounds, .xlate, .hostpage, .integrity, .poison, .sealwrap, .codedwrite, .overrate, .footprint, .coop,
   .trip, .barover, .mismatch, .watchdog]

/-- A stream register read back. -/
def streamOf (s : State) (bs : List Byte) (kept : Option Stream) : Stream :=
  let d := (parseDesc (bs.take 64)).1
  let e : BitVec 256 := BitVec.ofNat 256 (partNat bs 64 32)
  let fresh : Stream := { desc := d, entry := e, n := streamBlocks s d e, cpos := partNat bs 96 8, spos := partNat bs 96 8,
                          failed := allCodes.find? fun c => decide (codeNum c = partNat bs 104 1), failVa := partNat bs 105 7,
                          failAux := partNat bs 112 8 }
  match kept with
  | some x => if bs = streamBytes kept then x else fresh
  | none => fresh

/-- A reference read back; another object's entry is captured anew. -/
def refOf (s : State) (t : Nat) (bs : List Byte) (a : Nat) (kept : Ref) : Ref :=
  let obj := partNat bs (a + 6) 2
  { obj := obj, off := partNat bs a 6, entry := if obj = kept.obj then kept.entry else (entryFresh s t obj).getD 0 }

/-- A copy's cursor moved past `n` sectors, its indices as they stand. -/
def skipSectors (s : State) (t : Nat) : Nat → CopyOp → CopyOp
  | 0, c => c
  | n + 1, c =>
    let c1 : CopyOp := if (c.kind = .gather ∨ c.kind = .scatter) ∧ c.index.isNone then
        { c with index := some (savedNat s t (refVa c.idx + 4 * c.row) 4 0) } else c
    skipSectors s t n (pastSector c1 (sectorLen c1))

/-- A parked copy read back. -/
def copyOfPart (s : State) (t tag : Nat) (bs : List Byte) (kept : Option CopyOp) : CopyOp :=
  let k := kept.getD { kind := .copy, tag := tag }
  let ctl := partNat bs 32 2
  let kind := copyKinds.getD (ctl / 256 % 8) .copy
  let third := refOf s t bs 16 (if k.kind = .stwenc then k.aux else k.idx)
  let lead := partNat bs 50 5
  let more := (List.range 8).filter fun i => partNat bs 55 1 / 2 ^ i % 2 = 1
  let c : CopyOp := {
    kind := kind, tag := tag, dst := refOf s t bs 0 k.dst, src := refOf s t bs 8 k.src, idx := if kind = .stwenc then {} else third,
    aux := if kind = .stwenc then third else {}, width := partNat bs 24 6, rows := partNat bs 30 2, cls := ctl % 16, hint := ctl / 16 % 16,
    dstride := partNat bs 34 4, sstride := partNat bs 38 4, value := partNat bs 42 8, parked := true, parkHost := decide (ctl / 2048 % 2 = 1),
    parkSeq := partNat bs 56 4, codepos := partNat bs 60 4, doneSet := List.range lead ++ more.map (lead + 1 + ·), resumeMark := k.resumeMark }
  if kept.isSome ∧ bs = copyBytes k then k else skipSectors s t lead c

/-- An unstarted entry read back. -/
def entryBack (e : Nat) (bs : List Byte) (kept : Option Entry) : Entry :=
  let k := kept.getD {}
  if kept.isSome ∧ bs = entryBytes e k then k
  else { head := partNat bs 0 4, lines := partNat bs 4 2, priv := decide (partNat bs 7 1 % 2 = 1), k0 := partWord bs 8, k1 := partWord bs 16,
         k2 := partWord bs 24, k3 := partWord bs 32, preds := BitVec.ofNat 16 (partNat bs 40 2), ovf := BitVec.ofNat 10 (partNat bs 42 2),
         loop := if partNat bs 44 1 % 2 = 1 then some (partNat bs 48 8) else none, before := k.before }

/-- The part of a shuttle's block that every save writes, with the block's VA; none where it does not translate. -/
def savedBlock (s : State) (l : Launch) (third : Nat) (v : SavedShuttle) : Option (Nat × List Byte) :=
  match saveBase s l third with
  | none => none
  | some base =>
    let b := base + blockOff v.shuttle.ordinal
    (homeBytes s l.tenant b 7680).map fun bs => (b, bs)

/-- An engine's output FIFO and its entries pushed and not started, read back: `e` the engine's number among the three, `off` the offset of its image
from the area's base. -/
def engBack (s : State) (l : Launch) (third e off : Nat) (bs : List Byte) (q : EngQ) : EngQ :=
  let n := partNat bs (40 + 2 * e) 2
  let read (i : Nat) : Entry := match (saveBase s l third).bind fun base => homeBytes s l.tenant (base + off + 64 * i) 64 with
    | some x => entryBack (e + 1) x q.queue[i]?
    | none => (q.queue[i]?).getD {}
  { q with
    fifo := (List.range (Nat.min 16 (partNat bs (896 + 8 * e) 8))).map fun i => partWord bs (512 + 128 * e + 8 * i)
    queue := (List.range n).map read
    pushed := q.done + n }

/-- A shuttle restored at a place from a third of its save area; a register whose INUSE bit is 0 reads zero (R183, R262, R402). -/
def readShuttle (s : State) (l : Launch) (third : Nat) (v : SavedShuttle) (p : Place) : Shuttle :=
  let h := v.shuttle
  match savedBlock s l third v with
  | none => { h with
      place := p
      vp := Vector.ofFn fun (i : Fin 48) => if h.pInuse.getLsbD i.val then h.vp[i] else 0
      v := Vector.ofFn fun (i : Fin 8) => if h.vInuse.getLsbD i.val then h.v[i] else 0 }
  | some (b, bs) =>
    let t := l.tenant
    let pIn : BitVec 48 := BitVec.ofNat 48 (partNat bs 16 6)
    let vIn : BitVec 8 := BitVec.ofNat 8 (partNat bs 22 1)
    let d := slotDepths l.qcws (h.ordinal % Nat.max 1 (perTileOf l.levels))
    let image := imageOff l h.ordinal
    let kept (tag : Nat) : Option CopyOp := h.copies.find? fun c => c.tag = tag
    { h with
      place := p
      pc := partWord bs 0
      priv := decide (partNat bs 8 1 % 2 = 1)
      pInuse := pIn
      vInuse := vIn
      g := (Vector.ofFn fun (i : Fin 32) => partWord bs (64 + 8 * i.val)).set 0 0
      b := Vector.ofFn fun (i : Fin 4) => { addr := partWord bs (320 + 8 * i.val), fromG := decide (partNat bs 9 1 / 2 ^ i.val % 2 = 1) }
      fpflags := partWord bs 352
      rows := partNat bs 360 4
      cols := partNat bs 364 4
      p := BitVec.ofNat 16 (partNat bs 368 8) &&& 0xFFFE
      tok := Vector.ofFn fun (i : Fin 13) => if i.val = 0 then 0 else Nat.min 15 (partNat bs (375 + i.val) 1)
      tagReady := partWord bs 392
      trapPc := partWord bs 408
      trapCode := partWord bs 416
      trapVa := partWord bs 424
      trapVec := partWord bs 432
      str := engBack s l third 0 image bs h.str
      vec := engBack s l third 1 (image + 64 * d.getD 0 0) bs h.vec
      mtx := engBack s l third 2 (image + 64 * (d.getD 0 0 + d.getD 1 0)) bs h.mtx
      tagBytes := Vector.ofFn fun (i : Fin 64) => partNat bs (1024 + 8 * i.val) 8
      s := Vector.ofFn fun (i : Fin 16) =>
        if partNat bs 26 2 / 2 ^ i.val % 2 = 1 then some (streamOf s ((bs.drop (1536 + 128 * i.val)).take 128) h.s[i]) else none
      copies := (((List.range 64).filter fun i => partNat bs 32 8 / 2 ^ i % 2 = 1).map fun i =>
        copyOfPart s t i ((bs.drop (3584 + 64 * i)).take 64) (kept i)) ++ h.copies.filter (!·.parked)
      vp := Vector.ofFn fun (i : Fin 48) =>
        if pIn.getLsbD i.val then BitVec.ofNat 512 (savedNat s t (b + 7680 + 64 * i.val) 64 h.vp[i].toNat) else 0
      v := Vector.ofFn fun (i : Fin 8) =>
        if vIn.getLsbD i.val then BitVec.ofNat 8192 (savedNat s t (b + 10752 + 1024 * i.val) 1024 h.v[i].toNat) else 0 }

/-- The column groups that a saved shuttle's block gives it, by number (R402). -/
def blockGroups (s : State) (l : Launch) (third : Nat) (v : SavedShuttle) : List Nat :=
  match savedBlock s l third v with
  | some (_, bs) => (List.range 16).filter fun i => partNat bs 24 2 / 2 ^ i % 2 = 1
  | none => v.groups.map (·.1)

/-- A stationary panel read back from its part of a block at a VA. -/
def panelBack (s : State) (t a : Nat) (kept : Option Panel) : Panel :=
  let fmt := savedNat s t a 2 ((kept.map (·.fmt)).getD 0)
  let w := if fmt = 5 then 4 else 2
  let k := Nat.min 35584 (savedNat s t (a + 4) 4 ((kept.map (·.elems.length)).getD 0))
  { fmt := fmt
    n := savedNat s t (a + 2) 2 ((kept.map (·.n)).getD 0)
    elems := (List.range k).map fun i =>
      let x := savedNat s t (a + 8 + w * i) w 0
      if fmt = 6 ∨ fmt = 7 then x * 65536 else x }

/-- A queue control word of a resumed slot: the one that its declaration or the default layout gives the slot that hosts it (R36), unless the word
that was saved is neither (R400; DEDUCED, log entry 127). -/
def qcwBack (l : Launch) (v : SavedShuttle) (p : Place) (role : Nat) (saved : Word) : Word :=
  let slot := v.shuttle.ordinal % Nat.max 1 (perTileOf l.levels)
  let form (phys : Nat) : Word := formQcw l.qcws (l1Bytes l.l1) slot phys role
  if saved = form v.shuttle.place.slot then form p.slot else saved

/-- A shuttle's groups, CNT, panel and queue control words restored on its tile, OWNER its new slot, and its context's overflow table (R183, R400,
R402). -/
def restoreTile (s : State) (l : Launch) (third : Nat) (v : SavedShuttle) (p : Place) : State :=
  let keptBits (i : Nat) : GroupBits := ((v.groups.find? fun g => g.1 = i).map fun g => g.2.bits).getD 0
  let put (groups : List (Nat × GroupBits)) (cnt : List Nat) (panel : Option Panel) (qcws : List Word) (st : State) : State :=
    modTileAt st p.tile (fun x0 =>
      let x := releaseSlot x0 p.slot
      { x with
        groups := groups.foldl (fun a g => a.setIfInBounds g.1 { inuse := true, owner := p.slot, dirty := false, bits := g.2 }) x.groups
        cnt := if cnt = [] then x.cnt else Vector.ofFn fun (i : Fin 8) => cnt.getD i.val 0
        panels := x.panels.setIfInBounds p.slot panel
        qcw := ((List.range qcws.length).zip qcws).foldl (fun q w => q.setIfInBounds (4 * p.slot + w.1) (qcwBack l v p w.1 w.2)) x.qcw })
  match savedBlock s l third v with
  | none => put (v.groups.map fun g => (g.1, g.2.bits)) v.cnt v.panel [] s
  | some (b, bs) =>
    let gs := blockGroups s l third v
    put (gs.map fun i => (i, BitVec.ofNat 65536 (savedNat s l.tenant (b + 18944 + 8192 * i) 8192 (keptBits i).toNat)))
      (if 0 ∈ gs then (List.range 8).map fun i => partNat bs (440 + 4 * i) 4 else [])
      (if partNat bs 46 1 % 2 = 1 then some (panelBack s l.tenant (b + 150016) v.panel) else none)
      ((List.range 4).map fun r => partWord bs (480 + 8 * r))
      (modCtx s l.tenant (fun c => { c with ovf := BitVec.ofNat 10 (partNat bs 400 8) }))

/-- The KEEP regions of a virtual tile read back into a tile's scratchpad (R290). -/
def restoreKeep (s : State) (l : Launch) (third vtile tile : Nat) : State :=
  match saveBase s l third with
  | none => s
  | some base =>
    (keepSpans l.regions).foldl (fun st k =>
      match homeBytes st l.tenant (base + keepOff l vtile + k.1) k.2.size with
      | some bs => modTileAt st tile (fun x => scratchWrite x k.2.base bs false)
      | none => st) s

/-- A checkpoint of a paired shuttle in its side's third (R406, R407). -/
def checkpoint (s : State) (l : Launch) (team third : Nat) (p : Place) (ordinal : Nat) : State :=
  let v := saveShuttle s p
  modLoom (writeShuttle s l third p ordinal) (fun m => { m with gangs := m.gangs.map fun g =>
    if g.team = team then { g with checks := ((third, ordinal), v) :: g.checks.filter fun c => c.1 ≠ (third, ordinal) } else g })

/-- The checkpoints of every shuttle of a paired gang, at its start (R407). -/
def checkpointAll (s : State) (l : Launch) (g : Gang) : State :=
  let side (third : Nat) (ps : List Place) (st : State) : State :=
    writeHeader (((List.range ps.length).zip ps).foldl (fun u x => checkpoint u l g.team third x.2 x.1) st) l third 1
  if g.places1 = [] then s else side 2 g.places1 (side 1 g.places s)

/-- The checkpoint of a shuttle by third and ordinal. -/
def checkOf (g : Gang) (third ordinal : Nat) : Option SavedShuttle := (g.checks.find? fun c => c.1 = (third, ordinal)).map (·.2)

end Sys2Proof.Machine
end

