-- ==== Sys2Proof/Machine/Launch.lean ====
section
/-! DEFINITION. Launch queues and doorbells, launch and task records, admission, eligibility, aging, and the starting of teams (R131,
R314, R322, R324, R386 to R397). -/
namespace Sys2Proof.Machine

/-! ### Queues (R386) -/

/-- The tenant of a function: tenant n is function n + 1; the management function is function 0 (R386, R394). -/
def fnTenant (fn : Nat) : Nat := fn - 1
/-- Is a virtual function's TDISP interface out of the RUN state, so that its accesses are dropped and its doorbells ignored (R412), or is no
endpoint presented (R414)? -/
def fnStopped (s : State) (fn : Nat) : Bool := !s.module.presented || (decide (fn ≠ 0) && !(ctxOf s (fnTenant fn)).tdispRun)
/-- A number of a function's memory: the management function's addresses are physical (R386). -/
def fnNat (s : State) (fn a n : Nat) : Option Nat := if fn = 0 then some (memNat s.mem.home a n) else homeNat s (fnTenant fn) a n
/-- A number written in a function's memory. -/
def fnPut (s : State) (fn a n v : Nat) : State :=
  match (if fn = 0 then some a else homeOf s (fnTenant fn) a) with
  | some pa => putHome s (fnTenant fn) (decide (fn = 0)) pa (bytesOf n v) false
  | none => s
/-- Bytes of a function's memory. -/
def fnBytes (s : State) (fn a n : Nat) : Option (List Byte) :=
  if fn = 0 then some (memRead s.mem.home a n) else homeBytes s (fnTenant fn) a n

/-- A queue of a function. -/
def queueOf (s : State) (fn q : Nat) : Option LQueue := s.loom.queues.find? fun x => x.fn = fn && x.q = q
/-- A queue changed. -/
def modQueue (s : State) (fn q : Nat) (f : LQueue → LQueue) : State :=
  modLoom s (fun l => { l with queues := l.queues.map fun x => if x.fn = fn ∧ x.q = q then f x else x })
/-- Is a queue a task sub-queue? -/
def isTaskQueue (x : LQueue) : Bool := decide (64 ≤ x.q)
/-- The band whose records a queue holds (R386). -/
def queueBand (x : LQueue) : Nat := if isTaskQueue x then x.q - 64 else x.q / 16
/-- The band in which a queue's head is served: aged heads stand one or more bands up (R395). -/
def servedBand (x : LQueue) : Nat := queueBand x - x.aged

/-- Header fields of a launch queue: DEPTH, HEAD, TAIL. -/
def queueHeader (s : State) (x : LQueue) : Option (Nat × Nat × Nat) :=
  match fnNat s x.fn x.base 4, fnNat s x.fn (x.base + 4) 4, fnNat s x.fn (x.base + 8) 4 with
  | some d, some h, some t => some (d, h, t)
  | _, _, _ => none

/-- AUX of a record about a queue (R373). -/
def queueAux (q v : Nat) : Nat := q % 64 * 2 ^ 32 + v % 2 ^ 32
/-- A BOUNDS record of the scheduler for a function (R387, R391). -/
def loomRecord (s : State) (fn obj aux : Nat) : State :=
  (postRec s (decide (fn = 0)) (fnTenant fn) { code := .bounds, eng := 7, tenant := fnTenant fn, obj := obj, aux := aux }).1

/-! ### Counters (R390, R393) -/

/-- A usable entry of a TYPE, with FORMAT none, of at least n bytes (R144). -/
def plainObj (s : State) (t idx type n : Nat) : Option (BitVec 256) :=
  if idx = 0xFFFF then none
  else match entryFresh s t idx with
    | some e => if Obj.usable e ∧ Obj.type e = type ∧ Obj.format e = 0xFF ∧ n ≤ Obj.size e then some e else none
    | none => none
/-- A usable counter with read and write rights (R390, R391). -/
def counterObj (s : State) (t idx : Nat) : Option (BitVec 256) :=
  match plainObj s t idx 3 8 with
  | some e => if Obj.right e 0 ∧ Obj.right e 1 ∧ Obj.base e % 8 = 0 then some e else none
  | none => none

/-- Are dependences satisfied: every counter, read at its home, is at least its threshold (R393)? -/
def depsMet (s : State) (t : Nat) (deps : List (Nat × Nat)) : Bool :=
  deps.all fun d => match counterObj s t d.1 with
    | some e => (match homeNat s t (Obj.base e) 8 with
      | some v => decide (d.2 ≤ v)
      | none => false)
    | none => false

/-! ### Records (R388, R389, R392) -/

/-- The fields of a launch or task record. -/
structure LRec where
  kobj : Nat
  tenant : Nat
  band : Nat
  flags : Nat := 0
  levels : List Level
  deps : List (Nat × Nat)
  l1 : Nat
  deadline : Nat
  argVa : Nat
  save : Nat
  compl : Nat
  incr : Nat
  resv : List Nat := []
  /-- Every range and every must-be-0 byte is kept. -/
  wf : Bool
deriving DecidableEq, Repr

/-- A level descriptor (R389). -/
def parseLevel (bs : List Byte) : Level :=
  { domain := natOfBytes (bs.take 1), scope := natOfBytes ((bs.drop 1).take 1), extent := natOfBytes ((bs.drop 2).take 2) }

/-- A launch record (R388). -/
def parseLaunch (bs : List Byte) : LRec :=
  let f (a n : Nat) : Nat := natOfBytes ((bs.drop a).take n)
  let nlev := f 5 1
  let ndep := f 6 1
  let levs := (List.range 8).map fun n => (bs.drop (48 + 4 * n)).take 4
  let dep (d : Nat) : Nat := 80 + 16 * d
  let resv := (List.range 5).map fun j => f (144 + 8 * j) 8
  { kobj := f 0 2, tenant := f 2 1, band := f 3 1, flags := f 4 1, levels := (levs.take nlev).map parseLevel,
    deps := (List.range (Nat.min 4 ndep)).map fun d => (f (dep d) 2, f (dep d + 8) 8), l1 := f 7 1, deadline := f 8 8, argVa := f 16 8,
    save := f 32 2, compl := f 34 2, incr := f 40 8, resv := resv,
    wf := decide (f 4 1 < 8) && decide (1 ≤ nlev ∧ nlev ≤ 8) && decide (ndep ≤ 4) && decide (f 7 1 ≤ 3) && decide (f 3 1 ≤ 3) && decide (f 24 8 = 0)
      && decide (f 36 4 = 0) && decide (f 184 72 = 0) && ((levs.drop nlev).all fun l => decide (natOfBytes l = 0))
      && ((List.range 4).all fun d => decide (f (dep d + 2) 6 = 0) && (decide (d < ndep) || decide (f (dep d) 16 = 0)))
      && (decide (f 4 1 / 4 % 2 = 1) || resv.all fun v => decide (v = 0)) }

/-- A task record, with what it takes from the spawning launch (R392). -/
def parseTask (tenant : Nat) (t : Task) : LRec :=
  let f (a n : Nat) : Nat := natOfBytes ((t.bytes.drop a).take n)
  let nlev := f 5 1
  let ndep := f 6 1
  let levs := (List.range 4).map fun n => (t.bytes.drop (16 + 4 * n)).take 4
  { kobj := f 0 2, tenant := tenant, band := t.band, levels := (levs.take nlev).map parseLevel,
    deps := if ndep = 1 then [(f 36 2, f 48 8)] else [], l1 := t.l1, deadline := t.deadline, argVa := f 8 8, save := f 32 2, compl := f 34 2,
    incr := f 40 8,
    wf := decide (f 4 1 = 0) && decide (f 2 1 = 0) && decide (1 ≤ nlev ∧ nlev ≤ 4) && decide (ndep ≤ 1) && decide (f 7 1 = 0)
      && decide (f 38 2 = 0) && decide (f 56 8 = 0) && (decide (ndep = 1) || decide (f 36 2 = 0xFFFF))
      && (levs.drop nlev).all fun l => decide (natOfBytes l = 0) }

/-- FLAGS: CLIMB, PAIRED, RESERVE. -/
def LRec.flag (r : LRec) (i : Nat) : Bool := decide (r.flags / 2 ^ i % 2 = 1)

/-! ### The kernel object (R87) -/

/-- Do the header's fields keep R87's rules for an object of a size? -/
def kernHeaderOk (k : Kern) (hd : List Byte) (size : Nat) : Bool :=
  let f (a n : Nat) : Nat := natOfBytes ((hd.drop a).take n)
  let table (off bytes : Nat) : Bool := decide (off % 16 = 0 ∧ off + bytes ≤ size)
  decide (64 ≤ size) && decide (k.codeBase % 64 = 0) && decide (1 ≤ k.lines ∧ k.lines ≤ 2 ^ 22) && decide (k.seqHead < k.lines)
    && decide (k.nStream ≤ 64) && decide (f 32 1 ≤ 3) && decide (f 33 1 < 8) && decide (f 40 1 ≤ 3) && decide (f 41 1 ≤ 16)
    && decide (f 42 2 ≤ 16) && decide (f 56 2 ≤ 128) && decide (f 58 6 = 0)
    && table k.strOff (64 * k.nStream) && table k.safeOff (16 * k.nSafe) && table (f 28 4) (16 * (f 32 1 + f 34 2)) && table (f 36 4) (16 * f 40 1)
    && table (f 44 4) (8 * f 42 2) && table (f 48 4) (16 * f 41 1) && table (f 52 4) (64 * f 56 2) && decide (f 52 4 % 64 = 0)

/-- Region records of a kernel (R81). -/
def kernRegions (s : State) (t base : Nat) (hd : List Byte) : List Region :=
  let f (a n : Nat) : Nat := natOfBytes ((hd.drop a).take n)
  (List.range (f 41 1)).filterMap fun i => (homeBytes s t (base + f 48 4 + 16 * i) 16).map fun bs =>
    { idx := natOfBytes (bs.take 1), keep := decide (natOfBytes ((bs.drop 1).take 1) = 0), base := natOfBytes ((bs.drop 4).take 4),
      size := natOfBytes ((bs.drop 8).take 4) }
/-- QCW records of a kernel, as words by team slot and role (R81). -/
def kernQcws (s : State) (t base : Nat) (hd : List Byte) : List (Nat × Nat × Word) :=
  let f (a n : Nat) : Nat := natOfBytes ((hd.drop a).take n)
  (List.range (f 42 2)).filterMap fun i => (homeBytes s t (base + f 44 4 + 8 * i) 8).map fun bs =>
    let g (a n : Nat) : Nat := natOfBytes ((bs.drop a).take n)
    (g 0 1, g 1 1, BitVec.ofNat 64 (g 4 2 % 16384 + g 6 2 % 4096 * 65536 + g 2 1 % 8 * 268435456))

/-- The tier maps that a kernel names: those of the tensors its stream descriptors name (R314). -/
def kernMaps (s : State) (t : Nat) (k : Kern) : List Nat :=
  ((List.range k.nStream).filterMap fun n =>
    match homeNat s t (k.base + k.strOff + 64 * n) 2 with
    | some obj =>
      if obj = 0xFFFF then none
      else match entryFresh s t obj with
        | some e => if Obj.log2pick e ≠ 0xFF then some (Obj.tiermap e) else none
        | none => none
    | none => none).eraseDups

/-- Is a tier map well formed: its header, and every entry (R313, R314)? -/
def tierMapOk (s : State) (t idx : Nat) : Bool :=
  match tmapOf s t idx, entryFresh s t idx with
  | some m, some e =>
    let hd := (homeBytes s t m.base 64).getD []
    decide (1 ≤ m.picks) && decide (natOfBytes ((hd.drop 4).take 1) = m.log2pick) && decide (natOfBytes ((hd.drop 5).take 1) ≤ 1)
      && decide (natOfBytes (hd.drop 10) = 0) && decide (64 + 8 * m.picks ≤ Obj.size e)
      && (List.range m.picks).all fun p => match tierEnt s m p with
        | some x => Tier.wf x
        | none => false
  | _, _ => false

/-- The entries of a climb schedule, but for those that R322 skips. -/
def readSchedule (s : State) (t : Nat) (m : TMap) : List SchedEnt :=
  match (if m.sched = 0xFFFF then none else plainObj s t m.sched 0 16) with
  | none => []
  | some e =>
    let n := (homeNat s t (Obj.base e) 4).getD 0
    (List.range n).filterMap fun i =>
      match homeBytes s t (Obj.base e + 16 + 16 * i) 16 with
      | none => none
      | some bs =>
        let f (a k : Nat) : Nat := natOfBytes ((bs.drop a).take k)
        if m.picks ≤ f 0 4 ∨ (f 4 1 ≠ 1 ∧ f 4 1 ≠ 2) ∨ 2 ≤ f 5 1 ∨ f 6 2 ≠ 0 then none
        else some { pick := f 0 4, target := f 4 1, flag := decide (f 5 1 = 1), lead := f 8 8, tmap := m.idx }

/-! ### The checks of R391 -/

/-- Some choice of free slots of an empty tile meets R35 for a launch. -/
def someSlots (l : Launch) : Bool :=
  let subsets := (List.range 16).map fun k => (List.range 4).filter fun j => decide (k / 2 ^ j % 2 = 1)
  subsets.any fun slots => decide (slots.length = perTileOf l.levels) && qcwsOk (l1Bytes l.l1) (formQcws l.qcws (l1Bytes l.l1) slots)

/-- The launch that a record makes; none where R391 rejects it, or where the kernel object lacks the read right (R87; DESIGN CHOICE, log entry 115).
The start tick and the number are the admission's. -/
def makeLaunch (s : State) (fn q index : Nat) (task : Bool) (r : LRec) : Option Launch :=
  let t := r.tenant
  if !r.wf ∨ !levelsOk r.levels ∨ (fn ≠ 0 ∧ t ≠ fnTenant fn) ∨ (r.flag 0 && r.flag 1) then none
  else
    match plainObj s t r.kobj 6 64, plainObj s t r.save 7 0, counterObj s t r.compl with
    | some ke, some se, some _ =>
      match kernHeader s t r.kobj ke with
      | none => none
      | some (k, hd) =>
        let kflags := natOfBytes ((hd.drop 33).take 1)
        let maps := kernMaps s t k
        let l : Launch := {
          id := s.loom.nextLaunch, fn := fn, q := q, index := index, task := task, tenant := t, band := r.band, climb := r.flag 0,
          paired := r.flag 1, reserve := r.flag 2, priv := decide (fn = 0), levels := r.levels, l1 := r.l1, deadline := r.deadline,
          argVa := r.argVa, save := r.save, compl := r.compl, incr := r.incr, resv := if r.flag 2 then r.resv else [],
          full := if r.flag 2 then r.resv else [], kern := k, regions := kernRegions s t k.base hd, qcws := kernQcws s t k.base hd,
          teams := teamCount r.levels, maps := maps, startTick := tstampOf s }
        if kernHeaderOk k hd (Obj.size ke) && Obj.right ke 0 && (r.deps.all fun d => (counterObj s t d.1).isSome)
            && (!r.flag 0 || Obj.right ke 3) && (!(r.flag 0 || r.flag 1) || decide (kflags / 2 % 2 = 0))
            && (!r.flag 1 || decide (kflags / 4 % 2 = 0 ∧ teamDomain r.levels ≠ 6)) && someSlots l
            && decide ((if r.flag 1 then 3 else 1) * saveBytes l ≤ Obj.size se) && maps.all (tierMapOk s t) then
          some { l with sched := if r.flag 0 then (maps.filterMap (tmapOf s t)).flatMap (readSchedule s t) else [] }
        else none
    | _, _, _ => none

/-- The reservations of a launch charged, all or none (R324). -/
def chargeReservation (s : State) (l : Launch) : Option State :=
  ((List.range l.resv.length).zip l.resv).foldl (fun acc x => acc.bind fun st => charge st l.tenant x.1 x.2) (some s)

/-- A launch admitted: it joins the launches. -/
def joinLaunches (s : State) (l : Launch) : State :=
  modLoom s (fun m => { m with launches := m.launches ++ [l], nextLaunch := m.nextLaunch + 1, firstAdmitted := true })

/-! ### Happenings of the queues (R387, R391, R393, R395) -/

/-- Does a queue's head launch still have teams to start, so that it stands at the queue's head (R393)? -/
def headLaunch (s : State) (fn q : Nat) : Option Launch :=
  s.loom.launches.find? fun l => l.fn = fn && l.q = q && decide (l.nextTeam < l.teams) && !l.stopped

/-- The record at the head of a queue, parsed, with its index; none where there is none. -/
def headRecord (s : State) (x : LQueue) : Option (LRec × Nat) :=
  if isTaskQueue x then
    ((ctxOf s (fnTenant x.fn)).tasks.find? fun t => t.band = x.q - 64).map fun t => (parseTask (fnTenant x.fn) t, 0)
  else match queueHeader s x with
    | some (d, h, t) =>
      if h = t ∨ d = 0 then none
      else (fnBytes s x.fn (x.base + 64 + 256 * (h % d)) 256).map fun bs => (parseLaunch bs, h)
    | none => none

/-- A queue whose next head starts afresh (R393, R395). -/
def freshHead (y : LQueue) : LQueue := { y with eligible := false, since := 0, aged := 0 }

/-- The head of a queue consumed: HEAD advances, or the task leaves its sub-queue; the next head starts afresh (R387, R392). -/
def consumeHead (s : State) (x : LQueue) : State :=
  let s1 := modQueue s x.fn x.q freshHead
  if isTaskQueue x then
    modCtx s1 (fnTenant x.fn) (fun c => { c with tasks := match c.tasks.findIdx? (fun t => t.band = x.q - 64) with
      | some i => c.tasks.eraseIdx i
      | none => c.tasks })
  else match queueHeader s x with
    | some (_, h, _) => fnPut s1 x.fn (x.base + 4) 4 ((h + 1) % 2 ^ 32)
    | none => s1

/-- The scheduler re-reads the dependences of a waiting head (R393): eligibility, once decided, stands. -/
def recheckHead (s : State) (x : LQueue) : State :=
  if x.eligible ∨ (headLaunch s x.fn x.q).isSome then s
  else match headRecord s x with
    | some (r, _) =>
      if depsMet s r.tenant r.deps then modQueue s x.fn x.q (fun y => { y with eligible := true, since := tstampOf s, aged := 0 }) else s
    | none => s

/-- A queue's head admitted or rejected (R391, R392): an eligible head whose reservation is refused stays (R324). -/
def admitHead (s : State) (x0 : LQueue) : State :=
  if (headLaunch s x0.fn x0.q).isSome then s
  else match headRecord s x0 with
    | none => s
    | some (r, index) =>
      let bandOk := isTaskQueue x0 || decide (r.band = queueBand x0)
      match (if bandOk then makeLaunch s x0.fn x0.q index (isTaskQueue x0) r else none) with
      | none => loomRecord (consumeHead s x0) x0.fn r.kobj (if isTaskQueue x0 then 0 else queueAux x0.q index)
      | some l =>
        let s1 := recheckHead s x0
        match queueOf s1 x0.fn x0.q with
        | none => s1
        | some x =>
          if !x.eligible then s1
          else match chargeReservation s1 l with
            | none => s1
            | some s2 => modQueue (joinLaunches (consumeHead s2 x) l) x.fn x.q (fun y => { y with eligible := true, since := x.since, aged := x.aged })

/-- DOORBELL_WRITE (R387): accepted where t ≤ n ≤ DEPTH, else a record; an accepted one also re-reads the head's dependences (R393). -/
def execDoorbellWrite (fn q : Nat) (v : Word) (s : State) : Host.Outcome State Fault Refusal :=
  if fnStopped s fn ∨ 64 ≤ q then .next s
  else match queueOf s fn q with
  | none => .next s
  | some x =>
    match queueHeader s x with
    | none => .next s
    | some (d, h, t) =>
      let new := v.toNat % 2 ^ 32
      let n := (new + 2 ^ 32 - h) % 2 ^ 32
      let old := (t + 2 ^ 32 - h) % 2 ^ 32
      if old ≤ n ∧ n ≤ d then .next (recheckHead (fnPut s fn (x.base + 8) 4 new) x)
      else .next (loomRecord s fn 0xFFFF (queueAux q new))

/-- LAUNCH_ADMIT (R391). -/
def execLaunchAdmit (fn q : Nat) (s : State) : Host.Outcome State Fault Refusal :=
  match queueOf s fn q with
  | some x => if isTaskQueue x then .next s else .next (admitHead s x)
  | none => .next s

/-- TASK_ADMIT (R392). -/
def execTaskAdmit (tenant band : Nat) (s : State) : Host.Outcome State Fault Refusal :=
  match queueOf s (tenant + 1) (64 + band) with
  | some x => if isTaskQueue x then .next (admitHead s x) else .next s
  | none => .next s

/-- DEPENDENCE_RECHECK (R393). -/
def execDependenceRecheck (fn q : Nat) (s : State) : Host.Outcome State Fault Refusal :=
  match queueOf s fn q with
  | some x => .next (recheckHead s x)
  | none => .next s

/-- The aging threshold of a band; RT and HIGH heads do not age (R395). -/
def ageLimit (s : State) (band : Nat) : Option Nat :=
  if band = 2 then some s.loom.ageNormal else if band = 3 then some s.loom.ageBulk else none

/-- HEAD_AGING (R395): a head eligible for its band's threshold is served one band up, and ages again after a further one. -/
def execHeadAging (fn q : Nat) (s : State) : Host.Outcome State Fault Refusal :=
  match queueOf s fn q with
  | none => .next s
  | some x =>
    match ageLimit s (servedBand x) with
    | none => .next s
    | some n =>
      if x.eligible ∧ x.since + n ≤ tstampOf s then .next (modQueue s fn q (fun y => { y with aged := y.aged + 1, since := tstampOf s }))
      else .next s

/-- `spawn` (R131, R392): the record is read, a release at PACKAGE scope over every class is made, and the task joins the sub-queue of the
launch's band, unless the tenant's queue is full. -/
def execSpawn (c : Ctl) (a b : BitVec 5) (s : State) : Host.Outcome State Fault Refusal :=
  if s.me.paired then seqIllegal s
  else seqInstr c (fun t =>
    let ea := (getG t.me b).toNat
    if ea % 64 ≠ 0 then .fault t { code := .bounds, va := ea }
    else match sysRead t ea 64 with
      | (u, none) => .wait u .retry
      | (u, some (.error x)) => .fault u x
      | (u, some (.ok bs)) =>
        if releasePending u 65535 then .wait u .retry
        else
          let k := ctxOf u u.me.tenant
          let room := decide (k.tasks.length < k.taskDepth)
          let l := launchOf u u.me.launch
          let task : Task := { bytes := bs, band := u.me.band, l1 := (l.map (·.l1)).getD 0, deadline := (l.map (·.deadline)).getD 0 }
          let fn := u.me.tenant + 1
          let u1 := if room then modCtx u u.me.tenant (fun c => { c with tasks := c.tasks ++ [task] }) else u
          let u2 := if room ∧ (queueOf u1 fn (64 + task.band)).isNone then
              modLoom u1 (fun m => { m with queues := m.queues ++ [{ fn := fn, q := 64 + task.band }] })
            else u1
          .done (setVariable u2 (.g a) (if room then 1 else 0)) 1) s

/-! ### Starting teams (R394, R396) -/

/-- Is a pre-empted gang of a band waiting? -/
def gangWaits (s : State) (band : Nat) : Bool := s.loom.gangs.any fun g => g.state = .saved && decide (g.band = band)
/-- The admitted launches of queue heads that have teams to start, served in a band. -/
def bandHeads (s : State) (band : Nat) : List (LQueue × Launch) :=
  s.loom.queues.filterMap fun x => if servedBand x = band then (headLaunch s x.fn x.q).map fun l => (x, l) else none
/-- The highest band in which a gang or a head waits. -/
def servedNow (s : State) : Option Nat := (List.range 4).find? fun b => gangWaits s b || !(bandHeads s b).isEmpty

/-- The round of a band's queues: function by function, in queue order, each tenant's task sub-queue after its function's queues (R394). -/
def bandRound (s : State) (band : Nat) : List LQueue :=
  (s.loom.queues.filter fun x => servedBand x = band).mergeSort fun a b => a.fn < b.fn || (decide (a.fn = b.fn) && decide (a.q ≤ b.q))
/-- A round that begins after the queue last visited. -/
def roundFrom (l : List LQueue) (last : Option (Nat × Nat)) : List LQueue :=
  match last with
  | none => l
  | some (f, q) =>
    let before (x : LQueue) : Bool := decide (x.fn < f) || (decide (x.fn = f) && decide (x.q ≤ q))
    (l.filter fun x => !before x) ++ l.filter before

/-- The next team of a launch placed and started as a gang (R7, R33, R396); none where it cannot be placed. -/
def startTeam (s : State) (l : Launch) (band : Nat) : Option State :=
  match placeSides s (fitOf l []) (fun _ => []) (teamDomain l.levels) (teamTiles l.levels) l.paired with
  | none => none
  | some (a, b) =>
    let team := s.loom.nextTeam
    let g : Gang := { team := team, launch := l.id, tenant := l.tenant, index := l.nextTeam, band := band, domain := teamDomain l.levels,
                      nTiles := teamTiles l.levels, perTile := perTileOf l.levels, places := placesOf a, places1 := placesOf b,
                      startTick := tstampOf s }
    let s1 := modLoom s (fun m => { m with
      gangs := m.gangs ++ [g], nextTeam := team + 1, holds := m.holds.filter fun h => h.2 ≠ l.id,
      launches := m.launches.map fun x => if x.id = l.id then { x with nextTeam := x.nextTeam + 1 } else x })
    let s2 := if l.nextTeam + 1 < l.teams then s1 else modQueue s1 l.fn l.q freshHead
    some (checkpointAll (startSide (startSide s2 l team l.nextTeam a) l team l.nextTeam b) l g)

/-- The RT head of the earliest DEADLINE, 0 last, ties to the lower queue (R394). -/
def earliestHead (l : List (LQueue × Launch)) : Option (LQueue × Launch) :=
  let key (x : LQueue × Launch) : Nat × Nat := (if x.2.deadline = 0 then 2 ^ 64 else x.2.deadline, 128 * x.1.fn + x.1.q)
  l.foldl (fun best x => match best with
    | none => some x
    | some y => if (key x).1 < (key y).1 ∨ ((key x).1 = (key y).1 ∧ (key x).2 < (key y).2) then some x else some y) none

/-- The weight of a queue (R386, R392). -/
def queueWeight (s : State) (x : LQueue) : Nat := if isTaskQueue x then 16 else Nat.max 1 ((fnNat s x.fn (x.base + 12) 1).getD 1)

/-- Is a queue empty: no record to consume, and no launch of it with teams to start (R387, R393, R394)? -/
def queueEmpty (s : State) (x : LQueue) : Bool := (headLaunch s x.fn x.q).isNone && (headRecord s x).isNone

/-- One visit of the deficit round-robin of a band (R394): empty queues passed lose their deficit, the first other one gains its weight, and its
head's next team starts where there is an admitted one that the deficit reaches and that can be placed. -/
def visitBand (s : State) (band : Nat) : State :=
  let last := (s.loom.visit.find? fun v => v.1 = band).map (·.2)
  let round := roundFrom (bandRound s band) last
  let s1 := (round.takeWhile (queueEmpty s)).foldl (fun st x => modQueue st x.fn x.q (fun y => { y with deficit := 0 })) s
  match round.find? (fun x => !queueEmpty s x) with
  | none => s1
  | some x =>
    let d := x.deficit + queueWeight s x
    let s2 := modLoom (modQueue s1 x.fn x.q (fun y => { y with deficit := d })) (fun m => { m with
      visit := (band, x.fn, x.q) :: m.visit.filter fun v => v.1 ≠ band })
    match headLaunch s x.fn x.q with
    | none => s2
    | some l =>
      let n := teamTiles l.levels
      if d < n then s2
      else match startTeam s2 l band with
        | some s3 => modQueue s3 x.fn x.q (fun y => { y with deficit := d - n })
        | none => s2

/-- TEAM_PLACE (R394, R396): one service of the highest band in which anything waits; a pre-empted gang of the band is served before its
heads, by its resumption. -/
def execTeamPlace (s : State) : Host.Outcome State Fault Refusal :=
  match servedNow s with
  | none => .next s
  | some band =>
    if gangWaits s band then .next s
    else if band = 0 then
      match earliestHead (bandHeads s 0) with
      | some (_, l) => .next ((startTeam s l 0).getD s)
      | none => .next s
    else .next (visitBand s band)

/-! ### Pre-emption for RT (R397) -/

/-- The sublists of a list of a given length, in the order of the list. -/
def choices {α : Type} : Nat → List α → List (List α)
  | 0, _ => [[]]
  | _ + 1, [] => []
  | n + 1, x :: xs => (choices n xs).map (x :: ·) ++ choices (n + 1) xs

/-- The lowest-numbered tile instance of a gang. -/
def lowestTile (g : Gang) : Nat := (g.places ++ g.places1).foldl (fun n p => Nat.min n p.tile) (2 ^ 32)

/-- Gangs that an RT head may pre-empt: lowest band first, most recently started first within it, ties to the lowest-numbered instance (R397). -/
def victims (s : State) : List Gang :=
  (s.loom.gangs.filter fun g => g.state = .running && decide (g.band ≠ 0)).mergeSort fun a b =>
    decide (b.band < a.band) || (decide (a.band = b.band) && (decide (b.startTick < a.startTick)
      || (decide (a.startTick = b.startTick) && decide (lowestTile a ≤ lowestTile b))))

/-- The fewest victims whose tiles an RT launch's next team can take. -/
def chooseVictims (s : State) (l : Launch) : Option (List Gang) :=
  let v := victims s
  firstSome (fun n => (choices n v).find? fun c =>
    (placeSides s (fitOf l (c.map (·.team))) (fun _ => []) (teamDomain l.levels) (teamTiles l.levels) l.paired).isSome)
    (List.range (v.length + 1))

/-- RT_PREEMPT (R397): the RT head without room pre-empts the gangs chosen, and their tiles are held for it. -/
def execRtPreempt (s : State) : Host.Outcome State Fault Refusal :=
  match earliestHead (bandHeads s 0) with
  | none => .next s
  | some (_, l) =>
    if s.loom.holds.any (fun h => h.2 = l.id) then .next s
    else match chooseVictims s l with
      | none => .next s
      | some [] => .next s
      | some c =>
        let tiles := (c.flatMap fun g => (g.places ++ g.places1).map (·.tile)).eraseDups
        .next (c.foldl (fun st g => requestStop st g.team false) (modLoom s (fun m => { m with holds := m.holds ++ tiles.map fun t => (t, l.id) })))

end Sys2Proof.Machine
end

