-- ==== Sys2Proof/Machine/Tiers.lean ====
section
/-! DEFINITION. The tier manager: promotions, climb schedules, hand-overs and repairs (R173, R306 to R308, R311, R318 to R327, R330). -/
namespace Sys2Proof.Machine

/-! ### Filling and charging (R306, R307, R311, R323) -/

/-- A pick's tiles filled into HBM from NAND and verified; false where a frame is lost or a seal fails (R319, R320, R381). -/
def fillTiles (s : State) (t : Nat) (cm : Bool) (tiles : List Nat) : State × Bool :=
  if !cm ∧ lostFrameTiles s tiles ≠ [] then ((reportLost s (lostFrameTiles s tiles) 0).1, false)
  else
    let s1 := tiles.foldl (fun st T => (verifyTile st t true T).1) s
    (s1, tiles.all fun T => decide ((sealMeta s1.mem T).state ≠ 2))

/-- Lines of tiles brought into L2, unpinned (R319). -/
def bringIntoL2 (s : State) (t : Nat) (tiles : List Nat) : State :=
  tiles.foldl (fun st T => (List.range 32).foldl (fun u i => (l2Fill u t true (32 * T + i) (lineSectors (32 * T + i)) {}).1) st) s

/-- An entry of a tier map changed. -/
def modTier (s : State) (m : TMap) (p : Nat) (f : TierEnt → TierEnt) : State :=
  match tierEnt s m p with
  | some e => putTierHome s m p (f e)
  | none => s

/-! ### Promotions (R173, R306) -/

/-- `spromote` (R173): the range is checked, the tag taken, and each ready pick's promotion asked for; refused picks are answered. -/
def execSpromote (c : Ctl) (tag : BitVec 7) (kt kc : BitVec 2) (s : State) : Host.Outcome State Fault Refusal :=
  uniformInstr .str c (fun t =>
    let w := kVal t.me .str kt
    let n := (kVal t.me .str kc).toNat
    match takeRef t .promote w with
    | (t1, .error code) => refStop t1 code w
    | (t1, .ok r) =>
      match tmapOf t1 t1.me.tenant r.obj with
      | none => refStop t1 .rights w
      | some m =>
        if n ≠ 0 ∧ m.picks < r.off + n then refStop t1 .bounds w
        else if tagHeld t1.me (tagNat tag) then .stall t1
        else
          let picks := ((List.range (Nat.min n m.picks)).map (· + r.off)).filter fun p => match tierEnt t1 m p with
            | some e => decide (Tier.state e = 0)
            | none => false
          let t2 := modMe t1 (fun h => takeTag h (tagNat tag) 0)
          if picks = [] then .done (modMe t2 (fun h => setReady h (tagNat tag)))
          else
            let op : CopyOp := { kind := .promote, tag := tagNat tag, dst := r, cls := c.cls.toNat, first := r.off, picks := picks }
            let asked : List Promo := picks.map fun p =>
              { tenant := t1.me.tenant, tmap := r.obj, pick := p, target := 2, launch := t1.me.launch, team := t1.me.team,
                place := some (t1.me.place, tagNat tag) }
            .done { modMe t2 (fun h => { h with copies := h.copies ++ [op] }) with promos := t2.promos ++ asked }) s

/-- A pick of an `spromote` answered: with its tiles where it was promoted. The last answer sets the tag, with TAGBYTES the bytes that
now lie in tier C (R173). -/
def answerPromote (s : State) (x : Promo) (tiles : List Nat) : State :=
  match x.place with
  | none => s
  | some (p, tag) =>
    modShuttle s p (fun h =>
      let h1 := modCopy h tag (fun c => if c.kind = .promote then
        { c with picks := c.picks.erase x.pick, doneSet := tiles.foldl insertNat c.doneSet } else c)
      match copyOf h1 tag with
      | none => h1
      | some c =>
        if c.kind ≠ .promote ∨ c.picks ≠ [] then h1
        else setReady (setTagBytes { h1 with copies := h1.copies.filter fun d => d.tag ≠ tag } tag (6144 * c.doneSet.length)) tag)

/-- The body that holds a pick and runs or waits on a unit: its kick, and the tier and number of the unit. -/
def bodyHolding (s : State) (t tmap p : Nat) : Option (Kick × Bool × Nat) :=
  let holds (k : Kick) : Bool :=
    k.tenant = t && k.desc.tmap = tmap && decide (k.desc.pickFirst ≤ p ∧ p < k.desc.pickFirst + k.desc.pickCount)
  firstSome (fun u : NdUnit => match u.body with
    | some b => if holds b.kick then some (b.kick, u.tierM, u.unit) else (u.queue.find? holds).map fun k => (k, u.tierM, u.unit)
    | none => (u.queue.find? holds).map fun k => (k, u.tierM, u.unit)) (s.nd :: s.otherNd)

/-- The first pick that a kick has not begun (R319). -/
def firstLeft (s : State) (k : Kick) (m : Bool) (u : Nat) : Nat :=
  match (ndOf s m u).body with
  | some b => if b.kick.id = k.id then (nextPick s b b.regs).getD (k.desc.pickFirst + k.desc.pickCount) else k.desc.pickFirst
  | none => k.desc.pickFirst

/-- Steps 1 and 2 of a hand-over (R319): the remaining picks' tiles are filled into the upper tier and verified, the ready ones are
promoting, and the request stands. A second trigger for a body is ignored (R330); a failed fill leaves no request (R320), and so does a
remaining pick that is not ready, whose tiles no fill can bring. A tile whose seal is stalled delays the step (R330). -/
def beginHandover (s : State) (k : Kick) (m : Bool) (u target : Nat) : State :=
  let from' := if m then 1 else 0
  if (handoverOf s k.id).isSome ∨ target ≤ from' then s
  else match tmapOf s k.tenant k.desc.tmap with
    | none => s
    | some map =>
      let first := firstLeft s k m u
      let picks := (List.range (k.desc.pickFirst + k.desc.pickCount - first)).map (· + first)
      let ready (p : Nat) : Bool := match tierEnt s map p with
        | some e => decide (Tier.state e = 0)
        | none => false
      if picks = [] ∨ !picks.all ready then s
      else
        let (s1, ok) := picks.foldl (fun acc p =>
          let tiles := pickTiles acc.1 map p
          let cm := match tierEnt acc.1 map p with
            | some e => Tier.copy e 1
            | none => false
          let (a, good) := fillTiles acc.1 k.tenant cm tiles
          let b := if good && target = 1 then modTier a map p (fun e => Tier.withRes (Tier.withCopy e 1 true) (Nat.max 1 (Tier.res e)))
            else if good then bringIntoL2 a k.tenant tiles else a
          (b, acc.2 && good)) (s, true)
        if !ok then s1
        else
          let s2 := picks.foldl (fun st p => modTier st map p (fun e => if Tier.state e = 0 then Tier.withState e 1 else e)) s1
          { s2 with handovers := s2.handovers ++ [{
              kick := k.id, tierM := m, unit := u, target := target, marked := picks, since := tstampOf s2,
              held := picks.any fun p => (pickTiles s2 map p).any fun T => T ∈ s2.mem.stalled }] }

/-- The number of the next promotion to complete. -/
def nextOrder (s : State) : Nat := 1 + s.promos.foldl (fun n x => Nat.max n x.order) 0

/-- The charge of a promotion to tier C or M made: pins for the launch, or stream bandwidth for a STREAMABLE tensor in a number of steps
that the manual leaves open, or HBM bytes where the pick has no copy there (R311, R323). Answers the charges. -/
def chargePromo (s : State) (m : TMap) (x : Promo) (cm : Bool) (tiles : List Nat) : Option (State × Nat × Nat) :=
  let n := 6144 * tiles.length
  if x.target = 2 then
    if m.streamable then
      let steps := Config.choose s.fresh
      (chargeFor (bump s) x.tenant x.launch 3 steps).map fun t => (t, 0, steps)
    else (chargeFor s x.tenant x.launch 2 n).map fun t =>
      (modMem t (fun k => { k with pins := k.pins ++ tiles.map fun T => { tile := T, tenant := x.tenant, launch := some x.launch } }), n, 0)
  else if cm then some (s, 0, 0)
  else (chargeHbm s m x.pick (some x.launch)).map fun t => (t, 0, 0)

/-- A promotion of a ready pick made, or refused (R306): held picks move residency only, and a hand-over begins unless the entry asks for
none. -/
def promote (s : State) (i : Nat) (x : Promo) : State :=
  let drop (st : State) : State := { st with promos := st.promos.eraseIdx i }
  let refuse (st : State) : State := answerPromote (drop st) x []
  match tmapOf s x.tenant x.tmap with
  | none => refuse s
  | some m =>
    match tierEnt s m x.pick with
    | none => refuse s
    | some e =>
      if Tier.state e ≠ 0 then refuse s
      else
        let tiles := pickTiles s m x.pick
        let cm := Tier.copy e 1
        let (s0, there) := if x.target = 2 ∧ !cm ∧ !Tier.copy e 2 then fillPick s m x.pick else (s, true)
        let (s1, good) := fillTiles s0 x.tenant (cm || x.target = 2) tiles
        match tierEnt s1 m x.pick with
        | none => refuse s1
        | some e1 =>
          if !there ∨ !good ∨ Tier.state e1 ≠ 0 then refuse s1
          else match chargePromo s1 m x cm tiles with
            | none => refuse s1
            | some (s2, bytes, stream) =>
              let held := pickHeld s2 x.tenant x.tmap x.pick
              let up := Tier.withCopy e1 x.target true
              let res := Nat.max (Tier.res e1) x.target
              let new := if held then Tier.withRes up res else Tier.moved up res x.target 0
              let s3 := putTierHome s2 m x.pick new
              let x1 := { x with done := true, fromRes := Tier.res e, fromHed := Tier.hed e, moved := !held, bytes := bytes, stream := stream,
                                     order := nextOrder s }
              let s4 := answerPromote { s3 with promos := s3.promos.set i x1 } x tiles
              if held && !x.quiet then
                match bodyHolding s4 x.tenant x.tmap x.pick with
                | some (k, tm, u) => beginHandover s4 k tm u x.target
                | none => s4
              else s4

/-- PROMOTION_COMPLETE (R306): the promotion of a number in the tier manager's list. -/
def execPromotionComplete (i : Nat) (s : State) : Host.Outcome State Fault Refusal :=
  match s.promos[i]? with
  | some x => if x.done then .next s else .next (promote s i x)
  | none => .next s

/-- A pick of a launch's promotions back at the tiers it was promoted from by the first of them to complete, once, with SEQ one greater; a copy in HBM
that is dropped returns its charge (R306, R323). -/
def restorePick (s : State) (l : Launch) (t tmap p : Nat) : State :=
  let ps := (s.promos.filter fun x => x.launch = l.id && x.done && decide (x.tenant = t ∧ x.tmap = tmap ∧ x.pick = p)).mergeSort
    fun a b => a.order ≤ b.order
  match ps.head?, tmapOf s t tmap with
  | some x, some m =>
    let hed := ((ps.find? (·.moved)).map (·.fromHed))
    let targets := (ps.map (·.target)).filter fun u => x.fromRes < u
    let s1 := modTier s m p (fun e =>
      Tier.moved (targets.foldl (fun d u => Tier.withCopy d u false) e) x.fromRes (hed.getD (Tier.hed e)) (Tier.state e))
    if 1 ∈ targets then dropHbm s1 m p else s1
  | _, _ => s

/-- The end of a launch's promotions (R306): each promoted pick restored, the charges and the pins returned. -/
def restorePromos (s : State) (l : Launch) : State :=
  let mine (x : Promo) : Bool := x.launch = l.id
  let done := s.promos.filter fun x => mine x && x.done
  let s0 := ((done.map fun x => (x.tenant, x.tmap, x.pick)).eraseDups).foldl (fun st k => restorePick st l k.1 k.2.1 k.2.2) s
  let s1 := done.foldl (fun st x =>
    let st1 := if x.bytes = 0 then st else unchargeFor st x.tenant l.id 2 x.bytes
    if x.stream = 0 then st1 else unchargeFor st1 x.tenant l.id 3 x.stream) s0
  { s1 with
    promos := s1.promos.filter fun x => !(mine x)
    mem := { s1.mem with pins := s1.mem.pins.filter fun p => p.launch ≠ some l.id } }

/-! ### The climb schedule (R322) -/

/-- The next entry due among a launch's schedules: the first of some tensor's entries, its LEAD passed (R322). Each tensor's entries go in
list order; those of another tensor do not wait behind them. -/
def nextDue (now start : Nat) : List SchedEnt → List Nat → Option SchedEnt
  | [], _ => none
  | x :: rest, seen => if x.tmap ∉ seen ∧ start + x.lead ≤ now then some x else nextDue now start rest (x.tmap :: seen)

/-- SCHEDULE_ENTRY_DUE (R322): the next entry due of a launch's schedules, while fewer than eight promotions of the tenant are in
flight. -/
def execScheduleEntryDue (launch : Nat) (s : State) : Host.Outcome State Fault Refusal :=
  match launchOf s launch with
  | none => .next s
  | some l =>
    match nextDue (tstampOf s) l.startTick l.sched [] with
    | none => .next s
    | some x =>
      let flying := (s.promos.filter fun p => p.tenant = l.tenant && !p.done).length
      if 8 ≤ flying then .next s
      else
        let s1 := modLoom s (fun m => { m with launches := m.launches.map fun y =>
          if y.id = launch then { y with sched := y.sched.erase x } else y })
        match tmapOf s1 l.tenant x.tmap with
        | none => .next s1
        | some m =>
          match tierEnt s1 m x.pick with
          | none => .next s1
          | some e =>
            if Tier.state e ≠ 0 ∨ x.target ≤ Tier.hed e then .next s1
            else match (if x.flag then bodyHolding s1 l.tenant x.tmap x.pick else none) with
              | some (k, tm, u) => .next (beginHandover s1 k tm u x.target)
              | none =>
                let p : Promo := { tenant := l.tenant, tmap := x.tmap, pick := x.pick, target := x.target, launch := launch, team := 0,
                                   quiet := true }
                .next { s1 with promos := s1.promos ++ [p] }

/-! ### Records read back (R315, R318, R344) -/

/-- The fields of a climb record that a start reads. -/
structure ClimbRec where
  kobj : Nat
  cpid : Nat
  pickFirst : Nat
  pickCount : Nat
  seq : Nat
  cpos : List Nat
  loops : List Nat
  scalars : List Nat
  /-- Value, level, first position over 2^level. -/
  nodes : List (Nat × Nat × Nat)
  /-- The node words as bytes. -/
  nodeBytes : List Byte
deriving DecidableEq, Repr

/-- The record of a kick as it stands in memory. -/
def readRecord (s : State) (k : Kick) : Option ClimbRec :=
  (homeBytes s k.tenant k.crecVa 512).map fun bs =>
    let f (a n : Nat) : Nat := natOfBytes ((bs.drop a).take n)
    let n := f 5 1
    { kobj := f 0 2, cpid := f 2 1, pickFirst := f 8 4, pickCount := f 12 4, seq := f 16 4,
      cpos := (List.range 8).map fun j => f (32 + 8 * j) 8, loops := (List.range 4).map fun j => f (96 + 8 * j) 8,
      scalars := (List.range 16).map fun j => f (128 + 8 * j) 8,
      nodes := (List.range n).map fun j => (f (256 + 8 * j) 4, bitsOf (f (260 + 8 * j) 4) 31 27, bitsOf (f (260 + 8 * j) 4) 26 0),
      nodeBytes := (bs.drop 256).take (8 * n) }

/-- The registers of a near-data body restored from a record, at a word (R344). -/
def recordRegs (k : Kick) (r : ClimbRec) (word : Nat) : BodyRegs :=
  let lv := r.nodes.map fun x => (x.2.1 - k.desc.etlog, x.1)
  { sc := Vector.ofFn fun (i : Fin 16) => BitVec.ofNat 32 (r.scalars.getD i.val 0)
    levels := lv.foldl (fun v x => v.setIfInBounds x.1 (BitVec.ofNat 32 x.2)) (Vector.replicate 24 0)
    c := lv.foldl (fun n x => n + 2 ^ x.1) 0
    pos := Vector.ofFn fun (i : Fin 8) => r.cpos.getD i.val 0
    iter := r.loops.getD 0 0, word := word }

/-- The word of a climb point in a kick's slot at a tier. -/
def climbWord (s : State) (k : Kick) (m : Bool) (cpid : Nat) : Option Nat :=
  match slotFor s m k.desc.slot with
  | some x => (x.climbs.find? fun c => c.2 = cpid).map (·.1)
  | none => none

/-- The home unit of a kick at a tier, for the pick its record begins with (R331). -/
def homeUnit (s : State) (k : Kick) (m : Bool) (p : Nat) : Nat :=
  match tmapOf s k.tenant k.desc.tmap with
  | some map => (match (pickTiles s map p).head? with
    | some T => if m then unitOfTileM T else unitOfTileS T
    | none => 0)
  | none => 0

/-- A body queued again at a unit of a tier, from its record (R321, R327); the time it has run stays its kick's (R323). -/
def reKick (s : State) (b : Body) (m : Bool) (u : Nat) (g : BodyRegs) : State :=
  let s1 := focusNd s m u
  { s1 with nd := { s1.nd with queue := s1.nd.queue ++ [{ b.kick with start := some g, ran := b.kick.ran + b.spent }] } }

/-! ### A tier C shuttle from a record (R318) -/

/-- The kernel of a kick: its image and its declarations. -/
def kickKernel (s : State) (k : Kick) : Option (Kern × List Region × List (Nat × Nat × Word)) :=
  match plainObj s k.tenant k.kobj 6 64 with
  | none => none
  | some e => (kernHeader s k.tenant k.kobj e).map fun x =>
      (x.1, kernRegions s k.tenant x.1.base x.2, kernQcws s k.tenant x.1.base x.2)

/-- The launch that a shuttle started from a record is of: one level of one shuttle (R318). -/
def recordLaunch (s : State) (k : Kick) : Option Launch :=
  match launchOf s k.launch, kickKernel s k with
  | some l, some (kern, regs, qcws) =>
    some { l with levels := [{ domain := 1, scope := 1, extent := 1 }], kern := kern, regions := regs, qcws := qcws, paired := false }
  | _, _ => none

/-- The code address after the `climbpt` of an id in a kernel's SEQ chain. -/
def afterClimbpt (s : State) (tenant : Nat) (kern : Kern) (cpid : Nat) : Option Word :=
  let h : Shuttle := { place := ⟨0, 0⟩, tenant := tenant, kern := kern }
  let c := seqChain s h
  match c.findIdx? (fun x => decide (opOf x.2 = 0x003) && decide (((unpack x.2).c.toNat * 1024 + (unpack x.2).d.toNat) % 2 ^ 20 = cpid)) with
  | some i => (listAt c (i + 1)).map (·.1)
  | none => none

/-- The placement of a shuttle started from a record; none where no slot is free. -/
def placeRecord (s : State) (l : Launch) : Option Place :=
  match placeTeam s (fitOf l []) (fun _ => []) 1 1 0 384 with
  | some a => (placesOf a).head?
  | none => none

/-- A tier C shuttle started from a record at a place, its kick away until it exits (R318, R321). -/
def startFromRecord (s : State) (b : Body) (l : Launch) (r : ClimbRec) (pc : Word) (p : Place) : State :=
  let team := s.loom.nextTeam
  let g : Gang := { team := team, launch := l.id, tenant := l.tenant, index := 0, band := l.band, domain := 1, nTiles := 1, perTile := 1,
                    places := [p], fromRecord := true, startTick := tstampOf s }
  let s1 := modLoom s (fun m => { m with gangs := m.gangs ++ [g], nextTeam := team + 1 })
  let s2 := startSide s1 l team 0 [(p.tile, [p.slot])]
  let vals := b.kick.crecVa :: r.pickFirst :: r.pickCount :: (r.cpos ++ r.loops ++ r.scalars)
  let s3 := modShuttle s2 p (fun h => { h with
    pc := pc
    g := Vector.ofFn fun (i : Fin 32) => if i.val = 0 then 0 else BitVec.ofNat 64 (vals.getD (i.val - 1) 0) })
  let s4 := match l.regions.find? fun x => x.idx = 15 with
    | some x => modTileAt s3 p.tile (fun t => scratchWrite t x.base r.nodeBytes false)
    | none => s3
  { s4 with away := s4.away ++ [(b, .tileC team)] }

/-! ### Acceptance and the flip (R307, R319 to R321) -/

/-- A hand-over fails before its flip (R308, R320): marked picks return to ready, and the body resumes from the climb point, or parks where
its pick was lost (R327). -/
def failHandover (s : State) (h : Handover) : State :=
  let s0 := focusNd s h.tierM h.unit
  match s0.nd.body with
  | none => { s0 with handovers := s0.handovers.filter fun x => x.kick ≠ h.kick }
  | some b =>
    let s1 := withdraw s0 b.kick
    if h.lost then
      let pick := match readRecord s1 b.kick with
        | some r => r.pickFirst
        | none => b.kick.desc.pickFirst
      { releaseUnit s1 with away := s1.away ++ [(b, .repair pick)] }
    else modBody s1 (fun x => { x with state := .running, phase := 1, wordStart := x.regs, wordFlags := x.kick.flags })

/-- The charges of acceptance, made once per pick for each of its tiles (R307); for tier C the lines are pinned for the launch, until its
end. -/
def chargeAccept (s : State) (k : Kick) (m : TMap) (target : Nat) (picks : List Nat) : Option State :=
  picks.foldl (fun acc p => acc.bind fun st =>
    let tiles := pickTiles st m p
    let n := 6144 * tiles.length
    if target = 2 then
      (chargeFor st k.tenant k.launch 2 n).map fun t =>
        let e := (tierEnt t m p).getD 0
        { modMem t (fun q => { q with pins := q.pins ++ tiles.map fun T => { tile := T, tenant := k.tenant, launch := some k.launch } }) with
          promos := t.promos ++ [{ tenant := k.tenant, tmap := m.idx, pick := p, target := 2, launch := k.launch, team := k.team, done := true,
                                   fromRes := Tier.res e, fromHed := Tier.hed e, moved := true, bytes := n, order := nextOrder t }] }
    else chargeHbm st m p (some k.launch)) (some s)

/-- The flip (R319): HED moves for each pick of the range in order, then the marked picks before it are ready again. -/
def flip (s : State) (m : TMap) (target : Nat) (range before : List Nat) : State :=
  let s1 := range.foldl (fun st p => modTier st m p (fun e =>
    Tier.moved (if target = 2 then Tier.withCopy e 2 true else e) (if target = 2 then 2 else Tier.res e) target 0)) s
  before.foldl (fun st p => modTier st m p (fun e => if Tier.state e = 1 then Tier.withState e 0 else e)) s1

/-- Acceptance of a written record (R319 steps 4 to 6); none while no unit or slot is free. -/
def accept (s : State) (h : Handover) (b : Body) : Option State :=
  let k := b.kick
  match tmapOf s k.tenant k.desc.tmap, readRecord s k with
  | some m, some r =>
    let range := (List.range r.pickCount).map (· + r.pickFirst)
    let before := h.marked.filter fun p => p < r.pickFirst
    let fresh := match tierEnt s m r.pickFirst with
      | some e => decide (Tier.seq e = r.seq)
      | none => false
    let pc := match kickKernel s k with
      | some x => afterClimbpt s k.tenant x.1 r.cpid
      | none => none
    let named := if h.target = 2 then pc.isSome else (climbWord s k true r.cpid).isSome
    let done (st : State) : State := { st with handovers := st.handovers.filter fun x => x.kick ≠ h.kick }
    if !fresh ∨ r.kobj ≠ k.kobj ∨ !named then some (failHandover s h)
    else if range.any fun p => (pickTiles s m p).any fun T => T ∈ s.mem.stalled then none
    else match chargeAccept s k m h.target range with
      | none => some (failHandover s h)
      | some s1 =>
        if h.target = 2 then
          match recordLaunch s1 k, pc with
          | some l, some a => (placeRecord s1 l).map fun p =>
              startFromRecord (releaseUnit (focusNd (flip (done s1) m 2 range before) h.tierM h.unit)) b l r a p
          | _, _ => some (failHandover s h)
        else
          let u := homeUnit s1 k true r.pickFirst
          if 64 ≤ (ndOf s1 true u).queue.length then none
          else
            let s2 := releaseUnit (focusNd (flip (done s1) m 1 range before) h.tierM h.unit)
            some (reKick s2 b true u (recordRegs k r ((climbWord s1 k true r.cpid).getD 0)))
  | _, _ => some (failHandover s h)

/-- The hand-over of a stopped body on a unit. -/
def stoppedHandover (s : State) (u : Nat) : Option (State × Handover × Body) :=
  let s1 := focusNd s (ndNumber u).1 (ndNumber u).2
  match s1.nd.body with
  | some b => if b.state ≠ .climbed then none else (handoverOf s1 b.kick.id).map fun h => (s1, h, b)
  | none => none

/-- HANDOVER_ACCEPT (R319). -/
def execHandoverAccept (u : Nat) (s : State) : Host.Outcome State Fault Refusal :=
  match stoppedHandover s u with
  | some (s1, h, b) => .next ((accept s1 h b).getD s1)
  | none => .next s

/-- HANDOVER_ACCEPT_TIMEOUT (R320): 4 µs for tier C, 30 µs for tier M, from the record. -/
def execHandoverAcceptTimeout (u : Nat) (s : State) : Host.Outcome State Fault Refusal :=
  match stoppedHandover s u with
  | some (s1, h, _) =>
    if h.since + (if h.target = 2 then 4000 else 30000) ≤ tstampOf s1 then .next (failHandover s1 h) else .next s1
  | none => .next s

/-! ### Repairs (R326, R327) -/

/-- A parked body started again at its pick's new heddle tier; none where no slot of a tile is free yet, or the unit's queue is full. A body
that wrote no record starts afresh, at a near-data tier: that of the heddle, or, where the heddle is at tier C, tier M where the pick has a copy there,
else tier S (log entry 55). -/
def restartBody (s : State) (b : Body) (e : TierEnt) : Option State :=
  let k := b.kick
  let hed := Tier.hed e
  if b.climbAt.isNone then
    let m := decide (hed = 1) || (decide (hed = 2) && Tier.copy e 1)
    let u := homeUnit s k m k.desc.pickFirst
    if 64 ≤ (ndOf s m u).queue.length then none else some (reKick s b m u {})
  else match readRecord s k with
  | none => none
  | some r =>
    if hed = 2 then
      match recordLaunch s k with
      | none => none
      | some l => match afterClimbpt s k.tenant l.kern r.cpid with
        | some a => (placeRecord s l).map (startFromRecord s b l r a)
        | none => none
    else
      let m := decide (hed = 1)
      let u := homeUnit s k m r.pickFirst
      if 64 ≤ (ndOf s m u).queue.length then none else (climbWord s k m r.cpid).map fun w => reKick s b m u (recordRegs k r w)

/-- REPAIR_OBSERVED (R326, R327): bodies parked for the pick are started again; a parked access of tier C finds the pick ready when it is
next tried (R328). -/
def execRepairObserved (tenant tmap pick : Nat) (s : State) : Host.Outcome State Fault Refusal :=
  match (tmapOf s tenant tmap).bind fun m => tierEnt s m pick with
  | none => .next s
  | some e =>
    if Tier.state e ≠ 0 then .next s
    else
      let mine (x : Body × Away) : Bool := decide (x.1.kick.tenant = tenant ∧ x.1.kick.desc.tmap = tmap) && decide (x.2 = .repair pick)
      .next ((s.away.filter mine).foldl (fun st x =>
        match restartBody { st with away := st.away.erase x } x.1 e with
        | some st1 => st1
        | none => st) s)

end Sys2Proof.Machine
end

