-- ==== Sys2Proof/Machine/Gang.lean ====
section
/-! DEFINITION. The life of a gang: the exit of shuttles and the completion of launches (R13, R34, R109, R306, R321, R324), pre-emption, saving,
resumption and stopping (R398 to R404), and the compares of a paired gang (R405 to R407). -/
namespace Sys2Proof.Machine

/-! ### The end of a team (R34, R172, R321, R323) -/

/-- The shuttles of a gang's places idle again. -/
def vacate (s : State) (g : Gang) : State :=
  (g.places ++ g.places1).foldl (fun st p =>
    let st1 := modShuttle st p (fun h => if h.team = g.team then { place := p } else h)
    modTileAt st1 p.tile (fun x => releaseSlot x p.slot)) s

/-- The shuttles of an ended team idle again, their registers as they ended (R109). -/
def retire (s : State) (g : Gang) : State :=
  (g.places ++ g.places1).foldl (fun st p =>
    modTileAt (modShuttle st p (fun h => if h.team = g.team then { h with life := .idle } else h)) p.tile (fun x => releaseSlot x p.slot)) s

/-- The kick whose body a team was started from completes, with the status of a body that ended at another tier (R321, R347). -/
def completeAway (s : State) (team : Nat) : State :=
  match s.away.find? fun x => decide (x.2 = .tileC team) with
  | none => s
  | some x => completeUpper { s with away := s.away.erase x } x.1.kick x.1.spent

/-- A team all of whose shuttles have exited: its stream bandwidth and its pins are returned, and it is counted (R34, R172, R323). -/
def endTeam (s : State) (g : Gang) : State :=
  let mine := s.promos.filter fun x => x.team = g.team && x.stream ≠ 0
  let s1 := mine.foldl (fun st x => unchargeFor st x.tenant x.launch 3 x.stream) s
  let s2 := { s1 with promos := s1.promos.map fun x => if x.team = g.team then { x with stream := 0 } else x }
  let s3 := retire (unpinTeam s2 g.tenant g.team (fun _ => true)) g
  let s4 := modLoom s3 (fun m => { m with
    gangs := m.gangs.filter fun x => x.team ≠ g.team
    launches := m.launches.map fun l => if l.id = g.launch ∧ !g.fromRecord then { l with ended := l.ended + 1 } else l })
  if g.fromRecord then completeAway s4 g.team else s4

/-- A shuttle in focus ends (R109): its groups and its panel are released, and its team may end with it. -/
def endShuttle (s : State) : State :=
  let p := s.me.place
  let s1 := modMe (modTile s (fun x => releaseSlot x p.slot)) (fun h => { h with
    life := .exited, stopReq := false, wait := none, popped := false, exiting := false, ring := [], vOld := [] })
  match gangOf s1 s1.me.team with
  | none => modMe s1 (fun h => { h with life := .idle })
  | some g =>
    let g1 := { g with exited := if p ∈ g.places1 then g.exited else s1.me.ordinal :: g.exited }
    let s2 := modLoom s1 (fun m => { m with gangs := m.gangs.map fun x => if x.team = g.team then g1 else x })
    if (g.places ++ g.places1).all fun q => decide ((shuttleAt s2 q).life = .exited) then endTeam s2 g1 else s2

/-- Does a drain of an output stream hold a tag (R12)? -/
def drainHolds (h : Shuttle) : Bool :=
  h.s.any fun x => match x with
    | some st => st.drainTag.isSome && st.failed.isNone
    | none => false

/-- The steps of `exit` (R109). -/
def exitBody (s : State) : SeqRes :=
  let h := s.me
  let again (st : State) : SeqRes := .wait (modMe st (fun m => { m with compareDue := true, compareOk := false })) .retry
  if !h.exiting ∧ h.paired ∧ !h.compareOk then again s
  else if !h.exiting ∧ (h.stopReq ∨ !entriesDone h ∨ !h.copies.isEmpty ∨ drainHolds h) then .wait s .exit
  else if !outputsDone h then .wait (modMe s (fun m => { m with exiting := true })) .retry
  else
    let s1 := drainAll (modMe (seqComplete s) (fun m => { m with
      exiting := true, s := Vector.replicate 16 none, tok := Vector.replicate 13 0, str := { m.str with fifo := [] },
      vec := { m.vec with fifo := [] }, mtx := { m.mtx with fifo := [] } }))
    if releasePending s1 65535 then .wait s1 .retry
    else if s1.me.paired ∧ s1.me.holdBuf ≠ [] then again s1
    else .jump (endShuttle s1) 1

/-- A shuttle that waits in step 1 of its `exit` with a stop asked for stops there (R28, R109). -/
def stopInExit (s : State) : State :=
  modMe s (fun h => if h.stopReq && decide (h.wait = some .exit) then stopInWait h else h)

/-- `exit` (R109). -/
def execExit (c : Ctl) (s : State) : Host.Outcome State Fault Refusal := .next (stopInExit (seqRun c exitBody s))

/-! ### The completion of a launch (R13, R306, R324, R325, R396) -/

/-- Has every team of a launch ended, every kick of it completed, every shuttle started from its records exited (R13, R325)? -/
def launchDone (s : State) (l : Launch) : Bool :=
  !l.stopped && decide (l.teams ≤ l.ended) && !(allKicks s).any (fun k => k.launch = l.id) && !s.loom.gangs.any fun g => g.launch = l.id

/-- The reservation of a launch returned in full (R324), with what HBM copies that stay have drawn on it: of their charge the rest is the quota's. -/
def returnReservation (s : State) (l : Launch) : State :=
  ((List.range l.full.length).zip l.full).foldl (fun st x => uncharge st l.tenant x.1 x.2)
    { s with hbm := s.hbm.map fun c => if c.launch = some l.id then { c with launch := none, bytes := c.bytes - c.drawn, drawn := 0 } else c }

/-- Every queue head of a tenant has its dependences read again (R393). -/
def recheckTenant (s : State) (t : Nat) : State :=
  (s.loom.queues.filter fun x => match headRecord s x with
    | some (r, _) => decide (r.tenant = t)
    | none => false).foldl recheckHead s

/-- COMPLETION_INCREMENT (R13, R396): pins, promotions, reservations and charges are returned, then the counter takes the increment in one
atomic addition, and a missed deadline is counted. -/
def execCompletionIncrement (launch : Nat) (s : State) : Host.Outcome State Fault Refusal :=
  match launchOf s launch with
  | none => .next s
  | some l =>
    if !launchDone s l then .next s
    else
      let s1 := returnReservation (restorePromos s l) l
      let s2 := match counterObj s1 l.tenant l.compl with
        | some e =>
          let v := (homeNat s1 l.tenant (Obj.base e) 8).getD 0
          devicePut s1 7 l.tenant (Obj.base e) (bytesOf 8 ((v + l.incr) % 2 ^ 64)) false .atomic
        | none => s1
      let s3 := if l.deadline ≠ 0 ∧ l.deadline < tstampOf s2 ∧ !l.task then
          match queueOf s2 l.fn l.q with
          | some x => fnPut s2 l.fn (x.base + 16) 8 ((fnNat s2 l.fn (x.base + 16) 8).getD 0 + 1)
          | none => s2
        else s2
      .next (recheckTenant (modLoom s3 (fun m => { m with launches := m.launches.filter fun x => x.id ≠ launch })) l.tenant)

/-! ### Pre-emption (R398 to R400) -/

/-- PREEMPT_REQUEST (R398): a running gang is asked to stop at its safe points. -/
def execPreemptRequest (gang : Nat) (s : State) : Host.Outcome State Fault Refusal := .next (requestStop s gang false)

/-- Has a shuttle stopped and drained, with no record of its tile's that waits in a full queue (R158, R328, R398, R408)? -/
def shuttleQuiet (s : State) (h : Shuttle) : Bool :=
  let stopped := decide (h.life = .stopped ∨ h.life = .halted)
  let engines := [h.str, h.vec, h.mtx].all fun q => q.cur.isNone && (q.queue.isEmpty || h.held)
  let copies := h.copies.all fun c => c.parked && c.fly.isEmpty && c.buffered.isEmpty
  let streams := h.s.all fun x => match x with
    | some st => !st.parked && !st.resid && (!st.desc.out || st.failed.isSome || decide (st.spos = st.cpos))
    | none => true
  let waits := (fqWaiting s (s.loom.launches.any fun l => l.id = h.launch && decide (l.fn = 0)) h.tenant).any fun r =>
    decide (r.team = h.team ∧ r.ptile = h.place.tile)
  let remote := s.fabric.stores.any (fun x => x.2.place = h.place && decide (x.2.sender = 0))
    || s.fabric.flags.any fun x => x.2.place = h.place && decide (x.2.sender = 0)
  h.life = .exited || (stopped && engines && copies && streams && !waits && !remote && (!h.paired || h.holdBuf.isEmpty))

/-- Every access of a gang's shuttles performs: its save is a release (R303). -/
def drainGang (s : State) (g : Gang) : State := (g.places ++ g.places1).foldl (fun st p => drainAll (focus st p)) s

/-- A gang saved and its tiles freed (R398 steps 3 and 4): STATE 1, or 2 where it is stopped for good (R404). A gang that has not issued since
it was resumed keeps its save area as it stands (R399). -/
def saveGang (s0 : State) (g : Gang) (l : Launch) : State :=
  let s := drainGang s0 g
  let keep := g.resumed && (g.places ++ g.places1).all fun p => !(shuttleAt s p).issued
  let ps := (List.range g.places.length).zip g.places
  let saved := g.places.map (saveShuttle s)
  let poison := (ps.filter fun x => x.1 % Nat.max 1 g.perTile = 0).map fun x =>
    (x.1 / Nat.max 1 g.perTile, (tileOf s x.2.tile).scratchPoison.filter fun k =>
      (keepSpans l.regions).any fun r => decide (r.2.base < 48 * k + 48 ∧ 48 * k < r.2.base + r.2.size))
  let s1 := if keep then (if g.stop then writeState s l 2 else s)
    else writeHeader (ps.foldl (fun st x => writeShuttle st l 0 x.2 x.1) s) l 0 (if g.stop then 2 else 1)
  let s2 := vacate s1 g
  let s3 := (g.places ++ g.places1).foldl (fun st p =>
    if (tileShuttles st [] p.tile).isEmpty then modTileAt st p.tile flashL1 else st) s2
  let s4 := if g.stop ∧ headLaunch s3 l.fn l.q = some l then modQueue s3 l.fn l.q freshHead else s3
  modLoom s4 (fun m => { m with
    nextPreempt := m.nextPreempt + 1
    launches := m.launches.map fun x => if x.id = l.id ∧ g.stop then { x with stopped := true } else x
    gangs := m.gangs.map fun x => if x.team = g.team then
      { x with state := if g.stop then .stopped else .saved, places := [], places1 := [], saved := saved, poison := poison,
               stop := false, preemptOrder := m.nextPreempt } else x })

/-- The launch of a gang, or, for a team started from a climb record, what that record gives in its place. -/
def launchFor (s : State) (g : Gang) : Option Launch :=
  match launchOf s g.launch with
  | none => none
  | some l =>
    if g.fromRecord then
      (match s.away.find? fun x => decide (x.2 = .tileC g.team) with
        | some x => some ((recordLaunch s x.1.kick).getD l)
        | none => some l)
    else some l

/-- A gang's STATE in its save area's header and in the scheduler (R401, R404): `stopped` for good, or pre-empted and queued again. Later teams of its
launch start again once no gang of the launch is stopped. -/
def restate (s : State) (g : Gang) (stopped : Bool) : State :=
  let s1 := match launchFor s g with
    | some l => writeState s l (if stopped then 2 else 1)
    | none => s
  let more := s1.loom.gangs.any fun x => decide (x.launch = g.launch ∧ x.team ≠ g.team ∧ x.state = .stopped)
  modLoom s1 (fun m => { m with
    gangs := m.gangs.map fun x => if x.team = g.team then { x with state := if stopped then .stopped else .saved } else x
    launches := m.launches.map fun l => if l.id = g.launch then { l with stopped := stopped || more } else l })

/-- A stopping gang: its shuttles are asked to stop once no stream of it is parked (R158), and it is saved once every one has stopped and
drained, where it is to stop for good or not as asked (R398, R404). -/
def trySave (s : State) (team : Nat) (stop : Bool) : State :=
  match gangOf s team with
  | none => s
  | some g =>
    match launchFor s g with
    | none => s
    | some l =>
      if g.state ≠ .stopping ∨ g.stop ≠ stop then s
      else if (g.places ++ g.places1).all fun p => shuttleQuiet s (shuttleAt s p) then saveGang s g l
      else if teamParked s team then s
      else askTeam s team

/-- GANG_DRAIN_SAVE (R398). -/
def execGangDrainSave (gang : Nat) (s : State) : Host.Outcome State Fault Refusal := .next (trySave s gang false)
/-- GANG_STOP (R404). -/
def execGangStop (gang : Nat) (s : State) : Host.Outcome State Fault Refusal := .next (trySave s gang true)

/-! ### Resumption (R394, R399, R402) -/

/-- Is a saved gang the one to be served: the oldest of the highest band in which anything waits (R394)? -/
def gangTurn (s : State) (g : Gang) : Bool :=
  decide (g.state = .saved) && decide (servedNow s = some g.band) &&
    s.loom.gangs.all fun x => !decide (x.state = .saved) || decide (x.band ≠ g.band) || decide (g.preemptOrder ≤ x.preemptOrder)

/-- Bytes of the footprint on a tile zeroed, with the marks of poison in them (R290, R402). -/
def zeroFootprint (s : State) (l : Launch) (slots : List Nat) (t : Nat) : State :=
  let qcws := formQcws l.qcws (l1Bytes l.l1) slots
  let areas := qcws.map (fun q => qcwArea q.2.2) ++ l.regions.map fun r => (r.base, r.size)
  modTileAt s t (fun x => { x with
    scratch := areas.foldl (fun m a => memZero m a.1 a.2) x.scratch
    scratchPoison := x.scratchPoison.filter fun k => !(areas.any fun a => decide (a.1 ≤ 48 * k ∧ 48 * k + 48 ≤ a.1 + a.2)) })

/-- A resumed shuttle: as saved, at its new place, nothing issued, its streams at CPOS, the copies named by an `sresume` meanwhile unparked
(R165, R399, R402). -/
def resumed (s : State) (l : Launch) (v : SavedShuttle) (p : Place) : Shuttle :=
  let h := readShuttle s l 0 v p
  { h with
    life := if h.life = .exited then .exited else .running
    clock := Nat.max h.clock s.cycles
    copies := h.copies.map fun c => if c.resumeMark then { c with parked := false, resumeMark := false } else c }

/-- One side of a gang restored on its tiles (R402). -/
def resumeSide (s : State) (l : Launch) (g : Gang) (side : List (Nat × List Nat)) : State :=
  let share := l1Bytes l.l1
  let s1 := ((List.range side.length).zip side).foldl (fun st x =>
    let st1 := zeroFootprint (prepareTile st share (formQcws l.qcws share x.2.2) x.2.1) l x.2.2 x.2.1
    let st2 := restoreKeep st1 l 0 x.1 x.2.1
    match g.poison.find? fun q => q.1 = x.1 with
    | some q => modTileAt st2 x.2.1 (fun t => { t with scratchPoison := q.2.foldl insertNat t.scratchPoison })
    | none => st2) s
  ((placesOf side).zip g.saved).foldl (fun st x => modShuttle (restoreTile st l 0 x.2 x.1) x.1 (fun _ => resumed st l x.2 x.1)) s1

/-- The groups that a saved gang's shuttles own on a virtual tile, as its save area has them (R402). -/
def savedGroups (s : State) (l : Launch) (g : Gang) (v : Nat) : List Nat :=
  ((g.saved.drop (v * g.perTile)).take g.perTile).flatMap (blockGroups s l 0)

/-- GANG_RESUME (R402): a pre-empted gang placed whole, every shuttle restored before any issues. -/
def execGangResume (gang : Nat) (s : State) : Host.Outcome State Fault Refusal :=
  match gangOf s gang with
  | none => .next s
  | some g =>
    match launchFor s g with
    | none => .next s
    | some l =>
      if !gangTurn s g then .next s
      else match placeSides s { fitOf l [] with launch := g.launch } (savedGroups s l g) g.domain g.nTiles l.paired with
        | none => .next s
        | some (a, b) =>
          let s1 := resumeSide (resumeSide s l g a) l g b
          let g1 := { g with state := .running, places := placesOf a, places1 := placesOf b, startTick := tstampOf s, saved := [], poison := [],
                             resumed := true }
          .next (modLoom s1 (fun m => { m with gangs := m.gangs.map fun x => if x.team = gang then g1 else x }))

/-! ### Paired compares (R405 to R407) -/

/-- A held write as the digest covers it: its address in sixteen bytes, then its bytes; a tile of the gang by its virtual tile. DESIGN CHOICE, log
entry 34: the layout of an address. -/
def spelledWrite (g : Gang) (side : List Place) (w : HeldWrite) : List Byte :=
  let at' (space n o : Nat) : List Byte := bytesOf 8 (space + 4 * n) ++ bytesOf 8 o ++ w.bytes
  match w.loc with
  | .dev pa => at' 0 0 pa
  | .scratch t o => at' 1 ((side.findIdx fun p => p.tile = t) / Nat.max 1 g.perTile) o
  | .host a => at' 2 0 a
  | .fabric x o => at' 3 x o

/-- What one side's digest covers: its held writes in order, g1 to g31, p1 to p15 (R406). -/
def digestOver (g : Gang) (side : List Place) (h : Shuttle) : List Byte :=
  h.holdBuf.flatMap (spelledWrite g side) ++ (h.g.toList.drop 1).flatMap (fun (v : Word) => bytesOf 8 v.toNat) ++ bytesOf 2 (h.p &&& 0xFFFE).toNat

/-- Do two sides agree: are their digests the same (R406)? -/
def sidesAgree (g : Gang) (h0 h1 : Shuttle) : Bool :=
  decide (shake128Bits (digestOver g g.places h0) = shake128Bits (digestOver g g.places1 h1))

/-- The held writes of the shuttle in focus out of the hold, its own tile's L1 lines updated by them. -/
def releaseHold (s : State) : State :=
  s.me.holdBuf.foldl (fun st w => match w.loc with
    | .dev pa => modTile st (fun x => l1Store x pa w.bytes)
    | _ => st) (modMe s (fun h => { h with holdBuf := [] }))

/-- One held write performed. -/
def performOne (s : State) (w : HeldWrite) : State :=
  match flagSlot s s.me.tenant w.loc with
  | some (win, slot) =>
    if w.bytes.length = 8 then sendFlag (drainAll s) win slot (natOfBytes w.bytes % 2 ^ 32)
    else writeAt s (meAsker s 0) w.loc w.pol w.bytes w.poisoned
  | none => writeAt s (meAsker s 0) w.loc w.pol w.bytes w.poisoned

/-- The held writes of the shuttle in focus performed in program order (R406). -/
def performHeld (s : State) : State := s.me.holdBuf.foldl performOne (releaseHold s)

/-- A compare passed for the shuttle in focus: the log is cleared, and a stop that is asked for takes effect (R406, R407). -/
def passCompare (s : State) : State :=
  modMe s (fun h =>
    let h1 := { h with compareDue := false, compareOk := true, retried := false, atomLog := [], replay := [] }
    if h1.stopReq then stopInWait h1 else h1)

/-- A shuttle restored from its checkpoint, to run again with its logged values (R406); a stop that is asked for waits for the next compare that
passes (R407). -/
def rollBack (s : State) (l : Launch) (third : Nat) (p : Place) (v : SavedShuttle) : State :=
  let log := (shuttleAt s p).atomLog
  let ask := (shuttleAt s p).stopReq
  let s1 := restoreTile s l third v p
  let h := readShuttle s1 l third v p
  let s2 := modShuttle s1 p (fun m => { h with
    life := .running, fresh := false, holdBuf := [], atomLog := [], replay := log, shared := [], retried := true, compareDue := false,
    compareOk := false, stopReq := ask, clock := Nat.max h.clock m.clock })
  if h.ordinal % Nat.max 1 (perTileOf l.levels) = 0 then restoreKeep s2 l third h.vtile p.tile else s2

/-- PAIRED_COMPARE (R406): both sides at the safe point with their entries complete; a pass performs side 0's held writes, discards side 1's and writes the
checkpoints, a failure restores both, a second one posts MISMATCH and stops the gang. -/
def execPairedCompare (q : Place) (s : State) : Host.Outcome State Fault Refusal :=
  match gangOf s (shuttleAt s q).team with
  | none => .next s
  | some g =>
    let n := (shuttleAt s q).ordinal
    match launchOf s g.launch, g.places[n]?, g.places1[n]? with
    | some l, some p0, some p1 =>
      let h0 := shuttleAt s p0
      let h1 := shuttleAt s p1
      if !h0.compareDue ∨ !h1.compareDue ∨ !entriesDone h0 ∨ !entriesDone h1 then .next s
      else if sidesAgree g h0 h1 then
        let s1 := passCompare (performHeld (focus s p0))
        let s2 := passCompare (releaseHold (focus s1 p1))
        let s3 := writeHeader (checkpoint s2 l g.team 1 p0 n) l 1 1
        .next (writeHeader (checkpoint s3 l g.team 2 p1 n) l 2 1)
      else if h0.retried then
        let s1 := focus s p0
        let s2 := (postMine s1 { code := .mismatch, eng := 0 } false).1
        let halt (st : State) (p : Place) : State := modShuttle st p (fun h => { h with
          life := .halted, compareDue := false, holdBuf := [], wait := none, popped := false })
        .next (requestStop (halt (halt s2 p0) p1) g.team true)
      else match checkOf g 1 n, checkOf g 2 n with
        | some c0, some c1 => .next (rollBack (rollBack s l 1 p0 c0) l 2 p1 c1)
        | _, _ => .next s
    | _, _, _ => .next s

end Sys2Proof.Machine
end

