-- ==== Sys2Proof/Machine/HostIo.lean ====
section
/-! DEFINITION. The host's side of the module: room in a fault queue, PRG Responses and ATS invalidations, the decode aperture, host and
peer accesses to device memory, the registers of the functions (R228, R229, R302, R314, R365, R375, R403, R409, R410, R412). -/
namespace Sys2Proof.Machine

/-! ### The fault queue (R375) -/

/-- Waiting records written in order while there is room, after the buffers of copies over their places are sealed (R367); each is signalled. -/
def flushWaiting (s : State) (mgmt : Bool) (t : Nat) : List FaultRec → State
  | [] => s
  | r :: rest =>
    match fqBase s mgmt t with
    | none => s
    | some base =>
      match fqSlot s mgmt t base with
      | none => s
      | some slot =>
      if !fqRoom s base then s
      else
        let s1 := fqWrite (flushTile (flushTile s (base / 6144)) (slot / 6144)) mgmt t base slot r
        flushWaiting (if mgmt then modModule s1 (fun m => { m with mgmtWaiting := rest, mgmtMsix := true })
          else modCtx s1 t (fun c => { c with waiting := rest, msix := true })) mgmt t rest

/-- FAULT_QUEUE_ROOM (R375): once TAIL has moved or DEPTH is legal, the records of a function's queue that wait are written, in order. -/
def execFaultQueueRoom (fn : Nat) (s : State) : Host.Outcome State Fault Refusal :=
  .next (flushWaiting s (decide (fn = 0)) (fnTenant fn) (fqWaiting s (decide (fn = 0)) (fnTenant fn)))

/-! ### Page requests and ATS (R365, R403, R412) -/

/-- Page requests that wait are sent, oldest first, as allocations and indices allow (R365). -/
def sendWaiting (alloc : Nat) : List PageReq → List PageReq → List PageReq
  | done, [] => done
  | done, q :: rest =>
    let out := (done ++ rest).filter (·.sent)
    let free := decide (out.length < alloc) && !out.any (fun x => x.idx = q.idx)
    sendWaiting alloc (done ++ [if q.sent then q else { q with sent := free }]) rest

/-- Does a shuttle's parked access or due trap wait on the record of a page request (R365, R366)? -/
def parkedOn (h : Shuttle) (n : Nat) : Bool :=
  (h.s.any fun x => match x with
    | some st => st.parked && st.parkHost && decide (st.parkSeq = n)
    | none => false)
  || (h.copies.any fun c => c.parked && c.parkHost && decide (c.parkSeq = n))
  || (match h.dueTrap with
    | some (c, _, m) => decide (c = .hostpage ∧ m = n)
    | none => false)

/-- A host page becomes present for a function, with the permission asked for beside those it has. -/
def makePresent (c : Ctx) (q : PageReq) : Ctx :=
  let page := q.addr / 4096
  let had := c.hostPages.any fun x => decide (x.1 = page) && x.2.2
  { c with hostPages := (page, true, q.write || had) :: c.hostPages.filter fun x => x.1 ≠ page }

/-- PRG_RESPONSE (R365, R403): a response frees its request's allocation and index; Success means that the page is present; a failure stops
the gangs whose accesses are parked on that record, running or saved. Nothing resumes by it. -/
def execPrgResponse (fn idx : Nat) (ok : Bool) (s : State) : Host.Outcome State Fault Refusal :=
  let t := fnTenant fn
  let c := ctxOf s t
  match c.prq.find? (fun q => q.sent && decide (q.idx = idx)) with
  | none => .next s
  | some q =>
    let c1 := { c with prq := sendWaiting c.prAlloc [] (c.prq.filter fun x => !(x.sent && decide (x.idx = idx))) }
    let s1 := modCtx s t (fun _ => if ok then makePresent c1 q else c1)
    if ok then .next s1
    else
      let s2 := ((allShuttles s1).filter fun h => decide (h.tenant = t ∧ h.life ≠ .idle) && parkedOn h q.seqno).foldl
        (fun st h => requestStop st h.team true) s1
      .next ((s2.loom.gangs.filter fun g => decide (g.tenant = t ∧ g.state = .saved) && g.saved.any fun v => parkedOn v.shuttle q.seqno).foldl
        (fun st g => restate st g true) s2)

/-- Does a shuttle hold an access to a host page between its issue and its completion (R412)? -/
def usesHostPage (h : Shuttle) (page : Nat) : Bool :=
  let there (l : Loc) : Bool := match l with
    | .host a => decide (a / 4096 = page)
    | _ => false
  (h.stores.any fun x => there x.loc) || (h.holdBuf.any fun x => there x.loc)
    || h.copies.any fun c => c.fly.any fun f => f.dst.any fun d => there d.1

/-- ATS_INVALIDATION (R412): the ATC drops a page once every access that used its entry has completed. Whether the host still translates
the page is the host's affair, and left free. -/
def execAtsInvalidation (fn page : Nat) (s : State) : Host.Outcome State Fault Refusal :=
  let t := fnTenant fn
  if (allShuttles s).any fun h => decide (h.tenant = t) && usesHostPage h page then .next s
  else
    let keep := Config.chooseStale s.fresh
    .next (modCtx (bump s) t (fun c => { c with
      atc := c.atc.filter fun x => x.1 ≠ page
      hostPages := if keep then c.hostPages else c.hostPages.filter fun x => x.1 ≠ page }))

/-! ### The decode aperture (R229, R409) -/

/-- A reply to the host: 0 data, 1 Completer Abort, 2 data with the poisoned-data indication, 3 dropped. -/
def reply (s : State) (status : Nat) (bs : List Byte) : State := modModule s (fun m => { m with hostStatus := status, hostReply := bs })

/-- The aperture offset of a BAR4 offset (R410). -/
def apertureOff (s : State) (fn off : Nat) : Nat := (ctxOf s (fnTenant fn)).apwin % 2 ^ 24 * 2 ^ 40 + off % 2 ^ 40

/-- The record of a host access, of engine 5 (R373). -/
def hostRecord (s : State) (fn : Nat) (code : Code) (obj va aux : Nat) : State :=
  (postRec s (decide (fn = 0)) (fnTenant fn)
    { code := code, eng := 5, tenant := fnTenant fn, obj := obj, va := va, aux := aux }).1

/-- Bytes read for a function at their homes; a place outside device memory is no translation. -/
def hostRead (s : State) (q : Asker) (va n : Nat) : State × Except Code (List Byte × Bool) :=
  match resolveAll s q .load va n with
  | (s1, .error x) => (s1, .error (if x.code = .hostpage ∨ x.code = .bounds then .xlate else x.code))
  | (s1, .ok ps) =>
    if ps.any (fun p => match p.1 with
      | .dev _ => false
      | _ => true) then (s1, .error .xlate)
    else
      let (s2, bs, bad) := ps.foldl (fun (acc : State × List Byte × Bool) p =>
        let (t, more, bad) := readAt acc.1 { q with home := true } p.1 p.2.1 p.2.2
        (t, acc.2.1 ++ more, acc.2.2 || bad)) (s1, [], false)
      (s2, .ok (bs, bad))

/-- One weight of a twill object through the aperture (R226, R227): its BF16 bytes and poison, or the code of its failure. A poisoned record
gives no weight: bytes that are left open, delivered as poisoned. The record and the weight's number are tested before the segment is translated
(DESIGN CHOICE, log entry 122). -/
def apertureWeight (s : State) (q : Asker) (e : BitVec 256) (seg wgt : Nat) : State × Except Code (List Byte × Bool) :=
  if Obj.size e < 48 * seg + 48 then (s, .error .bounds)
  else match hostRead s { q with coded := false } (Obj.scaleBase e + seg * Obj.scaleStride e) 2 with
    | (s1, .error c) => (s1, .error c)
    | (s1, .ok (r, bad)) =>
      let ex := (r.getD 0 0).toNat
      let b1 := (r.getD 1 0).toNat
      if bad then (bump s1, .ok (garbage s1 2, true))
      else if !twRecordOk ex b1 then (s1, .error .illegal)
      else match twN b1 with
        | none => (s1, .error .illegal)
        | some n =>
          if n ≤ wgt then (s1, .error .bounds)
          else match hostRead s1 q (Obj.base e + 48 * seg) 48 with
            | (s2, .error c) => (s2, .error c)
            | (s2, .ok (w, bad2)) =>
              (s2, .ok (bytesOf 2 (roundTo 0 .bf16 .rne (twDecode (natOfBytes w) b1 ex wgt)).1, bad || bad2))

/-- APERTURE_READ (R229): consecutive weights as BF16, or Completer Abort with a record. -/
def execApertureRead (fn off len : Nat) (s : State) : Host.Outcome State Fault Refusal :=
  if fn = 0 ∨ fnStopped s fn then .next (reply s 3 [])
  else
    let t := fnTenant fn
    let a := apertureOff s fn off
    let obj := bitsOf a 63 48
    let seg := bitsOf a 47 10
    let wgt := bitsOf a 9 1
    let (s0, en) := objEntry s t obj
    let abort (st : State) (c : Code) (aux : Nat) : Host.Outcome State Fault Refusal := .next (reply (hostRecord st fn c obj a aux) 1 [])
    match en with
    | none => abort s0 .rights 0
    | some e =>
      if !(Obj.usable e && useOk e .streamTw) then abort s0 .rights (Obj.rowlen e)
      else if a % 2 ≠ 0 ∨ ¬ (len = 2 ∨ len = 4 ∨ len = 8) ∨ a % len ≠ 0 then abort s0 .bounds (Obj.rowlen e)
      else
        let q : Asker := { tenant := t, shuttle := false, coded := true }
        let got := (List.range (len / 2)).foldl (fun (acc : State × Except Code (List Byte × Bool)) i =>
          match acc with
          | (u, .error c) => (u, .error c)
          | (u, .ok (bs, bad)) =>
            match apertureWeight u q e seg (wgt + i) with
            | (v, .error c) => (v, .error c)
            | (v, .ok (w, bad2)) => (v, .ok (bs ++ w, bad || bad2))) (s0, .ok ([], false))
        match got with
        | (s1, .error c) => abort s1 c (Obj.rowlen e)
        | (s1, .ok (bs, bad)) => .next (reply s1 (if bad then 2 else 0) bs)

/-- APERTURE_WRITE (R229): dropped, with CODEDWRITE; AUX is the object's ROWLEN (R373). -/
def execApertureWrite (fn off : Nat) (s : State) : Host.Outcome State Fault Refusal :=
  if fn = 0 ∨ fnStopped s fn then .next (reply s 3 [])
  else
    let obj := bitsOf (apertureOff s fn off) 63 48
    let (s1, e) := objEntry s (fnTenant fn) obj
    .next (hostRecord s1 fn .codedwrite obj (apertureOff s fn off) (e.elim 0 Obj.rowlen))

/-! ### Host and peer accesses to device memory (R228, R292, R302, R314, R410) -/

/-- Where a run of device memory lies for a function: physical for the management function (R410). -/
def barPieces (s : State) (fn : Nat) (q : Asker) (use : Use) (va n : Nat) : State × Except Trouble (List (Loc × Policy × Nat)) :=
  if fn = 0 then
    if va + n ≤ Config.physTiles * 6144 then
      (if use ≠ .load ∧ guardedLine s va n then (s, .error { code := .rights, va := va }) else (s, .ok [(.dev va, {}, n)]))
    else (s, .error { code := .xlate, va := va })
  else match resolveAll s q use va n with
    | (s1, .error x) => (s1, .error x)
    | (s1, .ok ps) =>
      if ps.any (fun p => inFabric p.1) then (s1, .error { code := .xlate, va := va })
      else (s1, .ok ps)

/-- The record of a fault that a host access meets, and the Page Request of a host page (R365, R371). -/
def barFault (s : State) (fn va : Nat) (x : Trouble) : State :=
  let t := fnTenant fn
  let (s1, n) := postRec s (decide (fn = 0)) t { code := x.code, eng := 5, tenant := t, obj := 0xFFFF, va := va, aux := x.aux }
  if x.code = .hostpage then modCtx s1 t (fun c => sendPrq c { addr := x.aux, idx := n % 512, seqno := n, write := x.write }) else s1

/-- HOST_BAR_ACCESS (R302): at the L2 homes, in home order. A read of a CODED page is aborted and a write of one dropped, each with a record
(R228); so is a write to a tier map line that a CLIMB launch holds still (R314). -/
def execHostBarAccess (fn va : Nat) (op : HostOp) (s : State) : Host.Outcome State Fault Refusal :=
  if fnStopped s fn then .next (reply s 3 [])
  else
    let q : Asker := { tenant := fnTenant fn, shuttle := false, own := decide (fn = 0) }
    match op with
    | .read n =>
      match barPieces s fn q .load va n with
      | (s1, .error x) => .next (reply (barFault s1 fn va x) 1 [])
      | (s1, .ok ps) =>
        let (s2, bs, bad) := ps.foldl (fun (acc : State × List Byte × Bool) p =>
          let (t, more, bad) := readAt acc.1 { q with home := true } p.1 p.2.1 p.2.2
          (t, acc.2.1 ++ more, acc.2.2 || bad)) (s1, [], false)
        .next (reply s2 (if bad then 2 else 0) bs)
    | .write bs =>
      match barPieces s fn q .store va bs.length with
      | (s1, .error x) => .next (barFault s1 fn va x)
      | (s1, .ok ps) => .next (ps.foldl (fun (acc : State × List Byte) p =>
          (writeAt acc.1 q p.1 p.2.1 (acc.2.take p.2.2) false, acc.2.drop p.2.2)) (s1, bs)).1

/-! ### Registers (R409, R410, R412) -/

/-- ACCEPT_WRITE (R6, R410): bits not in FEATURES are ignored, and the write is ignored after the first admission. -/
def execAcceptWrite (v : Word) (s : State) : Host.Outcome State Fault Refusal :=
  if s.loom.firstAdmitted ∨ !s.module.presented then .next s else .next (modModule s (fun m => { m with accept := v.setWidth 4 &&& s.module.features }))

/-- TDISP_STATE_CHANGE (R412). -/
def execTdispStateChange (fn : Nat) (run : Bool) (s : State) : Host.Outcome State Fault Refusal :=
  if fn = 0 ∨ 256 < fn then .next s else .next (modCtx s (fnTenant fn) (fun c => { c with tdispRun := run }))

end Sys2Proof.Machine
end

