-- ==== Sys2Proof/Machine/Mgmt.lean ====
section
/-! DEFINITION. The management request ring and its fifteen requests (R284, R323, R332, R377, R379, R386, R392, R395, R398, R404, R410, R411,
R413, R418). Each happening handles the request at REQHEAD when that is its own. -/
namespace Sys2Proof.Machine

/-! ### The ring (R410, R411) -/

/-- The physical address of the request at REQHEAD. -/
def reqAddr (s : State) : Nat := s.module.reqBase.toNat + 64 * (s.module.reqHead % 256)
/-- The bytes of the request at REQHEAD; none where every request is complete. -/
def curReq (s : State) : Option (List Byte) :=
  if s.module.reqHead = s.module.reqTail then none else some (memRead s.mem.home (reqAddr s) 64)
/-- Operand i of a request, counted from 1. -/
def operand (r : List Byte) (i : Nat) : Nat := natOfBytes ((r.drop (8 * i)).take 8)
/-- Are bytes from a to below b all 0? -/
def zeroBytes (r : List Byte) (a b : Nat) : Bool := ((r.drop a).take (b - a)).all fun x => x = 0

/-- Bytes written at a management address, as the owner of the tile they reach (R377, R410). -/
def fnPutBytes (s : State) (a : Nat) (bs : List Byte) : State := putHome s 0 true a bs false

/-- A request completed: its results, its status, and REQHEAD past it. -/
def finishReq (s : State) (status : Nat) (results : List (Nat × List Byte)) : State :=
  let a := reqAddr s
  let s1 := results.foldl (fun st x => fnPutBytes st (a + x.1) x.2) s
  modModule (fnPutBytes s1 (a + 1) (bytesOf 1 status)) (fun m => { m with reqHead := (m.reqHead + 1) % 2 ^ 32, asked := false })

/-- Leading requests of a code that no request has complete as malformed (R411). -/
def skipUnknown : Nat → State → State
  | 0, s => s
  | n + 1, s =>
    match curReq s with
    | none => s
    | some r =>
      let code := (r.headD 0).toNat
      if 1 ≤ code ∧ code ≤ 15 then s else skipUnknown n (finishReq s 2 [])

/-- What a request comes to: it waits, or completes with a status and results. -/
inductive ReqRes where
  | wait (s : State)
  | done (s : State) (status : Nat) (results : List (Nat × List Byte))

/-- The request at REQHEAD, where it has a code: read at its home; malformed where a reserved byte is set or it is poisoned (log entry 123), else as
the request's meaning says. -/
def mgmtReq (code : Nat) (reserved : List Byte → Bool) (f : List Byte → State → ReqRes) (s : State) : Host.Outcome State Fault Refusal :=
  match curReq s with
  | none => .next s
  | some r =>
    if (r.headD 0).toNat ≠ code then .next s
    else
      let (s1, _, bad) := devRead s 0 true (reqAddr s) 64 {}
      let res := if !bad && zeroBytes r 2 8 && reserved r then f r s1 else .done s1 2 []
      match res with
      | .wait t => .next t
      | .done t status results => .next (skipUnknown 256 (finishReq t status results))

/-- A request with operands in its first n places and 0 after them. -/
def tailZero (n : Nat) (r : List Byte) : Bool := zeroBytes r (8 + 8 * n) 64
/-- A completed request without results. -/
def reqStatus (s : State) (status : Nat) : ReqRes := .done s status []
/-- A tenant that exists (R409). -/
def tenantOk (t : Nat) : Bool := decide (t < 256)
/-- Does a run of bytes lie in device memory (R410)? -/
def inDevice (a n : Nat) : Bool := decide (a + n ≤ Config.physTiles * 6144)

/-! ### Microcode slots: 0x01 and 0x02 (R332) -/

/-- The words of a near-data body with their places, from a first line on, in chain order; none where a line is no line of such a body. -/
def ndWords (s : State) (h : Shuttle) : Nat → Nat → Nat → Option (List (IWord × Nat × Nat))
  | 0, _, _ => none
  | fuel + 1, line, n =>
    match (if h.kern.lines ≤ line then none else peekLine s h line) with
    | none => none
    | some l =>
      if breach l 4 then none
      else
        let k := Nat.min n (Link.slots l)
        let mine := (List.range k).map fun i => (slotWord l i, line, i)
        if n ≤ k then some mine
        else if Link.last l then none
        else (ndWords s h fuel (Link.next l) (n - k)).map fun rest => mine ++ rest

/-- One near-data body of a kernel as a slot's contents: its body record, its climb points, its layout (R75, R81, R87, R332). -/
def loadBody (s : State) (t kobj slot : Nat) (k : Kern) (hd : List Byte) (i : Nat) : Option MSlot :=
  let f (l : List Byte) (a n : Nat) : Nat := natOfBytes ((l.drop a).take n)
  match homeBytes s t (k.base + f hd 36 4 + 16 * i) 16 with
  | none => none
  | some b =>
    let tier := f b 0 1
    let count := f b 8 4
    if !(decide (1 ≤ tier ∧ tier ≤ 3) && decide (1 ≤ count ∧ count ≤ 4096) && zeroBytes b 1 4 && zeroBytes b 12 16) then none
    else
      let h : Shuttle := { place := ⟨0, 0⟩, tenant := t, kern := k }
      match ndWords s h (count + 1) (f b 4 4) count with
      | none => none
      | some ws =>
        let cl := k.base + f hd 28 4
        let points := (List.range (f hd 34 2)).filterMap fun j =>
          (homeBytes s t (cl + 16 * f hd 32 1 + 16 * j) 16).bind fun p =>
            (ws.findIdx? fun w => w.2.1 = f p 8 4 && w.2.2 = f p 2 1).map fun w => (w, f p 1 1)
        let layout := firstSome (fun j => (homeBytes s t (cl + 16 * j) 16).bind fun p =>
          if f p 0 1 = tier then some (f p 1 1, f p 2 1, f p 3 1, f p 4 1) else none) (List.range (f hd 32 1))
        some { tierM := decide (tier % 2 = 1), tierS := decide (2 ≤ tier), slot := slot, tenant := t, kobj := kobj, words := ws.map (·.1),
               pos := ws.map (·.2), climbs := points, layout := layout.getD (0, 0, 0, 0) }

/-- The near-data bodies of a kernel object as the contents of a slot; none where the object is unusable or a body is malformed. -/
def loadBodies (s : State) (t kobj slot : Nat) : Option (List MSlot) :=
  match plainObj s t kobj 6 64 with
  | none => none
  | some e =>
    match kernHeader s t kobj e with
    | none => none
    | some (k, hd) =>
      let n := (hd.getD 40 0).toNat
      if !(kernHeaderOk k hd (Obj.size e)) ∨ n = 0 then none
      else (List.range n).foldr (fun i acc => match loadBody s t kobj slot k hd i, acc with
        | some b, some l => some (b :: l)
        | _, _ => none) (some [])

/-- Words that the microcode tables of a tier hold outside a slot. -/
def tableWords (s : State) (m : Bool) (slot : Nat) : Nat :=
  ((s.slots.filter fun x => x.slot ≠ slot && (if m then x.tierM else x.tierS)).map (·.words.length)).foldl (· + ·) 0
/-- Do bodies fit the 16,384 words of each table (R332)? -/
def tablesHold (s : State) (slot : Nat) (l : List MSlot) : Bool :=
  let words (m : Bool) : Nat := ((l.filter fun x => if m then x.tierM else x.tierS).map (·.words.length)).foldl (· + ·) 0
  decide (tableWords s true slot + words true ≤ 16384 ∧ tableWords s false slot + words false ≤ 16384)

/-- Are kicks that name a slot outstanding? -/
def slotBusy (s : State) (slot : Nat) : Bool := (allKicks s).any fun k => k.desc.slot = slot
/-- A slot that a load or free waits for: its kicks are refused from now on. -/
def closeSlot (s : State) (slot : Nat) : State := { s with slots := s.slots.map fun x => if x.slot = slot then { x with closing := true } else x }
/-- A slot's contents replaced. -/
def putSlot (s : State) (slot : Nat) (l : List MSlot) : State := { s with slots := l ++ s.slots.filter fun x => x.slot ≠ slot }

/-- The bodies that a load under way has taken set, or none. -/
def setLoad (s : State) (l : Option (List MSlot)) : State := modModule s (fun m => { m with loading := l })
/-- The bodies of a load: those it took when it was taken, where it waits for kicks, or those of the kernel object now (R332). -/
def takenLoad (s : State) (t kobj slot : Nat) : Option (List MSlot) :=
  match s.module.loading with
  | some l => some l
  | none => loadBodies s t kobj slot

/-- LOAD_MICROCODE_SLOT (R332): a load that waits for the kicks of its slot keeps the bodies it took. -/
def execLoadMicrocodeSlot (s : State) : Host.Outcome State Fault Refusal :=
  mgmtReq 1 (tailZero 3) (fun r t =>
    let kobj := operand r 1
    let ten := operand r 2
    let slot := operand r 3
    if 65536 ≤ kobj then reqStatus t 2
    else if !tenantOk ten ∨ 256 ≤ slot then reqStatus t 1
    else match takenLoad t ten kobj slot with
      | none => reqStatus t 1
      | some l =>
        if !tablesHold t slot l then reqStatus (setLoad t none) 1
        else if slotBusy t slot then .wait (setLoad (closeSlot t slot) (some l))
        else reqStatus (setLoad (putSlot t slot l) none) 0) s

/-- FREE_MICROCODE_SLOT (R332). -/
def execFreeMicrocodeSlot (s : State) : Host.Outcome State Fault Refusal :=
  mgmtReq 2 (tailZero 3) (fun r t =>
    let ten := operand r 2
    let slot := operand r 3
    if operand r 1 ≠ 0 then reqStatus t 2
    else if !(t.slots.any fun x => decide (x.slot = slot ∧ x.tenant = ten)) then reqStatus t 1
    else if slotBusy t slot then .wait (closeSlot t slot)
    else reqStatus (putSlot t slot []) 0) s

/-! ### Seal tiles and generations: 0x03 and 0x04 (R377, R379) -/

/-- The last writer of a dirty sector: the tenant its L2 line remembers, or the owner of its tile. -/
def sectorWriter (m : MemSys) (k : Nat) : Option Nat :=
  match m.l2.find? (fun x => k ∈ x.dirty) with
  | some x => some x.writer
  | none => if m.msc.any (fun x => k ∈ mscDirty x) then some (sealMeta m (k / 128)).owner else none

/-- Tiles assigned to a tenant (R377): unsealed, VERSION and GEN kept. What neither L2 nor MSC holds reads zeros, and what they hold clean once they
hold it no more; a later seal of what another tenant wrote there fails (R385). -/
def assignTiles (s : State) (first n t : Nat) : State :=
  let inRange (T : Nat) : Bool := decide (first ≤ T ∧ T < first + n)
  let m := s.mem
  let dirty := (((m.l2.flatMap (·.dirty)) ++ (m.msc.flatMap mscDirty)).filter fun k => inRange (k / 128)).eraseDups
  let cached : List Nat := ((m.l2.map fun (x : L2Line) => x.line / 32) ++ m.msc.map (·.tile)).eraseDups.filter inRange
  let held := dirty ++ cached.flatMap (heldIn m)
  let others := dirty.filterMap fun k => match sectorWriter m k with
    | some w => if w = t then none else some (k, w)
    | none => none
  let late := others.flatMap fun x => (List.range 48).map fun i => (48 * x.1 + i, x.2, (0 : Byte))
  { s with mem := { m with
      home := m.home.filter fun c => !inRange (c.1 / 6144) || decide (c.1 / 48 ∈ held)
      poison := m.poison.filter fun k => !inRange (k / 128) || decide (k ∈ held)
      stale := (m.stale.filter fun k => !inRange (k / 128)) ++ held.filter fun k => k ∉ dirty
      cleaned := m.cleaned.filter fun c => !inRange c.tile
      tampered := m.tampered.filter fun q => !inRange q.1
      stalled := m.stalled.filter fun T => !inRange T
      foreign := late ++ m.foreign.filter fun x => !inRange (x.1 / 6144)
      seals := (List.range n).foldl (fun l i => assocSet l (first + i) { sealMeta m (first + i) with state := 0, owner := t }) m.seals } }

/-- ASSIGN_SEAL_TILES (R377). -/
def execAssignSealTiles (s : State) : Host.Outcome State Fault Refusal :=
  mgmtReq 3 (tailZero 3) (fun r t =>
    if Config.physTiles < operand r 1 + operand r 2 then reqStatus t 2
    else if !tenantOk (operand r 3) then reqStatus t 1
    else reqStatus (assignTiles t (operand r 1) (operand r 2) (operand r 3)) 0) s

/-- A pair's next generation armed, and rolled to at once where that is asked for (R379). -/
def armPair (p : Pair) (roll : Bool) : Pair :=
  if roll then { p with cur := (p.cur + 1) % 16, old := some p.cur, armed := false } else { p with armed := true }

/-- ARM_NEXT_GENERATION (R379): while OLD exists the request waits for it to cease (R411, R419). -/
def execArmNextGeneration (s : State) : Host.Outcome State Fault Refusal :=
  mgmtReq 4 (tailZero 3) (fun r t =>
    if 510 ≤ operand r 2 ∨ 2 ≤ operand r 3 then reqStatus t 2
    else if !tenantOk (operand r 1) then reqStatus t 1
    else if (pairOf t.mem (operand r 1) (operand r 2)).old.isSome then .wait t
    else reqStatus (modMem t (fun m => modPair m (operand r 1) (operand r 2) (fun p => armPair p (decide (operand r 3 = 1))))) 0) s

/-! ### Quotas: 0x05 and 0x06 (R323) -/

/-- READ_QUOTA_RECORD (R323). -/
def execReadQuotaRecord (s : State) : Host.Outcome State Fault Refusal :=
  mgmtReq 5 (fun r => zeroBytes r 40 64) (fun r t =>
    if 5 ≤ operand r 2 then reqStatus t 2
    else if !tenantOk (operand r 1) then reqStatus t 1
    else
      let q := quotaOf t (operand r 1) (operand r 2)
      .done t 0 [(24, bytesOf 8 q.limit), (32, bytesOf 8 q.charged)]) s

/-- WRITE_QUOTA_RECORD (R323): the charge stands, whatever the new limit. -/
def execWriteQuotaRecord (s : State) : Host.Outcome State Fault Refusal :=
  mgmtReq 6 (tailZero 3) (fun r t =>
    if 5 ≤ operand r 2 then reqStatus t 2
    else if !tenantOk (operand r 1) then reqStatus t 1
    else reqStatus (modQuota t (operand r 1) (operand r 2) (fun q => { q with limit := operand r 3 })) 0) s

/-! ### Queues and aging: 0x07 and 0x08 (R386, R392, R395) -/

/-- SET_QUEUE (R386, R392). -/
def execSetQueue (s : State) : Host.Outcome State Fault Refusal :=
  mgmtReq 7 (tailZero 4) (fun r t =>
    let fn := operand r 1
    let q := operand r 2
    let base := operand r 3
    let depth := operand r 4
    let task := decide (q = 64)
    if 256 < fn ∨ 64 < q ∨ (task ∧ fn = 0) ∨ (task ∧ ¬ (256 ≤ depth ∧ depth ≤ 65536)) ∨ (!task ∧ depth ≠ 0) ∨ base % 64 ≠ 0
        ∨ (fn = 0 ∧ !inDevice base 64) then reqStatus t 2
    else if task then reqStatus (modCtx t (fnTenant fn) (fun c => { c with taskBase := base, taskDepth := depth })) 0
    else reqStatus (modLoom t (fun l => { l with
      queues := upsert l.queues (fun x => x.fn = fn && x.q = q) (fun x => { x with base := base }) { fn := fn, q := q } })) 0) s

/-- SET_AGING_THRESHOLDS (R395). -/
def execSetAgingThresholds (s : State) : Host.Outcome State Fault Refusal :=
  mgmtReq 8 (tailZero 2) (fun r t =>
    reqStatus (modLoom t (fun l => { l with ageNormal := operand r 1, ageBulk := operand r 2 })) 0) s

/-! ### Gangs and launches: 0x09 to 0x0C (R398, R404) -/

/-- The gang of a tenant and a TEAMID. -/
def gangNamed (s : State) (t team : Nat) : Option Gang := (gangOf s team).bind fun g => if g.tenant = t then some g else none

/-- A request to stop a gang that is on its tiles, for good or not: asked once, it waits until the gang is saved, or ends, before it is done (R411). -/
def askedStop (s : State) (g : Gang) (stop : Bool) : ReqRes :=
  if s.module.asked then (if g.state = .stopping then .wait s else reqStatus s 0)
  else .wait (modModule (requestStop s g.team stop) (fun m => { m with asked := true }))

/-- PREEMPT_GANG (R398): a gang that holds no tiles is pre-empted already. -/
def execPreemptGang (s : State) : Host.Outcome State Fault Refusal :=
  mgmtReq 9 (tailZero 2) (fun r t =>
    match gangNamed t (operand r 1) (operand r 2) with
    | none => reqStatus t (if t.module.asked then 0 else 1)
    | some g => if g.state = .saved ∨ g.state = .stopped then reqStatus t 0 else askedStop t g false) s

/-- STOP_GANG (R404): a running gang is asked to stop for good; a pre-empted one is no longer queued. -/
def execStopGang (s : State) : Host.Outcome State Fault Refusal :=
  mgmtReq 10 (tailZero 2) (fun r t =>
    match gangNamed t (operand r 1) (operand r 2) with
    | none => reqStatus t (if t.module.asked then 0 else 1)
    | some g =>
      if g.state = .saved then reqStatus (restate t g true) 0
      else if g.state = .stopped then reqStatus t 0
      else askedStop t g true) s

/-- RESUME_STOPPED_GANG (R404): a stopped gang queued again. -/
def execResumeStoppedGang (s : State) : Host.Outcome State Fault Refusal :=
  mgmtReq 11 (tailZero 2) (fun r t =>
    match gangNamed t (operand r 1) (operand r 2) with
    | none => reqStatus t 1
    | some g => if g.state = .stopped then reqStatus (restate t g false) 0 else reqStatus t 1) s

/-- A gang discarded: its shuttles and their parked copies are gone, its stream bandwidth and pins are returned; the kick of a team started
from a record completes (R404). -/
def discardGang (s : State) (g : Gang) : State :=
  let mine := s.promos.filter fun x => x.team = g.team && x.stream ≠ 0
  let s1 := mine.foldl (fun st x => unchargeFor st x.tenant x.launch 3 x.stream) s
  let s2 := { s1 with promos := s1.promos.map fun x => if x.team = g.team then { x with stream := 0 } else x }
  let s3 := vacate (unpinTeam s2 g.tenant g.team (fun _ => true)) g
  let s4 := modLoom s3 (fun m => { m with gangs := m.gangs.filter fun x => x.team ≠ g.team })
  if g.fromRecord then completeAway s4 g.team else s4

/-- A launch ended (R404): gangs and queued teams discarded, pins, reservations and charges returned, no completion counted. Its outstanding
kicks complete by themselves; where the launch reserved, what they drew is returned with the reservation. -/
def discardLaunch (s : State) (l : Launch) : State :=
  let s1 := (s.loom.gangs.filter fun g => g.launch = l.id).foldl discardGang s
  let s2 := returnReservation (restorePromos s1 l) l
  let settle (k : Kick) : Kick := if k.launch = l.id ∧ l.reserve then { k with charge := 0 } else k
  let settleUnit (u : NdUnit) : NdUnit := { u with queue := u.queue.map settle, body := u.body.map fun b => { b with kick := settle b.kick } }
  let s3 := { s2 with
    nd := settleUnit s2.nd
    otherNd := s2.otherNd.map settleUnit
    away := s2.away.map fun x => ({ x.1 with kick := settle x.1.kick }, x.2) }
  let s4 := if headLaunch s3 l.fn l.q = some l then modQueue s3 l.fn l.q freshHead else s3
  modLoom s4 (fun m => { m with
    launches := m.launches.filter fun x => x.id ≠ l.id
    holds := m.holds.filter fun h => h.2 ≠ l.id })

/-- END_LAUNCH (R404). -/
def execEndLaunch (s : State) : Host.Outcome State Fault Refusal :=
  mgmtReq 12 (tailZero 3) (fun r t =>
    if 64 ≤ operand r 2 ∨ 2 ^ 32 ≤ operand r 3 then reqStatus t 2
    else match t.loom.launches.find? (fun l => !l.task && decide (l.fn = operand r 1 ∧ l.q = operand r 2 ∧ l.index = operand r 3)) with
      | none => reqStatus t 1
      | some l => reqStatus (discardLaunch t l) 0) s

/-! ### The stock deck: 0x0D (R284) -/

/-- A pattern entry of its fields (R273). -/
def patWord (op ign : Nat) (slots : List Nat) : Nat :=
  op + ign * 2 ^ 10 + (slots.zipIdx.map fun x => x.1 * 2 ^ (16 + 8 * x.2)).foldl (· + ·) 0
/-- A replacement entry whose first slots are all substituted (R274). -/
def repWord (op tlow : Nat) (slots : List Nat) : Nat :=
  op + tlow * 2 ^ 12 + (2 ^ slots.length - 1) * 2 ^ 13 + (slots.zipIdx.map fun x => x.1 * 2 ^ (58 - 10 * x.2)).foldl (· + ·) 0
/-- A card of its header and entries, ENABLE set (R272). -/
def cardWord (cls eng ulp : Nat) (pats : List Nat) (rep : Nat) : BitVec 512 :=
  BitVec.ofNat 512 (1 + cls * 2 + eng * 8 + (pats.length - 1) * 16 + ulp * 256
    + (pats.zipIdx.map fun x => x.1 * 2 ^ (32 + 64 * x.2)).foldl (· + ·) 0 + rep * 2 ^ 288)

/-- The patterns of cards 3 and 4: two `acc.scale` with the same first four operands, of a KIND of factors. -/
def scalePats (kind : Nat) : List Nat :=
  [patWord 0x3D9 0 [0x01, 0x02, 0x03, 0x04, 16 * kind + 5], patWord 0x3D9 0 [0x01, 0x02, 0x03, 0x04, 16 * kind + 6]]
/-- The replacement of cards 3 and 4: one scale by the product of the factors. -/
def scaleRep : Nat := repWord 0x3D9 0 [1, 2, 3, 4, 64 + 8 * 6 + 5]

/-- The five cards of the stock deck (R284), as R282 builds them: trn_ld, trn_pair, neg_abs, scale_fold, scale_round. -/
def stockCards : List (BitVec 512) :=
  [cardWord 3 0 0 [patWord 0x2A0 0 [0x11, 0x32, 0x70, 0x70, 0x70], patWord 0x2A0 0 [0x01, 0x01, 0x70, 0x70, 0x70]] (repWord 0x299 0 [1, 2]),
   cardWord 0 0 0 [patWord 0x2A0 2 [0x11, 0x12, 0x70, 0x70, 0x70], patWord 0x2A0 2 [0x01, 0x01, 0x70, 0x70, 0x70]] (repWord 0x298 0 [1, 2]),
   cardWord 0 0 0 [patWord 0x188 3 [0x11, 0x02, 0x70, 0x70, 0x70], patWord 0x180 3 [0x01, 0x01, 0x70, 0x70, 0x70]] (repWord 0x180 1 [1, 2]),
   cardWord 0 1 0 (scalePats 5) scaleRep,
   cardWord 1 1 2 (scalePats 6) scaleRep]

/-- COPY_STOCK_DECK (R284). -/
def execCopyStockDeck (s : State) : Host.Outcome State Fault Refusal :=
  mgmtReq 13 (tailZero 1) (fun r t =>
    if operand r 1 % 64 ≠ 0 ∨ !inDevice (operand r 1) 320 then reqStatus t 2
    else .done (fnPutBytes t (operand r 1) (stockCards.flatMap fun c => bytesOf 64 c.toNat)) 0 []) s

/-! ### Fabric windows: 0x0E (R413) -/

/-- WRITE_FABRIC_WINDOW (R413). -/
def execWriteFabricWindow (s : State) : Host.Outcome State Fault Refusal :=
  mgmtReq 14 (fun r => zeroBytes r 28 32 && zeroBytes r 48 64) (fun r t =>
    let f (a n : Nat) : Nat := natOfBytes ((r.drop a).take n)
    let x : Window := { peer := f 24 2, ports := f 26 1, zone := decide (f 27 1 = 1), base := f 32 8, size := f 40 8 }
    if 64 ≤ operand r 2 ∨ 2 ≤ f 27 1 ∨ 2 ^ 56 ≤ x.base ∨ 2 ^ 40 < x.size then reqStatus t 2
    else if !tenantOk (operand r 1) then reqStatus t 1
    else reqStatus (modCtx t (operand r 1) (fun c => { c with windows := assocSet c.windows (operand r 2) x })) 0) s

/-! ### Attestation: 0x0F (R418) -/

/-- Bytes 0 to 255 of a report (R418). -/
def reportBytes (s : State) (nonce : List Byte) : List Byte :=
  bytesOf 4 1 ++ nonce ++ bytesOf 64 Config.firmwareMeasurement.toNat ++ bytesOf 64 Config.configMeasurement.toNat
    ++ bytesOf 8 s.module.accept.toNat ++ bytesOf 2 0 ++ List.replicate 82 0

/-- ATTESTATION_REPORT (R418): the report, and the signature over it, which the manual's key makes a free value. -/
def execAttestationReport (s : State) : Host.Outcome State Fault Refusal :=
  mgmtReq 15 (fun r => zeroBytes r 48 64) (fun r t =>
    let body := reportBytes t ((r.drop 16).take 32)
    if operand r 1 % 8 ≠ 0 ∨ !inDevice (operand r 1) (256 + Config.signatureSize) then reqStatus t 2
    else .done (fnPutBytes t (operand r 1) (body ++ Config.attestationSignature (natOfBytes body))) 0 []) s

/-! ### Registers of no behaviour, and the start of requests (R410) -/

/-- REGISTER_WRITE (R375, R410): MGMTFQ, REQBASE, a function's APWIN, and REQTAIL, which starts the requests up to it. -/
def execRegisterWrite (r : ModReg) (v : Word) (s : State) : Host.Outcome State Fault Refusal :=
  if !s.module.presented then .next s
  else .next (match r with
    | .mgmtfq => modModule s (fun m => { m with mgmtFq := v })
    | .reqbase => modModule s (fun m => { m with reqBase := v })
    | .reqtail => skipUnknown 256 (modModule s (fun m => { m with reqTail := v.toNat % 2 ^ 32 }))
    | .apwin fn => if fn = 0 ∨ 256 < fn ∨ fnStopped s fn then s else modCtx s (fnTenant fn) (fun c => { c with apwin := v.toNat % 2 ^ 24 }))

end Sys2Proof.Machine
end

