-- ==== Sys2Proof/Machine/NdOps.lean ====
section
/-! DEFINITION. The arithmetic and the write-back slot of near-data words (R339 to R342). -/
namespace Sys2Proof.Machine

/-- What an arithmetic-slot operation does to the body on the unit in focus: a fault stops the body. -/
def arithSlot (f : Body → Except Code Body) (s : State) : Host.Outcome State Fault Refusal :=
  match s.nd.body with
  | none => .next s
  | some b =>
    match f b with
    | .ok b1 => .next (modBody s (fun _ => { b1 with phase := 3 }))
    | .error c => .next (bodyFault s 1 { code := c })

/-- `nop` of the arithmetic slot (R339). -/
def execNdNop (s : State) : Host.Outcome State Fault Refusal := arithSlot (fun b => .ok b) s
/-- `mov` (R339). -/
def execNdMov (x y : BitVec 8) (s : State) : Host.Outcome State Fault Refusal := arithSlot (fun b => .ok (setN b x (getN b y))) s
/-- `imm`: a BF16 value in all 16 lanes (R339). -/
def execImm (x y z : BitVec 8) (s : State) : Host.Outcome State Fault Refusal :=
  arithSlot (fun b => .ok (setN b x (nReg (List.replicate 16 (fldElem 1 (y.toNat * 256 + z.toNat))) 16))) s

/-- An element-wise operation: LEN is the least of the sources' (R339). -/
def ndLanes (b : Body) (x : BitVec 8) (srcs : List NReg) (f : List Nat → Nat × FpFlags) : Body :=
  let n := srcs.foldl (fun m r => Nat.min m r.len) 16
  let rs := (List.range n).map fun k => f (srcs.map fun r => nLane r k)
  raiseNd (setN b x (nReg (rs.map (·.1)) n)) (joinFlags (rs.map (·.2)))

/-- A floating operation on FP32 lanes. -/
def ndFloat (x : BitVec 8) (srcs : List (BitVec 8)) (f : List Nat → Nat × FpFlags) (s : State) : Host.Outcome State Fault Refusal :=
  arithSlot (fun b => .ok (ndLanes b x (srcs.map (getN b)) f)) s

/-- `abs` (R248, R339). -/
def execAbs (x y : BitVec 8) (s : State) : Host.Outcome State Fault Refusal :=
  ndFloat x [y] (fun vs => canonOr .f32 vs (vs.getD 0 0 % signBit .f32)) s
/-- `neg` (R248, R339). -/
def execNeg (x y : BitVec 8) (s : State) : Host.Outcome State Fault Refusal :=
  ndFloat x [y] (fun vs => canonOr .f32 vs ((vs.getD 0 0 + signBit .f32) % 2 ^ 32)) s
/-- `add`: round(y + z) (R339). -/
def execNdAdd (x y z : BitVec 8) (s : State) : Host.Outcome State Fault Refusal :=
  ndFloat x [y, z] (fun vs => roundedRne noTable .f32 ((fvArg .f32 vs 0).add (fvArg .f32 vs 1))) s
/-- `sub`: round(y − z) (R339). -/
def execNdSub (x y z : BitVec 8) (s : State) : Host.Outcome State Fault Refusal :=
  ndFloat x [y, z] (fun vs => roundedRne noTable .f32 ((fvArg .f32 vs 0).add (fvArg .f32 vs 1).negate)) s
/-- `mul`: round(y × z) (R339). -/
def execNdMul (x y z : BitVec 8) (s : State) : Host.Outcome State Fault Refusal :=
  ndFloat x [y, z] (fun vs => roundedRne noTable .f32 ((fvArg .f32 vs 0).mul (fvArg .f32 vs 1))) s
/-- `fma`: round(y × z + x), one rounding (R339). -/
def execFma (x y z : BitVec 8) (s : State) : Host.Outcome State Fault Refusal :=
  ndFloat x [y, z, x] (fun vs => roundedRne noTable .f32 (FV.fma false (fvArg .f32 vs 0) (fvArg .f32 vs 1) (fvArg .f32 vs 2))) s
/-- `max` (R248, R339). -/
def execNdMax (x y z : BitVec 8) (s : State) : Host.Outcome State Fault Refusal :=
  ndFloat x [y, z] (fun vs => canonOr .f32 vs (if (fvArg .f32 vs 0).leSigned (fvArg .f32 vs 1) then vs.getD 1 0 else vs.getD 0 0)) s
/-- `min` (R248, R339). -/
def execNdMin (x y z : BitVec 8) (s : State) : Host.Outcome State Fault Refusal :=
  ndFloat x [y, z] (fun vs => canonOr .f32 vs (if (fvArg .f32 vs 0).leSigned (fvArg .f32 vs 1) then vs.getD 0 0 else vs.getD 1 0)) s
/-- `cmp` (R250, R339). -/
def execNdCmp (cc : VecCc) (x : BitVec 5) (y z : BitVec 8) (s : State) : Host.Outcome State Fault Refusal :=
  ndFloat (x.setWidth 8) [y, z] (fun vs => (if vecTest cc .f32 (vs.getD 0 0) (vs.getD 1 0) then 0xFFFFFFFF else 0, 0)) s
/-- `sel` (R339). -/
def execSel (x y z : BitVec 8) (s : State) : Host.Outcome State Fault Refusal :=
  ndFloat x [x, y, z] (fun vs => (if vs.getD 0 0 ≠ 0 then vs.getD 1 0 else vs.getD 2 0, 0)) s
/-- `iadd`: modulo 2^32, with no flag (R339). -/
def execIadd (x y z : BitVec 8) (s : State) : Host.Outcome State Fault Refusal :=
  ndFloat x [y, z] (fun vs => ((vs.getD 0 0 + vs.getD 1 0) % 2 ^ 32, 0)) s

/-- The rounding mode of two bits (R54). -/
def rndOf (m : BitVec 2) : Rnd := (Rnd.ofCode m.toNat).getD .rne

/-- One lane of `cvt` (R339): INT32 to f32, f32 to INT32, or f32 through BF16 or FP16 under the captured table. -/
def cvtLane (o : OvfTable) (kind : Nat) (m : Rnd) (v : Nat) : Nat × FpFlags :=
  match kind with
  | 0 => roundTo noTable .f32 m (FV.ofInt (signedOf 32 v))
  | 1 => let r := fvToInt m (intLo true 32) (intHi true 32) (f32 v); (intBits 32 r.1, r.2)
  | 2 => let r := roundTo o .bf16 m (f32 v); (fldElem 1 r.1, r.2)
  | _ => let r := roundTo o .f16 m (f32 v); (fldElem 2 r.1, r.2)

/-- `cvt` (R339). -/
def execCvt (x y : BitVec 8) (m : BitVec 2) (k : BitVec 4) (s : State) : Host.Outcome State Fault Refusal :=
  arithSlot (fun b => .ok (ndLanes b x [getN b y] (fun vs => cvtLane b.kick.ovf k.toNat (rndOf m) (vs.getD 0 0)))) s
/-- `exp2` (R218, R339). -/
def execExp2 (x y : BitVec 8) (s : State) : Host.Outcome State Fault Refusal := ndFloat x [y] (fun vs => special .exp2 noTable .f32 (fvArg .f32 vs 0)) s
/-- `rcp` (R218, R339). -/
def execRcp (x y : BitVec 8) (s : State) : Host.Outcome State Fault Refusal := ndFloat x [y] (fun vs => special .rcp noTable .f32 (fvArg .f32 vs 0)) s

/-! ### dot, reed and rflush (R340) -/

/-- A register with one value in lane 0. -/
def nOne (v : Nat) : NReg := nReg [v] 1

/-- `dot`: the reed sum of the lanes' products (R187, R215, R340). -/
def execDot (x y z : BitVec 8) (s : State) : Host.Outcome State Fault Refusal :=
  arithSlot (fun b =>
    let p := getN b y
    let q := getN b z
    let ks := List.range (Nat.min p.len q.len)
    let r := chunkSum (ks.map fun k => f32 (nLane p k)) (ks.map fun k => f32 (nLane q k))
    .ok (raiseNd (setN b x (nOne r.1)) r.2)) s

/-- A term carried up the stack from a level: each present level on the way is combined and left (R340). -/
def reedPush (g : BodyRegs) : Nat → Nat → Nat → BodyRegs × FpFlags
  | 0, l, v => ({ g with levels := g.levels.setIfInBounds l (BitVec.ofNat 32 v) }, 0)
  | fuel + 1, l, v =>
    if g.c / 2 ^ l % 2 = 1 then
      let r := fadd (g.levels.toList.getD l 0).toNat v
      let rest := reedPush { g with levels := g.levels.setIfInBounds l 0 } fuel (l + 1) r.1
      (rest.1, r.2 ||| rest.2)
    else ({ g with levels := g.levels.setIfInBounds l (BitVec.ofNat 32 v) }, 0)

/-- `reed`: lane 0 is the next term; at 2^24 − 1 terms BOUNDS (R340). -/
def execReed (x : BitVec 8) (s : State) : Host.Outcome State Fault Refusal :=
  arithSlot (fun b =>
    if b.regs.c = 2 ^ 24 - 1 then .error .bounds
    else
      let r := reedPush b.regs 24 0 (nLane (getN b x) 0)
      .ok (raiseNd { b with regs := { r.1 with c := b.regs.c + 1 } } r.2)) s

/-- The reed sum of the terms on the stack; a NaN is canonical (R206, R340). -/
def flushSum (g : BodyRegs) : Nat × FpFlags :=
  match (openLevels g).reverse with
  | [] => (0, 0)
  | l :: ls =>
    let r := ls.foldl (fun (acc : Nat × FpFlags) h => let r := fadd (g.levels.toList.getD h 0).toNat acc.1; (r.1, acc.2 ||| r.2))
      ((g.levels.toList.getD l 0).toNat, 0)
    (canonNan .f32 r.1, r.2)

/-- `rflush` (R340). -/
def execRflush (x y : BitVec 8) (s : State) : Host.Outcome State Fault Refusal :=
  arithSlot (fun b =>
    let r := flushSum b.regs
    let b1 := raiseNd (setN b x (nOne r.1)) r.2
    .ok (if y = 1 then modRegs b1 (fun g => { g with c := 0, levels := Vector.replicate 24 0 }) else b1)) s

/-! ### Decoding segments and groups (R341) -/

/-- The bits of lanes 0 to n − 1 as one number. -/
def laneBits (r : NReg) (n : Nat) : Nat := (List.range n).foldl (fun v k => v + nLane r k * 2 ^ (32 * k)) 0

/-- `twd` (R341). -/
def execTwd (x y z : BitVec 8) (s : State) : Host.Outcome State Fault Refusal :=
  arithSlot (fun b =>
    let r := getN b y
    let rec' := nLane r 12
    let e := rec' % 256
    let rate := rec' / 256 % 4
    match twN rate with
    | none => .error .illegal
    | some n =>
      let first := 16 * z.toNat
      if bitsOf rec' 15 10 ≠ 0 ∨ e = 0 ∨ e = 1 ∨ n ≤ first then .error .illegal
      else
        let len := Nat.min 16 (n - first)
        .ok (setN b x (nReg ((List.range len).map fun k => (roundF32 (twDecode (laneBits r 12) rate e (first + k))).1) len))) s

/-- `b16x` (R208, R341). -/
def execB16x (x y z : BitVec 8) (s : State) : Host.Outcome State Fault Refusal :=
  arithSlot (fun b =>
    let r := getN b y
    let rec' := nLane r 4
    let payload := laneBits r 4
    .ok (setN b x (nReg ((List.range 16).map fun i => (roundF32 (b16Value z.toNat payload (rec' % 256) (rec' / 256 % 256) i)).1) 16))) s

/-! ### The write-back slot (R342) -/

/-- What a write-back operation does: a fault stops the body before any slot of the word took effect; then the word ends. -/
def wbSlot (f : State → Body → State × Except NdFault Body) (s : State) : Host.Outcome State Fault Refusal :=
  match s.nd.body with
  | none => .next s
  | some b =>
    match f s b with
    | (s1, .ok b1) => .next (modBody s1 (fun _ => endWord s1 b1))
    | (s1, .error x) => .next (bodyFault s1 2 x)

/-- `wnop` (R342). -/
def execWnop (s : State) : Host.Outcome State Fault Refusal := wbSlot (fun t b => (t, .ok b)) s

/-- An element as `wst` stores it: its bytes and flags (R211, R212, R342). -/
def wstElem (o : OvfTable) (format v : Nat) : List Byte × FpFlags :=
  let fl (f : Fmt) (n : Nat) : List Byte × FpFlags := let r := roundTo o f .rne (f32 v); (bytesOf n r.1, r.2)
  let int (signed : Bool) (w : Nat) : List Byte × FpFlags :=
    let r := clampInt (intLo signed w) (intHi signed w) (signedOf 32 v)
    (bytesOf (w / 8) (intBits w r.1), raiseIf r.2 Flag.nv)
  match format with
  | 0 => fl .f32 4
  | 1 => fl .bf16 2
  | 2 => fl .f16 2
  | 3 => fl .e4m3 1
  | 4 => fl .e5m2 1
  | 5 => int true 32
  | 6 => int true 16
  | 7 => int true 8
  | _ => int false 8

/-- Bytes of a unit's write held until the kick completes (R300), after the checks of R371: a CODED page is CODEDWRITE, a line of a guarded
tier map RIGHTS (R314). -/
def bodyWrite (s : State) (b : Body) (va : Nat) (bs : List Byte) : Except NdFault Body :=
  (List.range bs.length).foldl (fun acc i =>
    match acc with
    | .error x => .error x
    | .ok b1 =>
      match heldLeaf b.kick (va + i) with
      | none => .error { code := .footprint, va := va + i }
      | some e =>
        if !leafW e then .error { code := .rights, va := va + i }
        else if leafCoded e then .error { code := .codedwrite, va := va + i }
        else if guardedLine s (leafAddr e (va + i)) 1 then .error { code := .rights, va := va + i }
        else .ok { b1 with writes := b1.writes ++ [(leafAddr e (va + i), bs.getD i 0)] }) (.ok b)

/-- `wst` (R300, R342). -/
def execWst (x y : BitVec 8) (s : State) : Host.Outcome State Fault Refusal :=
  wbSlot (fun t b =>
    match fetchPat b y with
    | .error e => (t, .error e)
    | .ok (p, i) =>
      let u := unitsPerBlock p.desc
      let r := (List.range u).foldl (fun (acc : Except NdFault Body) k =>
        match acc with
        | .error e => .error e
        | .ok b1 =>
          let el := wstElem b.kick.ovf p.desc.format (nLane (getN b x) k)
          bodyWrite t (raiseNd b1 el.2) (Obj.base p.entry + (unitOff p.desc (i * u + k)).toNat) el.1) (.ok b)
      match r with
      | .error e => (t, .error (e.of y p))
      | .ok b1 => (t, .ok (stepPos b1 y))) s

/-- `wacc` (R342, R349): lanes as one packet for contributor Z at the offset of the pattern's next block; a header or a range that fails
the contribution stops the body. It leaves at the next climb point or the body's end, so that what a lost pick discards never counts (R327; DEDUCED,
log entry 129). -/
def execWacc (x y z : BitVec 8) (s : State) : Host.Outcome State Fault Refusal :=
  wbSlot (fun t b =>
    match fetchPat b y with
    | .error e => (t, .error e)
    | .ok (p, i) =>
      let u := unitsPerBlock p.desc
      let els := (List.range u).map fun k => wstElem b.kick.ovf p.desc.format (nLane (getN b x) k)
      let c : Contrib := { contributor := z.toNat, off := (unitOff p.desc (i * u)).toNat, bytes := els.flatMap (·.1),
                           barred := (launchOf t b.kick.launch).elim false (fun l => l.climb || l.paired) }
      let zone : Zone := (t.zones.find? fun q => q.tenant = b.kick.tenant && q.base = Obj.base p.entry).getD
        { tenant := b.kick.tenant, obj := p.desc.obj, base := Obj.base p.entry, size := Obj.size p.entry }
      match contribTrouble (zoneHeader t zone) zone.size c with
      | some code => (t, .error { code := code, va := zone.base + c.off, pat := some y.toNat, obj := p.desc.obj })
      | none =>
        let b1 := { b with puts := b.puts ++ [(p.desc.obj, Obj.base p.entry, Obj.size p.entry, c)] }
        (t, .ok (stepPos (raiseNd b1 (joinFlags (els.map (·.2)))) y))) s

/-- `wmb` (R342): mailbox word Y. -/
def execWmb (x y : BitVec 8) (s : State) : Host.Outcome State Fault Refusal :=
  wbSlot (fun t b => (t, .ok { b with kick := { b.kick with
    words := b.kick.words.setIfInBounds y.toNat (BitVec.ofNat 32 (nLane (getN b x) 0)) } })) s
/-- `wrec` (R342): scalar Y. -/
def execWrec (x y : BitVec 8) (s : State) : Host.Outcome State Fault Refusal :=
  wbSlot (fun t b => (t, .ok (modRegs b (fun g => { g with sc := g.sc.setIfInBounds y.toNat (BitVec.ofNat 32 (nLane (getN b x) 0)) })))) s

end Sys2Proof.Machine
end

