-- ==== Sys2Proof/Machine/Storage.lean ====
section
/-! DEFINITION. Happenings of the memory and storage below the tiles, and of power: SEQ accesses that perform, L1, L2 and MSC, seals and
sweeps, refresh and back-off, NAND frames, error counters and repairs, droop, temperature and power-on (R112, R291, R353, R356 to R362, R379,
R380, R414 to R416). -/
namespace Sys2Proof.Machine

/-! ### Accesses and caches (R112, R113, R291, R300, R356) -/

/-- SEQ_ACCESS_PERFORMED (R112, R113): the i-th pending store of a shuttle performs at its home, after those that are ordered before it. -/
def execSeqAccessPerformed (q : Place) (i : Nat) (s : State) : Host.Outcome State Fault Refusal :=
  let s1 := focus s q
  match s1.me.stores[i]? with
  | none => .next s1
  | some x =>
    let r := splitStores (ordered x) (s1.me.stores.take i)
    .next (performStore (r.1.foldl performStore (modMe s1 (fun h => { h with stores := r.2 ++ h.stores.drop (i + 1) }))) x)

/-- L1_EVICT (R291). -/
def execL1Evict (tile line : Nat) (s : State) : Host.Outcome State Fault Refusal :=
  .next (modTileAt s tile (fun x => { x with l1 := x.l1.filter fun l => l.line ≠ line }))

/-- L2_WRITEBACK (R356, R367, R379): a dirty line's sectors are written into the MSC, after the buffers of its tile are sealed; a line of a
tile whose seal is stalled stays dirty at its home. -/
def execL2Writeback (line : Nat) (s : State) : Host.Outcome State Fault Refusal :=
  .next (writeBack s line)

/-- MSC_FILL (R356): the whole tile is filled and verified. -/
def execMscFill (tile : Nat) (s : State) : Host.Outcome State Fault Refusal :=
  .next (if Config.physTiles ≤ tile then s else (mscFillTile s (sealMeta s.mem tile).owner true tile 0).1)

/-- MSC_EVICT (R356): a tile leaves the MSC, one of policy keep only where none of its stack's other tiles can; a tile with a dirty sector is
sealed whole; a stalled seal keeps it. -/
def execMscEvict (tile : Nat) (s : State) : Host.Outcome State Fault Refusal :=
  match s.mem.msc.find? (fun x => x.tile = tile) with
  | none => .next s
  | some x =>
    if x.keep && s.mem.msc.any (fun y => decide (y.tile % 8 = tile % 8) && !y.keep) then .next s
    else .next (mscDrop s x)

/-! ### Stalled seals and sweeps (R379, R380) -/

/-- The dirty sectors of an MSC tile are sealed. -/
def cleanMsc (m : MemSys) (T : Nat) : MemSys := { m with msc := m.msc.map fun x => if x.tile = T then { x with dirty := [] } else x }

/-- SEAL_RETRY (R379): a stalled seal is tried again: it succeeds once the pair's next generation is armed or has been rolled to. -/
def execSealRetry (tile : Nat) (s : State) : Host.Outcome State Fault Refusal :=
  if tile ∉ s.mem.stalled then .next s
  else
    let s1 := flushTile s tile
    if tile ∉ s1.mem.stalled then .next s1
    else
      let (s2, ok) := sealTile s1 tile ((s1.mem.msc.filter fun x => x.tile = tile).flatMap mscDirty)
      .next (if ok then modMem s2 (fun m => cleanMsc m tile) else s2)

/-- Is a tile one of a pair still at a generation (R380)? A tile that no metadata is listed for stands as reset leaves it. -/
def tileAt (m : MemSys) (tenant region gen T : Nat) : Bool :=
  let x := sealMeta m T
  decide (T < Config.physTiles ∧ x.owner = tenant ∧ regionOf T = region ∧ x.gen = gen)

/-- Does a pair have a tile still at a generation? Those with listed metadata, and, for tenant 0 and generation 0, any that has none. -/
def anyAt (m : MemSys) (tenant region gen : Nat) : Bool :=
  let first := (region * 2 ^ 30 + 6143) / 6144
  let last := Nat.min (((region + 1) * 2 ^ 30 + 6143) / 6144) Config.physTiles
  m.seals.any (fun x => tileAt m tenant region gen x.1)
    || (decide (tenant = 0 ∧ gen = 0) && decide ((m.seals.filter fun x => decide (first ≤ x.1 ∧ x.1 < last)).length < last - first))

/-- RESEAL_SWEEP_STEP (R380): one tile still at OLD is verified and sealed at (CUR, 0), once, be it by the reseal of a tile that does not verify
(R381); when none remains OLD ceases, and the management function is told that arming is open again. -/
def execResealSweepStep (tenant region tile : Nat) (s : State) : Host.Outcome State Fault Refusal :=
  match (pairOf s.mem tenant region).old with
  | none => .next s
  | some o =>
    let s1 := if tileAt s.mem tenant region o tile then
        let u := (verifyTile s tenant true tile).1
        if tileAt u.mem tenant region o tile then (sealUnder u tile).1 else u
      else s
    if !anyAt s1.mem tenant region o then
      .next (postRec (modMem s1 (fun m => modPair m tenant region (fun p => { p with old := none }))) true 0
        { code := .sealwrap, eng := 6, tenant := tenant, aux := 0 }).1
    else .next s1

/-! ### Refresh (R357, R358) -/

/-- The owed count of a bank. -/
def owedOf (s : State) (pc bank : Nat) : Nat :=
  match s.module.owed.find? (fun x => x.1 = pc && x.2.1 = bank) with
  | some x => x.2.2
  | none => 0
/-- A bank's owed count set; a bank that owes nothing is not listed. -/
def setOwed (s : State) (pc bank n : Nat) : State :=
  modModule s (fun m => { m with
    owed := (if n = 0 then [] else [(pc, bank, n)]) ++ m.owed.filter fun x => !(x.1 = pc && x.2.1 = bank) })
/-- A pseudo-channel and bank that exist (R355). -/
def bankOk (pc bank : Nat) : Bool := decide (pc < 512 ∧ bank < 32)
/-- An all-bank refresh of a pseudo-channel. -/
def refreshAll (s : State) (pc : Nat) : State :=
  modModule s (fun m => { m with owed := m.owed.filter fun x => x.1 ≠ pc, allBank := m.allBank + 1 })

/-- The all-bank refresh that a ninth owed refresh in any bank of a pseudo-channel forces, before anything else is done there (R357). -/
def forceRefresh (s : State) (pc : Nat) : State :=
  if s.module.owed.any fun x => decide (x.1 = pc ∧ 9 ≤ x.2.2) then refreshAll s pc else s

/-- PER_BANK_REFRESH_DUE (R357): the refresh is issued, or postponed where that is still possible; which is left open. The ninth owed one
forces an all-bank refresh. -/
def execPerBankRefreshDue (pc bank : Nat) (s0 : State) : Host.Outcome State Fault Refusal :=
  let s := forceRefresh s0 pc
  if !bankOk pc bank ∨ !Config.chooseStale s.fresh then .next (bump s)
  else .next (setOwed (bump s) pc bank (owedOf s pc bank + 1))

/-- REFRESH_PAYBACK (R357): one owed refresh is paid back; where a ninth is owed the all-bank refresh that it forces pays them all. -/
def execRefreshPayback (pc bank : Nat) (s : State) : Host.Outcome State Fault Refusal :=
  .next (if s.module.owed.any fun x => decide (x.1 = pc ∧ 9 ≤ x.2.2) then refreshAll s pc else setOwed s pc bank (owedOf s pc bank - 1))

/-- FORCED_ALL_BANK_REFRESH (R357): a ninth owed refresh in any bank clears the counts of the pseudo-channel. -/
def execForcedAllBankRefresh (pc : Nat) (s : State) : Host.Outcome State Fault Refusal := .next (forceRefresh s pc)

/-- ALERT_BACKOFF (R358): the refresh-management commands that it requires, at most four; where the bank owes eight, an all-bank refresh is
the first of them. -/
def execAlertBackoff (pc bank commands : Nat) (s0 : State) : Host.Outcome State Fault Refusal :=
  let s := forceRefresh s0 pc
  if !bankOk pc bank ∨ commands = 0 ∨ 4 < commands then .next s
  else if owedOf s pc bank = 8 then .next (modModule (refreshAll s pc) (fun m => { m with rfm := m.rfm + commands }))
  else .next (modModule s (fun m => { m with rfm := m.rfm + commands }))

/-! ### Errors and repairs (R361, R362) -/

/-- The length of an error window in reference ticks (R361). -/
def errorWindow : Nat := 10000000000

/-- Is a counter's window over at a tick? -/
def windowOver (c : ErrCount) (now : Nat) : Bool := Nat.ble (c.start + errorWindow) now

/-- A counter after one more event: a new window with count 1, or one more in the window (R361). -/
def countError (c : ErrCount) (now : Nat) : ErrCount :=
  if windowOver c now then { c with start := now, count := 1 } else { c with count := c.count + 1 }

/-- A unit declared lasting-faulty (R362): repaired with a record to the management function, its counter closed, so that its next event opens
a window afresh; or fenced where no spare is left, which the manual does not count. A link lane's port carries nothing while it
retrains, or for good. -/
def repairUnit (s : State) (u : ErrUnit) (c : ErrCount) : State :=
  let spare := Config.chooseStale s.fresh
  let s1 := modModule (bump s) (fun m => { m with
    errors := if spare then m.errors.filter fun x => x.unit ≠ u
      else m.errors.map fun x => if x.unit = u then { c with faulty := true, fenced := true } else x
    repairs := if spare then m.repairs ++ [u] else m.repairs })
  match u with
  | .linkLane port _ =>
    let s2 := modFabric s1 (fun b => { b with portsDown := b.portsDown ||| (1#8 <<< port) })
    resend (if spare then modModule s2 (fun m => { m with retraining := insertNat m.retraining port }) else s2)
  | _ => s1

/-- A counted event of a unit; the 65th within one window declares it lasting-faulty (R361). A fenced unit is out of service. -/
def countEvent (s : State) (u : ErrUnit) : State :=
  let now := tstampOf s
  match s.module.errors.find? (fun c => c.unit = u) with
  | none => modModule s (fun m => { m with errors := m.errors ++ [{ unit := u, start := now, count := 1 }] })
  | some c =>
    if c.faulty then s
    else
      let c1 := countError c now
      if c1.count = 65 then repairUnit s u c1
      else modModule s (fun m => { m with errors := m.errors.map fun x => if x.unit = u then c1 else x })

/-- ERROR_EVENT (R361). -/
def execErrorEvent (u : ErrUnit) (s : State) : Host.Outcome State Fault Refusal := .next (countEvent s u)

/-! ### NAND frames (R326, R359, R360) -/

/-- The physical tiles of a frame (R359). -/
def frameTiles (f : Nat) : List Nat := (List.range 8).map (· + 8 * f)

/-- The number of data frames; the parity frame of stripe k of controller q is the model's frame 4k + q after them. -/
def dataFrames : Nat := Config.physTiles / 8

/-- The controller and the stripe of a frame. -/
def frameStripe (f : Nat) : Nat × Nat := if f < dataFrames then stripeOf f else ((f - dataFrames) % 4, (f - dataFrames) / 4)

/-- The channel engine of a frame (R331, R359). -/
def frameUnit (f : Nat) : Nat :=
  if f < dataFrames then unitOfTileS (8 * f) else 16 * (frameStripe f).1 + parityChannel (frameStripe f).2

/-- Can a frame not be rebuilt: is another frame of its stripe, of data or of parity, itself uncorrectable, or on a channel out of service (R360,
R362)? -/
def stripeBroken (s : State) (f : Nat) : Bool :=
  let x := frameStripe f
  ((stripeFrames x.1 x.2).filter (· < dataFrames) ++ [dataFrames + 4 * x.2 + x.1]).any fun g =>
    g ≠ f && (decide (g ∈ s.module.nandLost) || unitOut s false (frameUnit g))

/-- The error unit of a frame's block, the frames of a retired one being in a spare block of its channel (R362): a block's number mod 64 is the channel
engine's. -/
def frameBlock (s : State) (f : Nat) : ErrUnit :=
  let n := s.module.repairs.length
  .nandBlock (((List.range n).zip s.module.repairs).foldl
    (fun b x => if x.2 = .nandBlock b then 64 * Config.spareBlock x.1 + b % 64 else b) (64 * Config.nandBlock f + frameUnit f))

/-- The codewords of a frame that count as events of its block (R361): of its twelve those that needed soft decoding or the rebuild, which is left
open; every one where the channel is out of service. -/
def codewordEvents (s : State) (f : Nat) (o : NandOutcome) : Nat :=
  if unitOut s false (frameUnit f) then 12 else if o = .hard then 0 else 1 + Config.choose s.fresh % 12

/-- NAND_FRAME_READ (R360): a frame that decodes or is rebuilt has its tiles verified, and each codeword that needed more than hard decision is an event
of its block (R361); a frame that needs a rebuild its stripe cannot give is lost. A frame on a channel that is out of service needs one (R362). A lost
one reports its lost picks, or INTEGRITY where it holds none; a parity frame holds no tile, and its loss tells in the rebuilds of its stripe. -/
def execNandFrameRead (frame : Nat) (o : NandOutcome) (s : State) : Host.Outcome State Fault Refusal :=
  if 2 * dataFrames ≤ frame ∨ frame ∈ s.module.nandLost then .next s
  else
    let s1 := (List.range (codewordEvents s frame o)).foldl (fun st _ => countEvent st (frameBlock s frame)) (bump s)
    let tiles := if frame < dataFrames then frameTiles frame else []
    if o ≠ .lost ∧ !((decide (o = .rebuilt) || unitOut s false (frameUnit frame)) && stripeBroken s frame) then
      .next (tiles.foldl (fun st T => (verifyTile st (sealMeta st.mem T).owner true T).1) s1)
    else
      let s2 := modModule s1 (fun m => { m with nandLost := frame :: m.nandLost })
      let (s3, any) := reportLost s2 tiles 0
      let t := (sealMeta s.mem (8 * frame)).owner
      .next (if any ∨ dataFrames ≤ frame then s3
        else (postRec s3 false t { code := .integrity, eng := 6, tenant := t, aux := 8 * frame, sealed := sealField (sealMeta s.mem (8 * frame)) }).1)

/-- LANE_RETRAIN_DONE (R362): the port carries traffic again; what it could not carry is sent. -/
def execLaneRetrainDone (port : Nat) (s : State) : Host.Outcome State Fault Refusal :=
  if port ∉ s.module.retraining then .next s
  else
    let s1 := modModule s (fun m => { m with retraining := m.retraining.filter (· ≠ port) })
    if portOut s1 port then .next s1
    else .next (resend (modFabric s1 (fun b => { b with portsDown := b.portsDown &&& ~~~(1#8 <<< port) })))

/-! ### Droop and temperature (R415, R416) -/

/-- The droop entry of a band: the cycle of its last alarm, and whether its response is in progress. -/
def droopOf (s : State) (band : Nat) : Option (Nat × Bool) := (s.module.droop.find? fun x => x.1 = band).map (·.2)
/-- A band's droop entry set. -/
def setDroop (s : State) (band cycle : Nat) (on : Bool) : State :=
  modModule s (fun m => { m with droop := (band, cycle, on) :: m.droop.filter fun x => x.1 ≠ band })

/-- The band of the other side's shuttle of a paired one that waits for its compare (R419). -/
def otherBand (s : State) (h : Shuttle) : Option Nat :=
  if h.paired && h.compareDue then (partner { s with me := h }).map fun p => bandOf p.tile else none

/-- The issue clocks of every shuttle of a band moved on, cycles in which nothing issued; in a paired compare both sides slow (R416, R419). -/
def bandIdle (s : State) (band n : Nat) : State :=
  let skip (h : Shuttle) : Shuttle :=
    if (bandOf h.place.tile = band ∨ otherBand s h = some band) ∧ h.life ≠ .idle then
      { h with clock := h.clock + n, str := { h.str with clock := h.str.clock + n }, vec := { h.vec with clock := h.vec.clock + n },
               mtx := { h.mtx with clock := h.mtx.clock + n } }
    else h
  { s with me := skip s.me, others := s.others.map skip }

/-- The idle cycles of a response that has gone on since the cycle of its alarm: after the stretch, every other one of at most 64 (R416). -/
def responseIdle (s : State) (alarm : Nat) : Nat := Nat.min 64 (s.cycles - (alarm + 6)) / 2

/-- DROOP_ALARM (R416): the band's tiles stretch their clock for six cycles, which CYCLES does not count and TSTAMP does; the response starts,
or starts again, what it has idled so far kept. An alarm within 1,024 cycles of the last is counted, and reported to the management function. -/
def execDroopAlarm (band : Nat) (s : State) : Host.Outcome State Fault Refusal :=
  if 24 ≤ band then .next s
  else
    let before := droopOf s band
    let early := match before with
      | some (c, _) => decide (s.cycles < c + 1024)
      | none => false
    let idle := match before with
      | some (c, true) => responseIdle s c
      | _ => 0
    let s1 := if early then
        modModule s (fun m => { m with alarms := assocSet m.alarms band (assoc m.alarms band 0 + 1), alarmReports := m.alarmReports ++ [band] })
      else s
    let s2 := bandIdle (setDroop s1 band s.cycles true) band (idle + 6)
    .next { s2 with cycles := s2.cycles + 6, lost := assocSet s2.lost band (assoc s2.lost band 0 + 6) }

/-- DROOP_RESPONSE_END (R416): 64 cycles of alternate issue have passed, in half of which nothing issued. -/
def execDroopResponseEnd (band : Nat) (s : State) : Host.Outcome State Fault Refusal :=
  match droopOf s band with
  | some (c, true) => .next (bandIdle (setDroop s band c false) band 32)
  | _ => .next s

/-- THERMAL_THROTTLE (R415): outside rated conditions the controller reduces the tile clock, against which the reference clock then runs faster. -/
def execThermalThrottle (s : State) : Host.Outcome State Fault Refusal :=
  .next (modModule s (fun m => { m with throttled := some (m.throttled.getD s.cycles) }))
/-- THERMAL_THROTTLE_END (R415). -/
def execThermalThrottleEnd (s : State) : Host.Outcome State Fault Refusal :=
  .next (modModule s (fun m => { m with
    throttled := none, slowTicks := m.slowTicks + m.throttled.elim 0 fun since => slowTicks (s.cycles - since) }))

/-! ### Power-on (R414) -/

/-- The ports that a fenced link lane keeps out of service (R362). -/
def fencedPorts (s : State) : BitVec 8 :=
  BitVec.ofNat 8 (((List.range 8).filter fun p => s.module.errors.any fun c => c.fenced && match c.unit with
    | .linkLane q _ => decide (q = p)
    | _ => false).foldl (fun n p => n + 2 ^ p) 0)

/-- POWER_ON (R414): the reset values take effect; the storage's lost frames and recorded repairs stand, a fenced port among them, and so does what
lies outside the module. A configuration block whose signature fails leaves its feature out of FEATURES; a firmware image whose signature fails halts
the module, and the endpoint is not presented: which do is left free. -/
def execPowerOn (s : State) : Host.Outcome State Fault Refusal :=
  .next { State.reset with
    agenda := s.agenda
    fresh := s.fresh + 1
    mem := { State.reset.mem with host := s.mem.host, peer := s.mem.peer }
    fabric := { State.reset.fabric with portsDown := fencedPorts s }
    module := { State.reset.module with
      presented := Config.chooseStale s.fresh
      features := Config.features &&& BitVec.ofNat 4 (Config.choose s.fresh)
      nandLost := s.module.nandLost
      errors := s.module.errors.filter (·.faulty)
      repairs := s.module.repairs } }

end Sys2Proof.Machine
end

