-- ==== Sys2Proof/Machine/Dispatch.lean ====
section
/-! DEFINITION. One arm per instruction and happening of the table. -/
namespace Sys2Proof.Machine

def exec (i : Instr) (s : State) : Host.Outcome State Fault Refusal :=
  match i with
  | .nop c => Sys2Proof.Machine.execNop c s
  | .trap c n => Sys2Proof.Machine.execTrap c n s
  | .safept c => Sys2Proof.Machine.execSafept c s
  | .climbpt c id => Sys2Proof.Machine.execClimbpt c id s
  | .exit c => Sys2Proof.Machine.execExit c s
  | .add c a b x => Sys2Proof.Machine.execAdd c a b x s
  | .sub c a b x => Sys2Proof.Machine.execSub c a b x s
  | .mul c a b x => Sys2Proof.Machine.execMul c a b x s
  | .mulh c a b x => Sys2Proof.Machine.execMulh c a b x s
  | .div c a b x => Sys2Proof.Machine.execDiv c a b x s
  | .divu c a b x => Sys2Proof.Machine.execDivu c a b x s
  | .rem c a b x => Sys2Proof.Machine.execRem c a b x s
  | .remu c a b x => Sys2Proof.Machine.execRemu c a b x s
  | .and c a b x => Sys2Proof.Machine.execAnd c a b x s
  | .or c a b x => Sys2Proof.Machine.execOr c a b x s
  | .xor c a b x => Sys2Proof.Machine.execXor c a b x s
  | .andn c a b x => Sys2Proof.Machine.execAndn c a b x s
  | .shl c a b x => Sys2Proof.Machine.execShl c a b x s
  | .shr c a b x => Sys2Proof.Machine.execShr c a b x s
  | .sra c a b x => Sys2Proof.Machine.execSra c a b x s
  | .rotl c a b x => Sys2Proof.Machine.execRotl c a b x s
  | .min c a b x => Sys2Proof.Machine.execMin c a b x s
  | .max c a b x => Sys2Proof.Machine.execMax c a b x s
  | .minu c a b x => Sys2Proof.Machine.execMinu c a b x s
  | .maxu c a b x => Sys2Proof.Machine.execMaxu c a b x s
  | .clz c a b => Sys2Proof.Machine.execClz c a b s
  | .popc c a b => Sys2Proof.Machine.execPopc c a b s
  | .extZ c a b n => Sys2Proof.Machine.execExtZ c a b n s
  | .extS c a b n => Sys2Proof.Machine.execExtS c a b n s
  | .ldi c a ix => Sys2Proof.Machine.execLdi c a ix s
  | .mov c a x => Sys2Proof.Machine.execMov c a x s
  | .cmp c cc p b x => Sys2Proof.Machine.execCmp c cc p b x s
  | .pand c a b p => Sys2Proof.Machine.execPand c a b p s
  | .por c a b p => Sys2Proof.Machine.execPor c a b p s
  | .pxor c a b p => Sys2Proof.Machine.execPxor c a b p s
  | .pnot c a b => Sys2Proof.Machine.execPnot c a b s
  | .pmov c a b => Sys2Proof.Machine.execPmov c a b s
  | .ptgLabel c b addr => Sys2Proof.Machine.execPtgLabel c b addr s
  | .ptgReg c b g => Sys2Proof.Machine.execPtgReg c b g s
  | .br c b p d => Sys2Proof.Machine.execBr c b p d s
  | .brl c b p d => Sys2Proof.Machine.execBrl c b p d s
  | .ld c w a addr => Sys2Proof.Machine.execLd c w a addr s
  | .st c w a addr => Sys2Proof.Machine.execSt c w a addr s
  | .cas c w a b x y scope => Sys2Proof.Machine.execCas c w a b x y scope s
  | .amoAdd c w a b x scope => Sys2Proof.Machine.execAmoAdd c w a b x scope s
  | .amoAnd c w a b x scope => Sys2Proof.Machine.execAmoAnd c w a b x scope s
  | .amoOr c w a b x scope => Sys2Proof.Machine.execAmoOr c w a b x scope s
  | .amoXor c w a b x scope => Sys2Proof.Machine.execAmoXor c w a b x scope s
  | .amoMin c w a b x scope => Sys2Proof.Machine.execAmoMin c w a b x scope s
  | .amoMax c w a b x scope => Sys2Proof.Machine.execAmoMax c w a b x scope s
  | .amoMinu c w a b x scope => Sys2Proof.Machine.execAmoMinu c w a b x scope s
  | .amoMaxu c w a b x scope => Sys2Proof.Machine.execAmoMaxu c w a b x scope s
  | .amoSwap c w a b x scope => Sys2Proof.Machine.execAmoSwap c w a b x scope s
  | .amoFaddF32 c a b x scope => Sys2Proof.Machine.execAmoFaddF32 c a b x scope s
  | .fence c order scope mask => Sys2Proof.Machine.execFence c order scope mask s
  | .barInit c a x scope => Sys2Proof.Machine.execBarInit c a x scope s
  | .barArrive c a b x scope => Sys2Proof.Machine.execBarArrive c a b x scope s
  | .barWait c a b scope => Sys2Proof.Machine.execBarWait c a b scope s
  | .barWaitReturn q => Sys2Proof.Machine.execBarWaitReturn q s
  | .waitany c a m => Sys2Proof.Machine.execWaitany c a m s
  | .waitall c m => Sys2Proof.Machine.execWaitall c m s
  | .tagWaitReturn q => Sys2Proof.Machine.execTagWaitReturn q s
  | .ffready c a m => Sys2Proof.Machine.execFfready c a m s
  | .tagclr c m => Sys2Proof.Machine.execTagclr c m s
  | .run c e n g head => Sys2Proof.Machine.execRun c e n g head s
  | .runLoop c e n g head x => Sys2Proof.Machine.execRunLoop c e n g head x s
  | .commandQueueRoom q => Sys2Proof.Machine.execCommandQueueRoom q s
  | .popEng c e a => Sys2Proof.Machine.execPopEng c e a s
  | .popP c p => Sys2Proof.Machine.execPopP c p s
  | .fifoElementArrival q => Sys2Proof.Machine.execFifoElementArrival q s
  | .tokPush c q n => Sys2Proof.Machine.execTokPush c q n s
  | .tokPop c q n => Sys2Proof.Machine.execTokPop c q n s
  | .tokenAvailable q w => Sys2Proof.Machine.execTokenAvailable q w s
  | .spawn c a b => Sys2Proof.Machine.execSpawn c a b s
  | .kick c a b => Sys2Proof.Machine.execKick c a b s
  | .getsr c a sr tag => Sys2Proof.Machine.execGetsr c a sr tag s
  | .setsr c sr x => Sys2Proof.Machine.execSetsr c sr x s
  | .tstamp c a => Sys2Proof.Machine.execTstamp c a s
  | .ovfLoad c a => Sys2Proof.Machine.execOvfLoad c a s
  | .cardLoad c a b => Sys2Proof.Machine.execCardLoad c a b s
  | .objsync c => Sys2Proof.Machine.execObjsync c s
  | .xlinv c a m => Sys2Proof.Machine.execXlinv c a m s
  | .sysret c => Sys2Proof.Machine.execSysret c s
  | .ctxFence c => Sys2Proof.Machine.execCtxFence c s
  | .entryStart q e => Sys2Proof.Machine.execEntryStart q e s
  | .resultLands q w => Sys2Proof.Machine.execResultLands q w s
  | .modeCrossingDeadlock q => Sys2Proof.Machine.execModeCrossingDeadlock q s
  | .entryWatchdog q e => Sys2Proof.Machine.execEntryWatchdog q e s
  | .sbind c sx d kc kd => Sys2Proof.Machine.execSbind c sx d kc kd s
  | .sbindTw c sx d kc kd => Sys2Proof.Machine.execSbindTw c sx d kc kd s
  | .sbindB16 c sx d kc kd => Sys2Proof.Machine.execSbindB16 c sx d kc kd s
  | .sunbind c sx tag => Sys2Proof.Machine.execSunbind c sx tag s
  | .sseek c sx x => Sys2Proof.Machine.execSseek c sx x s
  | .scopy c tag kd ks n => Sys2Proof.Machine.execScopy c tag kd ks n s
  | .scopy2d c tag kd ks kg kh => Sys2Proof.Machine.execScopy2d c tag kd ks kg kh s
  | .sfill c tag kd n kv => Sys2Proof.Machine.execSfill c tag kd n kv s
  | .sgather c tag kd ks ki kg => Sys2Proof.Machine.execSgather c tag kd ks ki kg s
  | .sscatter c tag kd ks ki kg => Sys2Proof.Machine.execSscatter c tag kd ks ki kg s
  | .sprefetch c k n => Sys2Proof.Machine.execSprefetch c k n s
  | .spromote c tag kt kc => Sys2Proof.Machine.execSpromote c tag kt kc s
  | .spin c k n => Sys2Proof.Machine.execSpin c k n s
  | .sunpin c k n => Sys2Proof.Machine.execSunpin c k n s
  | .stwenc c tag kd ks kp kq => Sys2Proof.Machine.execStwenc c tag kd ks kp kq s
  | .sscale c k n => Sys2Proof.Machine.execSscale c k n s
  | .slzput c tag kl ks n kc => Sys2Proof.Machine.execSlzput c tag kl ks n kc s
  | .sresume c k => Sys2Proof.Machine.execSresume c k s
  | .streamFetch q sx => Sys2Proof.Machine.execStreamFetch q sx s
  | .streamBlockFetched q sx => Sys2Proof.Machine.execStreamBlockFetched q sx s
  | .outputBlockWrite q sx => Sys2Proof.Machine.execOutputBlockWrite q sx s
  | .outputWritePerformed q sx => Sys2Proof.Machine.execOutputWritePerformed q sx s
  | .copySectorIssue q tag => Sys2Proof.Machine.execCopySectorIssue q tag s
  | .copySectorDone q tag ix => Sys2Proof.Machine.execCopySectorDone q tag ix s
  | .stwencEncodeDone q tag => Sys2Proof.Machine.execStwencEncodeDone q tag s
  | .promotionComplete ix => Sys2Proof.Machine.execPromotionComplete ix s
  | .mma c f m n a sa sb d => Sys2Proof.Machine.execMma c f m n a sa sb d s
  | .mmaCoop c f m n sa sb d q => Sys2Proof.Machine.execMmaCoop c f m n sa sb d q s
  | .coopMatch q => Sys2Proof.Machine.execCoopMatch q s
  | .coopPartnerTimeout q => Sys2Proof.Machine.execCoopPartnerTimeout q s
  | .mmaReed c f m sa sb d => Sys2Proof.Machine.execMmaReed c f m sa sb d s
  | .accZero c a n m => Sys2Proof.Machine.execAccZero c a n m s
  | .accScale c a n b r k => Sys2Proof.Machine.execAccScale c a n b r k s
  | .accRd c v a b => Sys2Proof.Machine.execAccRd c v a b s
  | .accWr c a v b => Sys2Proof.Machine.execAccWr c a v b s
  | .accFlush c b r => Sys2Proof.Machine.execAccFlush c b r s
  | .mpre c sx f nc => Sys2Proof.Machine.execMpre c sx f nc s
  | .msync c => Sys2Proof.Machine.execMsync c s
  | .vadd c t a b x => Sys2Proof.Machine.execVadd c t a b x s
  | .vsub c t a b x => Sys2Proof.Machine.execVsub c t a b x s
  | .vmul c t a b x => Sys2Proof.Machine.execVmul c t a b x s
  | .vfma c t a b x y => Sys2Proof.Machine.execVfma c t a b x y s
  | .vfms c t a b x y => Sys2Proof.Machine.execVfms c t a b x y s
  | .vnfma c t a b x y => Sys2Proof.Machine.execVnfma c t a b x y s
  | .vmin c t a b x => Sys2Proof.Machine.execVmin c t a b x s
  | .vmax c t a b x => Sys2Proof.Machine.execVmax c t a b x s
  | .vabs c t a b => Sys2Proof.Machine.execVabs c t a b s
  | .vneg c t a b => Sys2Proof.Machine.execVneg c t a b s
  | .vcopysign c t a b x => Sys2Proof.Machine.execVcopysign c t a b x s
  | .viadd c t a b x => Sys2Proof.Machine.execViadd c t a b x s
  | .visub c t a b x => Sys2Proof.Machine.execVisub c t a b x s
  | .vimul c t a b x => Sys2Proof.Machine.execVimul c t a b x s
  | .vand c t a b x => Sys2Proof.Machine.execVand c t a b x s
  | .vor c t a b x => Sys2Proof.Machine.execVor c t a b x s
  | .vxor c t a b x => Sys2Proof.Machine.execVxor c t a b x s
  | .vshl c t a b x => Sys2Proof.Machine.execVshl c t a b x s
  | .vshr c t a b x => Sys2Proof.Machine.execVshr c t a b x s
  | .vsra c t a b x => Sys2Proof.Machine.execVsra c t a b x s
  | .vimin c t a b x => Sys2Proof.Machine.execVimin c t a b x s
  | .vimax c t a b x => Sys2Proof.Machine.execVimax c t a b x s
  | .vcmp c cc t p b x => Sys2Proof.Machine.execVcmp c cc t p b x s
  | .vsel c t a p x y => Sys2Proof.Machine.execVsel c t a p x y s
  | .vexp2 c t a b => Sys2Proof.Machine.execVexp2 c t a b s
  | .vexp c t a b => Sys2Proof.Machine.execVexp c t a b s
  | .vlog2 c t a b => Sys2Proof.Machine.execVlog2 c t a b s
  | .vrcp c t a b => Sys2Proof.Machine.execVrcp c t a b s
  | .vrsqrt c t a b => Sys2Proof.Machine.execVrsqrt c t a b s
  | .vsqrt c t a b => Sys2Proof.Machine.execVsqrt c t a b s
  | .vtanh c t a b => Sys2Proof.Machine.execVtanh c t a b s
  | .vredSumRow c t a b => Sys2Proof.Machine.execVredSumRow c t a b s
  | .vredSumCol c t a b => Sys2Proof.Machine.execVredSumCol c t a b s
  | .vredMaxRow c t a b => Sys2Proof.Machine.execVredMaxRow c t a b s
  | .vredMaxCol c t a b => Sys2Proof.Machine.execVredMaxCol c t a b s
  | .vredMaxsumRow c t a b x y => Sys2Proof.Machine.execVredMaxsumRow c t a b x y s
  | .vredMaxsumCol c t a b x y => Sys2Proof.Machine.execVredMaxsumCol c t a b x y s
  | .vcvt c src dst rnd a b => Sys2Proof.Machine.execVcvt c src dst rnd a b s
  | .vmov c a b => Sys2Proof.Machine.execVmov c a b s
  | .vld c a sx => Sys2Proof.Machine.execVld c a sx s
  | .vst c sx b => Sys2Proof.Machine.execVst c sx b s
  | .vshapeImm c imm => Sys2Proof.Machine.execVshapeImm c imm s
  | .vshapeK c k => Sys2Proof.Machine.execVshapeK c k s
  | .vbcast c x a b m => Sys2Proof.Machine.execVbcast c x a b m s
  | .vtrn c x a b => Sys2Proof.Machine.execVtrn c x a b s
  | .vperm c x a b y => Sys2Proof.Machine.execVperm c x a b y s
  | .vpand c a b p => Sys2Proof.Machine.execVpand c a b p s
  | .vpor c a b p => Sys2Proof.Machine.execVpor c a b p s
  | .vpxor c a b p => Sys2Proof.Machine.execVpxor c a b p s
  | .vpnot c a b => Sys2Proof.Machine.execVpnot c a b s
  | .vpcount c a => Sys2Proof.Machine.execVpcount c a s
  | .voteAny c a => Sys2Proof.Machine.execVoteAny c a s
  | .voteAll c a => Sys2Proof.Machine.execVoteAll c a s
  | .vext c a r x => Sys2Proof.Machine.execVext c a r x s
  | .rewriteGroupIssue q e => Sys2Proof.Machine.execRewriteGroupIssue q e s
  | .fnop => Sys2Proof.Machine.execFnop s
  | .fld x y => Sys2Proof.Machine.execFld x y s
  | .fldp x y => Sys2Proof.Machine.execFldp x y s
  | .fnext y => Sys2Proof.Machine.execFnext y s
  | .frec x y => Sys2Proof.Machine.execFrec x y s
  | .ndNop => Sys2Proof.Machine.execNdNop s
  | .ndMov x y => Sys2Proof.Machine.execNdMov x y s
  | .imm x y z => Sys2Proof.Machine.execImm x y z s
  | .abs x y => Sys2Proof.Machine.execAbs x y s
  | .neg x y => Sys2Proof.Machine.execNeg x y s
  | .ndAdd x y z => Sys2Proof.Machine.execNdAdd x y z s
  | .ndSub x y z => Sys2Proof.Machine.execNdSub x y z s
  | .ndMul x y z => Sys2Proof.Machine.execNdMul x y z s
  | .fma x y z => Sys2Proof.Machine.execFma x y z s
  | .ndMax x y z => Sys2Proof.Machine.execNdMax x y z s
  | .ndMin x y z => Sys2Proof.Machine.execNdMin x y z s
  | .ndCmp cc x y z => Sys2Proof.Machine.execNdCmp cc x y z s
  | .sel x y z => Sys2Proof.Machine.execSel x y z s
  | .cvt x y m k => Sys2Proof.Machine.execCvt x y m k s
  | .iadd x y z => Sys2Proof.Machine.execIadd x y z s
  | .exp2 x y => Sys2Proof.Machine.execExp2 x y s
  | .rcp x y => Sys2Proof.Machine.execRcp x y s
  | .dot x y z => Sys2Proof.Machine.execDot x y z s
  | .twd x y z => Sys2Proof.Machine.execTwd x y z s
  | .b16x x y z => Sys2Proof.Machine.execB16x x y z s
  | .reed x => Sys2Proof.Machine.execReed x s
  | .rflush x y => Sys2Proof.Machine.execRflush x y s
  | .wnop => Sys2Proof.Machine.execWnop s
  | .wst x y => Sys2Proof.Machine.execWst x y s
  | .wacc x y z => Sys2Proof.Machine.execWacc x y z s
  | .wmb x y => Sys2Proof.Machine.execWmb x y s
  | .wrec x y => Sys2Proof.Machine.execWrec x y s
  | .kickBodyStart u => Sys2Proof.Machine.execKickBodyStart u s
  | .climbCheck u => Sys2Proof.Machine.execClimbCheck u s
  | .bodyComplete u => Sys2Proof.Machine.execBodyComplete u s
  | .zoneContribution ix => Sys2Proof.Machine.execZoneContribution ix s
  | .remoteStoreArrival ix => Sys2Proof.Machine.execRemoteStoreArrival ix s
  | .remoteStoreAck ix => Sys2Proof.Machine.execRemoteStoreAck ix s
  | .releaseFlagSend ix => Sys2Proof.Machine.execReleaseFlagSend ix s
  | .releaseFlagApply ix => Sys2Proof.Machine.execReleaseFlagApply ix s
  | .linkFailure port => Sys2Proof.Machine.execLinkFailure port s
  | .scheduleEntryDue launch => Sys2Proof.Machine.execScheduleEntryDue launch s
  | .handoverAccept u => Sys2Proof.Machine.execHandoverAccept u s
  | .handoverAcceptTimeout u => Sys2Proof.Machine.execHandoverAcceptTimeout u s
  | .repairObserved tenant tmap pick => Sys2Proof.Machine.execRepairObserved tenant tmap pick s
  | .doorbellWrite fn q v => Sys2Proof.Machine.execDoorbellWrite fn q v s
  | .launchAdmit fn q => Sys2Proof.Machine.execLaunchAdmit fn q s
  | .taskAdmit tenant band => Sys2Proof.Machine.execTaskAdmit tenant band s
  | .dependenceRecheck fn q => Sys2Proof.Machine.execDependenceRecheck fn q s
  | .headAging fn q => Sys2Proof.Machine.execHeadAging fn q s
  | .teamPlace => Sys2Proof.Machine.execTeamPlace s
  | .rtPreempt => Sys2Proof.Machine.execRtPreempt s
  | .completionIncrement launch => Sys2Proof.Machine.execCompletionIncrement launch s
  | .preemptRequest gang => Sys2Proof.Machine.execPreemptRequest gang s
  | .gangDrainSave gang => Sys2Proof.Machine.execGangDrainSave gang s
  | .gangResume gang => Sys2Proof.Machine.execGangResume gang s
  | .gangStop gang => Sys2Proof.Machine.execGangStop gang s
  | .pairedCompare q => Sys2Proof.Machine.execPairedCompare q s
  | .faultQueueRoom fn => Sys2Proof.Machine.execFaultQueueRoom fn s
  | .prgResponse fn idx ok => Sys2Proof.Machine.execPrgResponse fn idx ok s
  | .atsTranslationComplete q tag => Sys2Proof.Machine.execAtsTranslationComplete q tag s
  | .atsInvalidation fn page => Sys2Proof.Machine.execAtsInvalidation fn page s
  | .apertureRead fn off len => Sys2Proof.Machine.execApertureRead fn off len s
  | .apertureWrite fn off => Sys2Proof.Machine.execApertureWrite fn off s
  | .hostBarAccess fn va op => Sys2Proof.Machine.execHostBarAccess fn va op s
  | .acceptWrite v => Sys2Proof.Machine.execAcceptWrite v s
  | .registerWrite r v => Sys2Proof.Machine.execRegisterWrite r v s
  | .loadMicrocodeSlot => Sys2Proof.Machine.execLoadMicrocodeSlot s
  | .freeMicrocodeSlot => Sys2Proof.Machine.execFreeMicrocodeSlot s
  | .assignSealTiles => Sys2Proof.Machine.execAssignSealTiles s
  | .armNextGeneration => Sys2Proof.Machine.execArmNextGeneration s
  | .readQuotaRecord => Sys2Proof.Machine.execReadQuotaRecord s
  | .writeQuotaRecord => Sys2Proof.Machine.execWriteQuotaRecord s
  | .setQueue => Sys2Proof.Machine.execSetQueue s
  | .setAgingThresholds => Sys2Proof.Machine.execSetAgingThresholds s
  | .preemptGang => Sys2Proof.Machine.execPreemptGang s
  | .stopGang => Sys2Proof.Machine.execStopGang s
  | .resumeStoppedGang => Sys2Proof.Machine.execResumeStoppedGang s
  | .endLaunch => Sys2Proof.Machine.execEndLaunch s
  | .copyStockDeck => Sys2Proof.Machine.execCopyStockDeck s
  | .writeFabricWindow => Sys2Proof.Machine.execWriteFabricWindow s
  | .attestationReport => Sys2Proof.Machine.execAttestationReport s
  | .mscFill tile => Sys2Proof.Machine.execMscFill tile s
  | .mscEvict tile => Sys2Proof.Machine.execMscEvict tile s
  | .sealRetry tile => Sys2Proof.Machine.execSealRetry tile s
  | .resealSweepStep tenant region tile => Sys2Proof.Machine.execResealSweepStep tenant region tile s
  | .refreshPayback pc bank => Sys2Proof.Machine.execRefreshPayback pc bank s
  | .forcedAllBankRefresh pc => Sys2Proof.Machine.execForcedAllBankRefresh pc s
  | .alertBackoff pc bank commands => Sys2Proof.Machine.execAlertBackoff pc bank commands s
  | .nandFrameRead frame o => Sys2Proof.Machine.execNandFrameRead frame o s
  | .errorEvent u => Sys2Proof.Machine.execErrorEvent u s
  | .laneRetrainDone port => Sys2Proof.Machine.execLaneRetrainDone port s
  | .l1Evict tile line => Sys2Proof.Machine.execL1Evict tile line s
  | .droopAlarm band => Sys2Proof.Machine.execDroopAlarm band s
  | .droopResponseEnd band => Sys2Proof.Machine.execDroopResponseEnd band s
  | .thermalThrottle => Sys2Proof.Machine.execThermalThrottle s
  | .powerOn => Sys2Proof.Machine.execPowerOn s
  | .seqAccessPerformed q ix => Sys2Proof.Machine.execSeqAccessPerformed q ix s
  | .l2Writeback line => Sys2Proof.Machine.execL2Writeback line s
  | .perBankRefreshDue pc bank => Sys2Proof.Machine.execPerBankRefreshDue pc bank s
  | .releaseFlagAck ix => Sys2Proof.Machine.execReleaseFlagAck ix s
  | .linkRecovery port => Sys2Proof.Machine.execLinkRecovery port s
  | .tdispStateChange fn run => Sys2Proof.Machine.execTdispStateChange fn run s
  | .thermalThrottleEnd => Sys2Proof.Machine.execThermalThrottleEnd s

end Sys2Proof.Machine
end

