-- ==== Sys2Proof/Machine/Next.lean ====
section
/-! DEFINITION. Whose turn a step is: what the agent of an agenda entry has ready, which entries are happenings, and the placing of a
word where the next step fetches it. -/
namespace Sys2Proof.Machine

/-- A happening of the table: a step that no instruction of a stream stands for. -/
def isHappening (i : Instr) : Bool :=
  match i with
  | .barWaitReturn _ | .tagWaitReturn _ | .commandQueueRoom _ | .fifoElementArrival _ | .tokenAvailable _ _
  | .entryStart _ _ | .resultLands _ _ | .modeCrossingDeadlock _ | .entryWatchdog _ _ | .streamFetch _ _
  | .streamBlockFetched _ _ | .outputBlockWrite _ _ | .outputWritePerformed _ _ | .copySectorIssue _ _
  | .copySectorDone _ _ _ | .stwencEncodeDone _ _ | .promotionComplete _ | .coopMatch _ | .coopPartnerTimeout _
  | .rewriteGroupIssue _ _ | .kickBodyStart _ | .climbCheck _ | .bodyComplete _ | .zoneContribution _
  | .remoteStoreArrival _ | .remoteStoreAck _ | .releaseFlagSend _ | .releaseFlagApply _ | .linkFailure _
  | .scheduleEntryDue _ | .handoverAccept _ | .handoverAcceptTimeout _ | .repairObserved _ _ _ | .doorbellWrite _ _ _
  | .launchAdmit _ _ | .taskAdmit _ _ | .dependenceRecheck _ _ | .headAging _ _ | .teamPlace | .rtPreempt
  | .completionIncrement _ | .preemptRequest _ | .gangDrainSave _ | .gangResume _ | .gangStop _ | .pairedCompare _
  | .faultQueueRoom _ | .prgResponse _ _ _ | .atsTranslationComplete _ _ | .atsInvalidation _ _ | .apertureRead _ _ _
  | .apertureWrite _ _ | .hostBarAccess _ _ _ | .acceptWrite _ | .registerWrite _ _ | .loadMicrocodeSlot
  | .freeMicrocodeSlot | .assignSealTiles | .armNextGeneration | .readQuotaRecord | .writeQuotaRecord | .setQueue
  | .setAgingThresholds | .preemptGang | .stopGang | .resumeStoppedGang | .endLaunch | .copyStockDeck | .writeFabricWindow
  | .attestationReport | .mscFill _ | .mscEvict _ | .sealRetry _ | .resealSweepStep _ _ _ | .refreshPayback _ _
  | .forcedAllBankRefresh _ | .alertBackoff _ _ _ | .nandFrameRead _ _ | .errorEvent _ | .laneRetrainDone _ | .l1Evict _ _
  | .droopAlarm _ | .droopResponseEnd _ | .thermalThrottle | .powerOn | .seqAccessPerformed _ _ | .l2Writeback _
  | .perBankRefreshDue _ _ | .releaseFlagAck _ | .linkRecovery _ | .tdispStateChange _ _ | .thermalThrottleEnd => true
  | _ => false

/-- A near-data unit's next step (R331, R337): a kick taken, a climb check, the slots of the word in turn, or the completion. -/
def readyNd (s : State) (u : Nat) : Ready :=
  let s1 := focusNd s (ndNumber u).1 (ndNumber u).2
  match s1.nd.body with
  | none => if s1.nd.queue.isEmpty then .idle s1 else .run s1 (.kickBodyStart u)
  | some b =>
    match b.state with
    | .climbed => .idle s1
    | .finished => .run s1 (.bodyComplete u)
    | .running =>
      let w := (bodyWords s1 b.kick).getD b.regs.word 0
      let climb : Bool := match bodySlot s1 b.kick with
        | some x => x.climbs.any fun c => c.1 = b.regs.word
        | none => false
      if b.phase = 0 ∧ climb then .run s1 (.climbCheck u)
      else if b.phase = 2 then match decodeArith (slotsOf w).2.1 with
        | .ok i => .run s1 i
        | .error _ => .idle (bodyFault s1 1 { code := .illegal })
      else if b.phase = 3 then match decodeWb (slotsOf w).2.2 with
        | .ok i => .run s1 i
        | .error _ => .idle (bodyFault s1 2 { code := .illegal })
      else match beginWord s1 b with
        | (s2, some i) => .run s2 i
        | (s2, none) => .idle s2

/-- An engine of a shuttle, what releases have performed for the shuttle at its home (R294). -/
def engineAt (s : State) (p : Place) (e : Eng) : State × Ready :=
  let s1 := focus (surface s p true) p
  (s1, readyEng s1 e)

/-- Would an engine's instruction of a shuttle issue now, by the meanings `ex`? One that is found waiting would not, and one that waits to push
has issued (R17, R20). -/
def issuesWith (ex : Instr → State → Host.Outcome State Fault Refusal) (s : State) (p : Place) (e : Eng) : Bool :=
  let r := engineAt s p e
  (engOf r.1.me e).cur.any (fun c => !c.bodyDone) && match r.2 with
    | .run u i => match ex i u with
      | .next t => (engOf t.me e).cur.elim true fun c => !c.stalled || c.bodyDone
      | _ => false
    | .idle _ => false

/-- The slots of the other shuttles of a tile that are at an instruction on an engine by the cycle in which one of them could issue (R17). -/
def rivals (s : State) (p : Place) (e : Eng) : List Nat :=
  let now := Nat.max (engOf (shuttleAt s p) e).clock ((tileOf s p.tile).free.toList.getD (engIndex e) 0)
  (List.range 4).filter fun j =>
    let h := shuttleAt s ⟨p.tile, j⟩
    decide (j ≠ p.slot) && !decide (h.life = .idle ∨ h.life = .exited) && decide ((engOf h e).clock ≤ now)
      && (engOf h e).cur.any fun c => !c.bodyDone && c.aborting.isNone

/-- The shuttle that an engine of a tile serves next, asked on behalf of one of them: of those whose instruction issues now, the first in turn after
the slot served last (R17). -/
def chosenWith (ex : Instr → State → Host.Outcome State Fault Refusal) (s : State) (p : Place) (e : Eng) : Place :=
  let rs := rivals s p e
  if rs.isEmpty || !issuesWith ex s p e then p
  else
    let last := (tileOf s p.tile).served.toList.getD (engIndex e) 3
    match ((List.range 4).map fun i => (last + 1 + i) % 4).find? fun j => j = p.slot || (decide (j ∈ rs) && issuesWith ex s ⟨p.tile, j⟩ e) with
    | some j => ⟨p.tile, j⟩
    | none => p

/-- What an agent has ready: a store that a release has performed for it is at its home first (R17, R294). -/
def readyAgent (ex : Instr → State → Host.Outcome State Fault Refusal) (s : State) (a : Agent) : Ready :=
  match a with
  | .seq p => readySeq (focus (surface s p false) p)
  | .eng p e => (engineAt s (chosenWith ex s p e) e).2
  | .nd u => readyNd s u

/-- The place whose engines or sequencer a happening acts for. -/
def happeningPlace (i : Instr) : Option Place :=
  match i with
  | .barWaitReturn q | .tagWaitReturn q | .commandQueueRoom q | .fifoElementArrival q | .tokenAvailable q _ | .entryStart q _
  | .resultLands q _ | .modeCrossingDeadlock q | .entryWatchdog q _ | .streamFetch q _ | .streamBlockFetched q _
  | .outputBlockWrite q _ | .outputWritePerformed q _ | .copySectorIssue q _ | .copySectorDone q _ _ | .stwencEncodeDone q _
  | .coopMatch q | .coopPartnerTimeout q | .rewriteGroupIssue q _ | .pairedCompare q | .atsTranslationComplete q _ => some q
  | _ => none

/-- The state before a happening: what releases have performed for the shuttle that it acts for is at its home (R294). -/
def beforeHappening (s : State) (i : Instr) : State :=
  match happeningPlace i with
  | some q => surface s q true
  | none => s

/-- A happening as a step takes it. A group of the rewrite stage issues at its engine's turn, as any instruction does (R17, R266). -/
def readyEvent (ex : Instr → State → Host.Outcome State Fault Refusal) (s : State) (i : Instr) : Ready :=
  match i with
  | .rewriteGroupIssue q e => match readyAgent ex s (.eng q e) with
    | .run t (.rewriteGroupIssue p d) => if p = q ∧ d = e then .run t i else .idle s
    | _ => .idle s
  | _ => .run (beforeHappening s i) i

/-- A code line of one slot: LAST, interlocked, for an engine code (R39). -/
def oneSlotLine (eng : Nat) (w : IWord) : BitVec 512 :=
  BitVec.ofNat 512 (eng * 2 ^ 29 + 16 + 8 + 1 + w.toNat * 2 ^ 32)

/-- A tile word in the hand of a shuttle of slot 0 of tile 0: on its sequencer, or as the entry an engine runs. The mode is the one the
opcode needs. -/
def placeTileWord (s : State) (w : IWord) : State :=
  let s1 := focus s ⟨0, 0⟩
  let op := (unpack w).op
  let base (h : Shuttle) : Shuttle := { h with
    life := .running, priv := privOp op, pc := 0, wait := none, dueTrap := none, stopReq := false, compareDue := false,
    lastInter := none, kern := { h.kern with lines := Nat.max 1 h.kern.lines } }
  let entry (e : Eng) (code : Nat) : State :=
    { s1 with
      agenda := []
      cur := .eng ⟨0, 0⟩ e
      tile := { s1.tile with served := Vector.replicate 3 3 }
      me := modEng (base s1.me) e (fun q => { q with
        fifo := [], cur := some { entry := { priv := privOp op }, hand := some (oneSlotLine code w) } }) }
  match unitOf op with
  | .seq => { s1 with agenda := [], cur := .seq ⟨0, 0⟩, me := { base s1.me with hand := some (0, oneSlotLine 0 w) } }
  | .str => entry .str 1
  | .vec => entry .vec 2
  | .mtx => entry .mtx 3

/-- A near-data word whose one slot operation is a slot word, in a body on unit 0 of tier M that has come to that slot. -/
def placeSlotWord (s : State) (w : BitVec 32) : State :=
  let at' : Nat × IWord := match decodeSlotWord w with
    | some (.fetch, _) => (1, ofSlots w 0 0)
    | some (.arith, _) => (2, ofSlots 0 w 0)
    | _ => (3, ofSlots 0 0 w)
  let k : Kick := { id := 0, tenant := 0, launch := 0, team := 0, desc := { tierM := true }, kobj := 0 }
  let slot : MSlot := { tierM := true, tierS := false, slot := 0, tenant := 0, kobj := 0, words := [at'.2] }
  let s1 := focusNd s true 0
  { s1 with agenda := [], cur := .nd 0, slots := slot :: s1.slots, nd := { s1.nd with body := some { kick := k, phase := at'.1 } } }

/-- A word of the opcode table placed where the next step fetches it, with the feature that gates it accepted (R6, R57). -/
def placeWord (s : State) (nbits w : Nat) : State :=
  let s1 := modModule s (fun m => { m with accept := 15 })
  if nbits = 32 then placeSlotWord s1 (BitVec.ofNat 32 w) else placeTileWord s1 (BitVec.ofNat 96 w)

end Sys2Proof.Machine
end

