-- ==== Sys2Proof/Machine/Step.lean ====
section
/-! DEFINITION. One step of the machine: the next entry of the agenda, or the current agent's next instruction; and the placing of an
instruction where the next step fetches it. -/
namespace Sys2Proof.Machine

/-- Run what an agent has ready. -/
def runReady (r : Ready) : Host.Outcome State Fault Refusal :=
  match r with
  | .idle s => .next s
  | .run s i => exec i s

/-- One step (R8, R16, R17): the head of the agenda, or the current agent. -/
def step (s : State) : Host.Outcome State Fault Refusal :=
  match s.agenda with
  | [] => runReady (readyAgent exec s s.cur)
  | .issue a :: rest => runReady (readyAgent exec { s with agenda := rest } a)
  | .event i :: rest => if isHappening i then runReady (readyEvent exec { s with agenda := rest } i) else .fault .notAHappening

/-- The state with an instruction of `nbits` bits placed where the next step fetches it. -/
def State.withFetchWord (s : State) (nbits w : Nat) : State := placeWord s nbits w

end Sys2Proof.Machine
end

