-- ==== Sys2Proof/Safety.lean ====
section
/-! DEFINITION. What counts as a safe run: every step answers a next state. -/
namespace Sys2Proof

/-- The machine takes a step from a state. -/
def StepsTo (s t : Machine.State) : Prop := Machine.step s = .next t

/-- A state from which the machine does not stop with a fault or a refusal. -/
def CanStep (s : Machine.State) : Prop := ∃ t, StepsTo s t

/-- Memories in canonical form: device, host and peer memory and every scratchpad listed. -/
def MemoryCanonical (s : Machine.State) : Prop :=
  Machine.Memory.wf s.mem.home ∧ Machine.Memory.wf s.mem.host ∧ Machine.Memory.wf s.mem.peer ∧ Machine.Memory.wf s.tile.scratch
    ∧ ∀ x ∈ s.otherTiles, Machine.Memory.wf x.scratch

end Sys2Proof
end

