-- ==== Sys2Proof/WellFormed.lean ====
section
/-! DEFINITION. Which instructions are well formed: every operand at a value that its entry's limits allow, the control fields as
R44, R45 and R20 allow them for the instruction's engine. A word that decodes holds a well-formed instruction, and a well-formed
instruction has a word (the encoding claims). For a happening: the places it names exist. -/
namespace Sys2Proof

/-- A guard of p0 to p15 in both components (R44). -/
def Ctl.uniform (c : Ctl) : Bool := decide (c.ga.toNat ≤ 15) && decide (c.gb.toNat ≤ 15)

/-- A token queue is none or one of three (R20). -/
def tokIn (q : BitVec 4) (a b d : Nat) : Bool :=
  decide (q.toNat = 0 ∨ q.toNat = a ∨ q.toNat = b ∨ q.toNat = d)

/-- The control fields of a SEQ instruction (R44, R45, R20). -/
def Ctl.seqOk (c : Ctl) (usesCls : Bool) : Bool :=
  c.uniform && (usesCls || decide (c.cls = 0)) && tokIn c.pop 4 7 10 && tokIn c.push 1 2 3
/-- The control fields of a STR instruction. -/
def Ctl.strOk (c : Ctl) (usesCls : Bool) : Bool :=
  c.uniform && (usesCls || decide (c.cls = 0)) && tokIn c.pop 1 8 11 && tokIn c.push 4 5 6
/-- The control fields of a VEC instruction; any predicate may guard it. -/
def Ctl.vecOk (c : Ctl) : Bool := decide (c.cls = 0) && tokIn c.pop 2 5 12 && tokIn c.push 7 8 9
/-- The control fields of an MTX instruction. -/
def Ctl.mtxOk (c : Ctl) : Bool := c.uniform && decide (c.cls = 0) && tokIn c.pop 3 6 9 && tokIn c.push 10 11 12

/-- A seven-bit immediate whose signed value lies in a range. -/
def immIn (lo hi : Int) (x : BitVec 7) : Bool := decide (lo ≤ x.toInt ∧ x.toInt ≤ hi)
/-- A predicate number in a range. -/
def predIn (lo hi : Nat) (p : BitVec 6) : Bool := decide (lo ≤ p.toNat ∧ p.toNat ≤ hi)
/-- A k register or an immediate from 0 to a bound. -/
def KOrImm.upTo (hi : Int) : KOrImm → Bool
  | .k _ => true | .imm x => immIn 0 hi x
/-- A source that is a tile: v, t or s (R247). -/
def VSrc.isTile : VSrc → Bool
  | .v _ | .t _ | .s _ => true | .k _ | .imm _ => false
/-- A source that is a tile or a k register. -/
def VSrc.isTileOrK : VSrc → Bool
  | .v _ | .t _ | .s _ | .k _ => true | .imm _ => false
/-- A k register. -/
def VSrc.isK : VSrc → Bool
  | .k _ => true | _ => false
/-- The floating types (R53: types 0 to 2). -/
def VType.floating : VType → Bool
  | .f32 | .bf16 | .f16 => true | _ => false
/-- f32 or bf16 (R53: types 0 and 1). -/
def VType.special : VType → Bool
  | .f32 | .bf16 => true | _ => false
/-- The reducible types (R53: types 0 to 2 and 4). -/
def VType.reducible : VType → Bool
  | .f32 | .bf16 | .f16 | .i32 => true | _ => false
/-- B16M formats of `vcvt`. -/
def CvtFmt.block : CvtFmt → Bool
  | .b16m7 | .b16m4 | .b16m2 => true | _ => false
/-- The legal pairs of `vcvt` (R252). -/
def cvtLegal (f t : CvtFmt) : Bool :=
  if f.block then decide (t = .f32) else if t.block then decide (f = .f32) else decide (f ≠ t)

/-- A special register that R94 lists. -/
def srListed (n : BitVec 7) : Bool :=
  let i := n.toNat
  decide (i ≤ 0x0A) || decide (0x10 ≤ i ∧ i ≤ 0x1F) || decide (0x20 ≤ i ∧ i ≤ 0x25) || decide (0x28 ≤ i ∧ i ≤ 0x2B)
    || decide (0x40 ≤ i ∧ i ≤ 0x4F)

/-- ROWS 1 to 16 and COLS 1 to 64 in their fields, every other bit 0 (R247). -/
def shapeLegal (i : BitVec 20) : Bool :=
  let rows := i.toNat / 256 % 32
  let cols := i.toNat % 128
  decide (1 ≤ rows ∧ rows ≤ 16) && decide (1 ≤ cols ∧ cols ≤ 64) && decide (i.toNat = rows * 256 + cols)

/-- The rows and columns of a product lie in the accumulator store (R190). -/
def productFits (col : BitVec 4) (n m d : Nat) : Bool := decide (16 * col.toNat + n ≤ 256) && decide (16 * d + m ≤ 128)

/-- A register number of a near-data body (R337). -/
def bodyReg (b : BitVec 8) : Bool := decide (b.toNat < 32)
/-- A pattern number of a near-data body (R337). -/
def bodyPat (b : BitVec 8) : Bool := decide (b.toNat < 8)
/-- A scalar number of a near-data body (R337). -/
def bodyScal (b : BitVec 8) : Bool := decide (b.toNat < 16)

/-- A place exists: tile 0 to 383, slot 0 to 3 (R1, R15). -/
def Place.exists (p : Place) : Bool := decide (p.tile < Config.numTiles) && decide (p.slot < Config.shuttleSlots)

/-- Is an instruction well formed? -/
def Instr.wf (i : Instr) : Bool :=
  match i with
  | .nop c | .safept c | .exit c | .objsync c | .sysret c | .ctxFence c => c.seqOk false
  | .trap c n => c.seqOk false && immIn 0 63 n
  | .climbpt c id => c.seqOk false && decide (id.toNat ≤ 255)
  | .add c _ _ _ | .sub c _ _ _ | .mul c _ _ _ | .mulh c _ _ _ | .div c _ _ _ | .divu c _ _ _ | .rem c _ _ _ | .remu c _ _ _
  | .and c _ _ _ | .or c _ _ _ | .xor c _ _ _ | .andn c _ _ _ | .shl c _ _ _ | .shr c _ _ _ | .sra c _ _ _ | .rotl c _ _ _
  | .min c _ _ _ | .max c _ _ _ | .minu c _ _ _ | .maxu c _ _ _ => c.seqOk false
  | .clz c _ _ | .popc c _ _ => c.seqOk false
  | .extZ c _ _ n | .extS c _ _ n => c.seqOk false && immIn 1 63 n
  | .ldi c _ _ => c.seqOk false
  | .mov c _ _ => c.seqOk false
  | .cmp c _ p _ _ => c.seqOk false && predIn 1 15 p
  | .pand c a b p | .por c a b p | .pxor c a b p => c.seqOk false && predIn 1 15 a && predIn 0 15 b && predIn 0 15 p
  | .pnot c a b | .pmov c a b => c.seqOk false && predIn 1 15 a && predIn 0 15 b
  | .ptgLabel c _ _ | .ptgReg c _ _ => c.seqOk false
  | .br c _ p d | .brl c _ p d => c.seqOk false && predIn 0 15 p && immIn 0 3 d
  | .ld c _ _ _ | .st c _ _ _ => c.seqOk true
  | .cas c _ _ _ _ _ e => c.seqOk true && immIn 1 6 e
  | .amoAdd c _ _ _ _ e | .amoAnd c _ _ _ _ e | .amoOr c _ _ _ _ e | .amoXor c _ _ _ _ e | .amoMin c _ _ _ _ e
  | .amoMax c _ _ _ _ e | .amoMinu c _ _ _ _ e | .amoMaxu c _ _ _ _ e | .amoSwap c _ _ _ _ e => c.seqOk true && immIn 1 6 e
  | .amoFaddF32 c _ _ _ e => c.seqOk true && immIn 1 6 e
  | .fence c o s m => c.seqOk false && immIn 0 3 o && immIn 0 6 s && decide (m.toNat < 65536)
  | .barInit c _ _ e => c.seqOk true && immIn 1 6 e
  | .barArrive c _ _ _ e => c.seqOk true && immIn 1 6 e
  | .barWait c _ _ e => c.seqOk true && immIn 1 6 e
  | .waitany c _ _ | .ffready c _ _ => c.seqOk false
  | .waitall c _ | .tagclr c _ => c.seqOk false
  | .run c _ n g _ => c.seqOk false && immIn 1 63 n && decide (g.toNat ≤ 28)
  | .runLoop c _ n g _ x => c.seqOk false && immIn 1 63 n && decide (g.toNat ≤ 28) && immIn 0 24 x
  | .popEng c _ _ => c.seqOk false
  | .popP c p => c.seqOk false && predIn 1 15 p
  | .tokPush c q n => c.seqOk false && immIn 1 3 q && immIn 1 15 n
  | .tokPop c q n => c.seqOk false && decide (q.toNat = 4 ∨ q.toNat = 7 ∨ q.toNat = 10) && immIn 1 15 n
  | .spawn c _ _ | .kick c _ _ => c.seqOk false
  | .getsr c _ sr t => c.seqOk false && srListed sr && decide (t.isSome = decide (sr.toNat = 5))
  | .setsr c sr _ => c.seqOk false && srListed sr
  | .tstamp c _ | .ovfLoad c _ => c.seqOk false
  | .cardLoad c _ _ => c.seqOk false
  | .xlinv c _ m => c.seqOk false && immIn 0 1 m
  | .sbind c _ d _ _ | .sbindTw c _ d _ _ | .sbindB16 c _ d _ _ => c.strOk false && immIn 0 63 d
  | .sunbind c _ t => c.strOk false && immIn (-1) 63 t
  | .sseek c _ x => c.strOk false && x.upTo 63
  | .scopy c t _ _ n => c.strOk true && immIn 0 63 t && n.upTo 63
  | .scopy2d c t _ _ _ _ | .sgather c t _ _ _ _ | .sscatter c t _ _ _ _ => c.strOk true && immIn 0 63 t
  | .sfill c t _ n _ => c.strOk true && immIn 0 63 t && n.upTo 63
  | .sprefetch c _ n | .spin c _ n | .sunpin c _ n | .sscale c _ n => c.strOk false && n.upTo 63
  | .spromote c t _ _ => c.strOk false && immIn 0 63 t
  | .stwenc c t _ _ _ _ => c.strOk false && immIn 0 63 t
  | .slzput c t _ _ n _ => c.strOk true && immIn 0 63 t && n.upTo 63
  | .sresume c _ => c.strOk false
  | .mma c _ m n a _ _ d =>
    c.mtxOk && decide (n.toNat ≠ 3) && immIn 0 7 d && productFits a (64 * 2 ^ n.toNat) (16 * 2 ^ m.toNat) d.toNat
  | .mmaCoop c _ m _ _ _ d q => c.mtxOk && immIn 0 7 d && productFits 0 256 (16 * 2 ^ m.toNat) d.toNat && q.upTo 63
  | .mmaReed c _ m _ _ d => c.mtxOk && immIn 0 7 d && productFits 0 256 (16 * 2 ^ m.toNat) d.toNat
  | .accZero c a n m => c.mtxOk && immIn 1 16 n && immIn 0 1 m && decide (a.toNat + n.toNat ≤ 16)
  | .accScale c a n b r _ =>
    c.mtxOk && immIn 1 16 n && immIn 0 7 b && immIn 1 8 r && decide (a.toNat + n.toNat ≤ 16) && decide (b.toNat + r.toNat ≤ 8)
  | .accRd c _ _ b | .accWr c _ _ b => c.mtxOk && immIn 0 7 b
  | .accFlush c b r => c.mtxOk && immIn 0 7 b && immIn 1 8 r && decide (b.toNat + r.toNat ≤ 8)
  | .mpre c _ f n => c.mtxOk && immIn 0 9 f && immIn 0 3 n
  | .msync c => c.mtxOk
  | .vadd c t _ _ _ | .vsub c t _ _ _ | .vmul c t _ _ _ | .vmin c t _ _ _ | .vmax c t _ _ _ | .vcopysign c t _ _ _ =>
    c.vecOk && t.floating
  | .vfma c t _ _ _ _ | .vfms c t _ _ _ _ | .vnfma c t _ _ _ _ => c.vecOk && t.floating
  | .vabs c t _ _ | .vneg c t _ _ => c.vecOk && t.floating
  | .viadd c t _ _ _ | .visub c t _ _ _ | .vimul c t _ _ _ | .vand c t _ _ _ | .vor c t _ _ _ | .vxor c t _ _ _
  | .vshl c t _ _ _ | .vshr c t _ _ _ | .vsra c t _ _ _ | .vimin c t _ _ _ | .vimax c t _ _ _ => c.vecOk && !t.floating
  | .vcmp c _ _ p _ _ => c.vecOk && predIn 16 63 p
  | .vsel c _ _ _ _ _ => c.vecOk
  | .vexp2 c t _ _ | .vexp c t _ _ | .vlog2 c t _ _ | .vrcp c t _ _ | .vrsqrt c t _ _ | .vsqrt c t _ _ | .vtanh c t _ _ =>
    c.vecOk && t.special
  | .vredSumRow c t _ b | .vredSumCol c t _ b | .vredMaxRow c t _ b | .vredMaxCol c t _ b => c.vecOk && t.reducible && b.isTile
  | .vredMaxsumRow c t a b x y | .vredMaxsumCol c t a b x y =>
    c.vecOk && t.special && decide (a ≠ b) && x.isTile && y.isTile
  | .vcvt c f t _ _ b => c.vecOk && cvtLegal f t && b.isTileOrK && !(b.isK && f.block)
  | .vmov c _ b | .vtrn c _ _ b => c.vecOk && b.isTile
  | .vld c _ _ => c.vecOk
  | .vst c _ _ => c.vecOk && c.uniform
  | .vshapeImm c i => c.vecOk && shapeLegal i
  | .vshapeK c _ => c.vecOk
  | .vbcast c _ _ b m => c.vecOk && b.isTileOrK && immIn 0 1 m && !(b.isK && decide (m ≠ 0))
  | .vperm c _ _ b y => c.vecOk && b.isTile && y.isTile
  | .vpand c a _ _ | .vpor c a _ _ | .vpxor c a _ _ => c.vecOk && predIn 16 63 a
  | .vpnot c a _ => c.vecOk && predIn 16 63 a
  | .vpcount c _ | .voteAny c _ | .voteAll c _ => c.vecOk
  | .vext c _ r x => c.vecOk && r.upTo 15 && x.upTo 15
  | .fnop | .ndNop | .wnop => true
  | .fld x y | .fldp x y => bodyReg x && bodyPat y
  | .fnext y => bodyPat y
  | .frec x y | .wrec x y => bodyReg x && bodyScal y
  | .ndMov x y | .abs x y | .neg x y | .exp2 x y | .rcp x y => bodyReg x && bodyReg y
  | .imm x _ _ => bodyReg x
  | .ndAdd x y z | .ndSub x y z | .ndMul x y z | .fma x y z | .ndMax x y z | .ndMin x y z | .sel x y z | .iadd x y z
  | .dot x y z => bodyReg x && bodyReg y && bodyReg z
  | .ndCmp _ _ y z => bodyReg y && bodyReg z
  | .cvt x y _ k => bodyReg x && bodyReg y && decide (k.toNat ≤ 3)
  | .twd x y z => bodyReg x && bodyReg y && decide (z.toNat ≤ 23)
  | .b16x x y z => bodyReg x && bodyReg y && decide (z = 2 ∨ z = 4 ∨ z = 7)
  | .reed x => bodyReg x
  | .rflush x y => bodyReg x && decide (y.toNat ≤ 1)
  | .wst x y => bodyReg x && bodyPat y
  | .wacc x y _ => bodyReg x && bodyPat y
  | .wmb x y => bodyReg x && decide (y.toNat ≤ 11)
  | .barWaitReturn q | .tagWaitReturn q | .commandQueueRoom q | .fifoElementArrival q | .modeCrossingDeadlock q => q.exists
  | .tokenAvailable q _ | .resultLands q _ => q.exists
  | .entryStart q _ | .entryWatchdog q _ | .rewriteGroupIssue q _ => q.exists
  | .streamFetch q _ | .streamBlockFetched q _ | .outputBlockWrite q _ | .outputWritePerformed q _ => q.exists
  | .copySectorIssue q _ | .stwencEncodeDone q _ | .atsTranslationComplete q _ => q.exists
  | .copySectorDone q _ _ => q.exists
  | .coopMatch q | .coopPartnerTimeout q | .pairedCompare q => q.exists
  | .seqAccessPerformed q _ => q.exists
  | .mscFill t | .mscEvict t | .sealRetry t => decide (t < Config.physTiles)
  | .resealSweepStep _ _ t => decide (t < Config.physTiles)
  | .l1Evict t _ => decide (t < Config.numTiles)
  | .kickBodyStart _ | .climbCheck _ | .bodyComplete _ | .zoneContribution _ | .remoteStoreArrival _ | .remoteStoreAck _
  | .releaseFlagSend _ | .releaseFlagApply _ | .linkFailure _ | .promotionComplete _ | .scheduleEntryDue _ | .handoverAccept _
  | .handoverAcceptTimeout _ | .repairObserved _ _ _ | .doorbellWrite _ _ _ | .launchAdmit _ _ | .taskAdmit _ _
  | .dependenceRecheck _ _ | .headAging _ _ | .teamPlace | .rtPreempt | .completionIncrement _ | .preemptRequest _
  | .gangDrainSave _ | .gangResume _ | .gangStop _ | .faultQueueRoom _ | .prgResponse _ _ _ | .atsInvalidation _ _
  | .apertureRead _ _ _ | .apertureWrite _ _ | .hostBarAccess _ _ _ | .acceptWrite _ | .registerWrite _ _ | .loadMicrocodeSlot
  | .freeMicrocodeSlot | .assignSealTiles | .armNextGeneration | .readQuotaRecord | .writeQuotaRecord | .setQueue
  | .setAgingThresholds | .preemptGang | .stopGang | .resumeStoppedGang | .endLaunch | .copyStockDeck | .writeFabricWindow
  | .attestationReport | .refreshPayback _ _ | .forcedAllBankRefresh _ | .alertBackoff _ _ _ | .nandFrameRead _ _ | .errorEvent _
  | .laneRetrainDone _ | .droopAlarm _ | .droopResponseEnd _ | .thermalThrottle | .powerOn | .l2Writeback _
  | .perBankRefreshDue _ _ | .releaseFlagAck _ | .linkRecovery _ | .tdispStateChange _ _ | .thermalThrottleEnd => true

end Sys2Proof
end

