-- ==== Sys2Proof/Certificates/Slice0/Obligations.lean ====
section
/-! DEFINITION. The statements for the provers, each from the rules of spec/, with the words they are said in. Hypotheses are about the
state and the operands alone; each statement has its witness in Tests/Slice0.lean. -/
namespace Sys2Proof.Claim
open Sys2Proof.Machine

/-! ### Words for the sequencer -/

/-- The shuttle as a SEQ instruction reads it: the results that are due have landed (R23), and its POP is done (R20). -/
def reader (c : Ctl) (s : State) : Shuttle := { doPop (settle s.me) c with wait := none }
/-- The state as a SEQ instruction's body finds it. -/
def start (c : Ctl) (s : State) : State := { s with me := reader c s }
/-- A SEQ instruction executes: its token is there and its guard is true (R20, R90). -/
def Issues (c : Ctl) (s : State) : Prop := popBlocked (settle s.me) c = false ∧ guardWith (getP (reader c s)) c = true

/-- The results that are pending once an instruction that issued in a shuttle has done its PUSH: the token goes with the result the instruction
owes, where it owes one and the tokens counted and due are below 15 (R8, R20). -/
def pendsAfter (c : Ctl) (h : Shuttle) (l : List Pend) : List Pend :=
  if c.push = 0 ∨ 15 ≤ tokCount h c.push.toNat + pushesDue h c.push.toNat then l
  else l.map fun x => if x.issue = h.clock then { x with push := c.push.toNat } else x

/-- The tokens and the wait once an instruction has done its PUSH, `owes` where it has a result that has yet to land: a token now, or with that
result, or a wait at 15 (R8, R20). -/
def PushDone (c : Ctl) (owes : Bool) (h t : Shuttle) : Prop :=
  if c.push = 0 then t.tok = h.tok ∧ t.wait = none
  else if 15 ≤ tokCount h c.push.toNat + pushesDue h c.push.toNat then
    t.tok = h.tok ∧ t.wait = some (if owes then .pushRes c.push.toNat h.clock else .pushTok c.push.toNat)
  else if owes then t.tok = h.tok ∧ t.wait = none
  else t.tok = h.tok.setIfInBounds c.push.toNat (tokCount h c.push.toNat + 1) ∧ t.wait = none

/-- What the end of a SEQ instruction leaves of the pc, the clock, the tokens and the wait, from the shuttle as it issued (R20, R23, R41,
R104). -/
def Ended (c : Ctl) (occ : Nat) (h t : Shuttle) : Prop :=
  t.pc = (stepPc h).pc ∧ t.delay = (stepPc h).delay
    ∧ t.clock = h.clock + occ + (if exposed h then c.sched.toNat else 0)
    ∧ t.popped = false ∧ PushDone c (owesResult t h.clock) h t

/-- A shuttle that differs from another in SEQ's registers, its pending results and what `Ended` fixes, and in nothing else: no stream, no
tile, no special register, no queue, no pending store. -/
def OnlySeqRegs (h t : Shuttle) : Prop :=
  t = { h with g := t.g, p := t.p, b := t.b, pend := t.pend, late := t.late, pc := t.pc, delay := t.delay, clock := t.clock, tok := t.tok,
               wait := t.wait, popped := t.popped, compareOk := t.compareOk }

/-- A state that differs in the shuttle in focus and the clock alone: no memory, no other shuttle, no context. -/
def OnlyShuttle (s t : State) : Prop := t = { s with me := t.me, cycles := Nat.max s.cycles t.me.clock }

/-- May an earlier result of variable latency for a destination land after one of fixed latency that issues now, in an exposed line (R91)? -/
def Overtaken (h : Shuttle) (d : SeqDest) : Prop := exposed h = true ∧ d ∈ h.late

/-- A result of fixed latency for a g register or a predicate: written at once where it takes one cycle and the line is interlocked, pending
until issue + latency otherwise; every other g register and predicate as it was; g0 and p0 as they were (R23, R89, R91). Where it may be
overtaken, whether it is lost is the free value `stale`. -/
def Results (c : Ctl) (d : SeqDest) (v : Word) (lat : Nat) (stale : Bool) (h t : Shuttle) : Prop :=
  let new : Pend := { dest := d, val := v, land := h.clock + lat, issue := h.clock }
  t.b = h.b ∧ t.late = h.late ∧
  (Overtaken h d → t.g = h.g ∧ t.p = h.p ∧ t.pend = pendsAfter c h (h.pend ++ [if stale then lostPend new else new]))
  ∧ (¬ Overtaken h d → (exposed h = true ∨ 1 < lat) → t.g = h.g ∧ t.p = h.p ∧ t.pend = pendsAfter c h (h.pend ++ [new]))
  ∧ (exposed h = false → lat ≤ 1 → t.pend = pendsAfter c h h.pend ∧
      match d with
      | .g r => t.p = h.p ∧ ∀ q : BitVec 5, getG t q = if q = r ∧ r ≠ 0 then v else getG h q
      | .p r => t.g = h.g ∧ ∀ q : BitVec 6, q.toNat < 16 → getP t q = if q = r ∧ r ≠ 0 then v != 0 else getP h q)

/-- A state that differs in the shuttle in focus, the clock and, where a free value was read, its counter. -/
def OnlyShuttleFree (read : Prop) [Decidable read] (s t : State) : Prop :=
  t = { s with me := t.me, cycles := Nat.max s.cycles t.me.clock, fresh := if read then s.fresh + 1 else s.fresh }

/-- A SEQ instruction whose whole effect is one result of fixed latency. -/
def GivesResult (c : Ctl) (d : SeqDest) (v : Word) (lat occ : Nat) (s t : State) : Prop :=
  OnlyShuttleFree (exposed (reader c s) = true ∧ d ∈ (reader c s).late) s t ∧ OnlySeqRegs (reader c s) t.me ∧ Ended c occ (reader c s) t.me
    ∧ Results c d v lat (Config.chooseStale s.fresh) (reader c s) t.me

/-- The value of a binary instruction (R97). -/
def binaryValue (i : Instr) (b c : Word) : Word :=
  match i with
  | .add .. => BitVec.ofNat 64 (b.toNat + c.toNat)
  | .sub .. => BitVec.ofInt 64 (b.toInt - c.toInt)
  | .mul .. => BitVec.ofNat 64 (b.toNat * c.toNat)
  | .mulh .. => ((b.signExtend 128) * (c.signExtend 128)).extractLsb' 64 64
  | .and .. => b &&& c
  | .or .. => b ||| c
  | .xor .. => b ^^^ c
  | .andn .. => b &&& ~~~c
  | .shl .. => b <<< (c.toNat % 64)
  | .shr .. => b >>> (c.toNat % 64)
  | .sra .. => b.sshiftRight (c.toNat % 64)
  | .rotl .. => b <<< (c.toNat % 64) ||| b >>> (64 - c.toNat % 64)
  | .min .. => if c.slt b then c else b
  | .max .. => if b.slt c then c else b
  | .minu .. => if c.ult b then c else b
  | .maxu .. => if b.ult c then c else b
  | _ => 0

/-- The operands, latency and occupancy of a binary instruction other than a division (R97, R141). -/
def binaryParts (i : Instr) : Option (Ctl × BitVec 5 × BitVec 5 × GSrc × Nat) :=
  match i with
  | .mul c a b x => some (c, a, b, x, 3)
  | .mulh c a b x => some (c, a, b, x, 4)
  | .add c a b x | .sub c a b x | .and c a b x | .or c a b x | .xor c a b x | .andn c a b x | .shl c a b x | .shr c a b x
  | .sra c a b x | .rotl c a b x | .min c a b x | .max c a b x | .minu c a b x | .maxu c a b x => some (c, a, b, x, 1)
  | _ => none

/-- The results of the divisions (R98). -/
def divValue (i : Instr) (b c : Word) : Word :=
  match i with
  | .div .. => if c = 0 then 0xFFFFFFFFFFFFFFFF else b.sdiv c
  | .rem .. => if c = 0 then b else b.srem c
  | .divu .. => if c = 0 then 0xFFFFFFFFFFFFFFFF else b.udiv c
  | .remu .. => if c = 0 then b else b.umod c
  | _ => 0

/-- The operands of a division. -/
def divParts (i : Instr) : Option (Ctl × BitVec 5 × BitVec 5 × GSrc) :=
  match i with
  | .div c a b x | .divu c a b x | .rem c a b x | .remu c a b x => some (c, a, b, x)
  | _ => none

/-- The destination and the value of the unary forms, `ldi` and `mov` (R99, R100). -/
def unaryParts (i : Instr) (h : Shuttle) : Option (Ctl × BitVec 5 × Word) :=
  match i with
  | .clz c a b => some (c, a, (getG h b).clz)
  | .popc c a b => some (c, a, BitVec.ofNat 64 (((List.range 64).filter fun i => (getG h b).getLsbD i).length))
  | .extZ c a b n => some (c, a, ((getG h b).setWidth n.toNat).setWidth 64)
  | .extS c a b n => some (c, a, ((getG h b).setWidth n.toNat).signExtend 64)
  | .ldi c a (.imm20 k) => some (c, a, k.signExtend 64)
  | .ldi c a (.imm30 k) => some (c, a, k.signExtend 64)
  | .ldi c a (.imm40 k) => some (c, a, k.setWidth 64)
  | .mov c a (.g r) => some (c, a, getG h r)
  | .mov c a (.b r) => some (c, a, (getB h r).addr)
  | _ => none

/-- n of `ext.z` and `ext.s` lies from 1 to 63 (R99); every other form is unrestricted. -/
def extOk (i : Instr) : Prop :=
  match i with
  | .extZ _ _ _ n | .extS _ _ _ n => 1 ≤ n.toNat ∧ n.toNat ≤ 63
  | _ => True

/-- The tests of `cmp` (R101). -/
def cmpTest (cc : SeqCc) (b x : Word) : Bool :=
  match cc with
  | .eq => b == x
  | .ne => !(b == x)
  | .lt => b.slt x
  | .ge => !(b.slt x)
  | .le => b.sle x
  | .gt => !(b.sle x)
  | .ltu => b.ult x
  | .geu => !(b.ult x)
  | .leu => b.ule x
  | .gtu => !(b.ule x)

/-- The destination and the outcome of the compares and the predicate instructions (R101, R102). -/
def predParts (i : Instr) (h : Shuttle) : Option (Ctl × BitVec 6 × Bool) :=
  match i with
  | .cmp c cc p b x => some (c, p, cmpTest cc (getG h b) (srcVal h x))
  | .pand c a b p => some (c, a, getP h b && getP h p)
  | .por c a b p => some (c, a, getP h b || getP h p)
  | .pxor c a b p => some (c, a, getP h b ^^ getP h p)
  | .pnot c a b => some (c, a, !getP h b)
  | .pmov c a b => some (c, a, getP h b)
  | _ => none

end Sys2Proof.Claim
open Sys2Proof Sys2Proof.Machine Sys2Proof.Claim

/-- R97, R141: a binary instruction other than a division gives its value of B and C to A after its latency, and changes nothing else. -/
def Sys2Proof.Claim.BinaryResult : Prop :=
  ∀ (i : Instr) (c : Ctl) (a b : BitVec 5) (x : GSrc) (lat : Nat) (s : State), binaryParts i = some (c, a, b, x, lat) → Issues c s →
    ∃ t, exec i s = .next t ∧ GivesResult c (.g a) (binaryValue i (getG (reader c s) b) (srcVal (reader c s) x)) lat 1 s t

/-- R98: the divisions truncate towards zero, the remainder has the sign of the dividend, and the borderline cases are fixed. -/
def Obligations.DivisionResult : Prop :=
  ∀ (i : Instr) (c : Ctl) (a b : BitVec 5) (x : GSrc) (s : State), divParts i = some (c, a, b, x) → Issues c s →
    ∃ t, exec i s = .next t ∧ GivesResult c (.g a) (divValue i (getG (reader c s) b) (srcVal (reader c s) x)) 36 36 s t

/-- R99, R100: the unary forms, `ldi` and `mov`. -/
def Sys2Proof.Claim.UnaryResult : Prop :=
  ∀ (i : Instr) (c : Ctl) (a : BitVec 5) (v : Word) (s : State), extOk i → Issues c s → unaryParts i (reader c s) = some (c, a, v) →
    ∃ t, exec i s = .next t ∧ GivesResult c (.g a) v 1 1 s t

/-- R101, R102: the compares and the predicate instructions set one predicate. -/
def Sys2Proof.Claim.PredicateResult : Prop :=
  ∀ (i : Instr) (c : Ctl) (p : BitVec 6) (v : Bool) (s : State), p.toNat < 16 → Issues c s → predParts i (reader c s) = some (c, p, v) →
    ∃ t, exec i s = .next t ∧ GivesResult c (.p p) (if v then 1 else 0) 1 1 s t

/-- R89, R91, R97, R99 to R102, R141: the integer instructions, `ldi`, `mov`, the compares and the predicate instructions give their one result and change
nothing else. -/
def Obligations.SeqResults : Prop := Claim.BinaryResult ∧ Claim.UnaryResult ∧ Claim.PredicateResult
namespace Sys2Proof.Claim
open Sys2Proof.Machine

/-! ### Control, branches and traps -/

/-- A shuttle that keeps g, p, b and the pending results of another, a PUSH apart that goes with one of them, in a state where only the shuttle and the clock changed. -/
def GoesOn (c : Ctl) (occ : Nat) (s : State) (h : Shuttle) (t : State) : Prop :=
  OnlyShuttle s t ∧ OnlySeqRegs h t.me ∧ Ended c occ h t.me ∧ t.me.g = h.g ∧ t.me.p = h.p ∧ t.me.b = h.b
    ∧ t.me.late = h.late ∧ t.me.pend = pendsAfter c h h.pend

/-- The shuttle as `nop`, `safept`, `climbpt` and `ptg` leave it, the end of the instruction apart: a safe point is passed, and a paired
shuttle owes a compare; a b register takes an address and says whether a g register gave it (R103, R106, R107, R406). -/
def controlEffect (i : Instr) (h : Shuttle) : Option (Ctl × Shuttle) :=
  match i with
  | .nop c => some (c, h)
  | .safept c | .climbpt c _ => some (c, { h with fresh := true, compareDue := h.compareDue || h.paired })
  | .ptgLabel c b a => some (c, { h with b := h.b.set b.toNat { addr := a.signExtend 64, fromG := false } b.isLt })
  | .ptgReg c b g => some (c, { h with b := h.b.set b.toNat { addr := getG h g, fromG := true } b.isLt })
  | _ => none

/-- The parts of a branch, and whether it links (R104). -/
def branchParts (i : Instr) : Option (Ctl × BitVec 2 × BitVec 6 × BitVec 7 × Bool) :=
  match i with
  | .br c b p d => some (c, b, p, d, false)
  | .brl c b p d => some (c, b, p, d, true)
  | _ => none

/-- The privileged instructions of the sequencer (R50). -/
def seqPrivileged (i : Instr) : Bool :=
  match i with
  | .ovfLoad .. | .cardLoad .. | .objsync .. | .xlinv .. | .sysret .. | .ctxFence .. => true
  | _ => false

/-- A trap entered by the shuttle that the drain of R26 leaves: cause, VA and the resume address kept, privileged mode, at the handler, no result
and no store pending (R26, R92). -/
def EntersHandler (cause va : Nat) (resume : Word) (h t : Shuttle) : Prop :=
  t.trapCode = BitVec.ofNat 64 cause ∧ t.trapVa = BitVec.ofNat 64 va ∧ t.trapPc = resume ∧ t.priv = true ∧ t.pc = h.trapVec
    ∧ t.delay = none ∧ t.pend = [] ∧ t.trapVec = h.trapVec ∧ t.s = h.s ∧ t.v = h.v ∧ t.vp = h.vp ∧ t.fpflags = h.fpflags
    ∧ t.stores = [] ∧ t.copies = h.copies ∧ t.life = h.life

/-- The queue that a record of the shuttle goes to has room, no record waits before it, no copy holds a buffer over it, and its next entry is at
`slot`, apart from the header (R367, R375). -/
def QueueHasRoom (s : State) (base slot : Nat) : Prop :=
  fqBase s (mgmtLaunch s) s.me.tenant = some base ∧ fqWaiting s (mgmtLaunch s) s.me.tenant = [] ∧ fqRoom s base = true
    ∧ fqSlot s (mgmtLaunch s) s.me.tenant base = some slot ∧ buffersTile s base = false ∧ buffersTile s slot = false
    ∧ (slot + 64 ≤ base + 4 ∨ base + 8 ≤ slot)

/-- The record of a trap of the shuttle (R373). -/
def trapRecord (s : State) (c : Code) (va : Nat) : FaultRec :=
  { code := c, eng := 0, tenant := s.me.tenant, vtile := s.me.vtile, ptile := s.me.place.tile, team := s.me.team,
    seqno := if mgmtLaunch s then s.module.mgmtSeq else (ctxOf s s.me.tenant).nextSeq,
    codepos := codePos (s.me.pc.toNat / 8) (s.me.pc.toNat % 8), va := va }

/-- A record written at HEAD of a queue, and HEAD advanced (R375). -/
def RecordWritten (base slot : Nat) (r : FaultRec) (s t : State) : Prop :=
  memRead t.mem.home slot 64 = recBytes r ∧ memNat t.mem.home (base + 4) 4 = (memNat s.mem.home (base + 4) 4 + 1) % 2 ^ 32
    ∧ ∀ a, (a < base + 4 ∨ base + 8 ≤ a) → (a < slot ∨ slot + 64 ≤ a) → memGet t.mem.home a = memGet s.mem.home a

end Sys2Proof.Claim
open Sys2Proof Sys2Proof.Machine Sys2Proof.Claim

/-- R103, R106, R107: `nop` has no effect, `safept` and `climbpt` none but being safe points, `ptg` sets a b register without a check. -/
def Sys2Proof.Claim.ControlResult : Prop :=
  ∀ (i : Instr) (c : Ctl) (h : Shuttle) (s : State), Issues c s → controlEffect i (reader c s) = some (c, h) →
    ∃ t, exec i s = .next t ∧ GoesOn c 1 s h t

/-- R104: a branch whose target and delay slots are legal goes to its target after its delay slots where its predicate is true, and past
them where it is false; `brl` writes g31 either way; a taken branch takes 4 − d issue cycles, one not taken takes 1 (R141). -/
def Sys2Proof.Claim.BranchResult : Prop :=
  ∀ (i : Instr) (c : Ctl) (b : BitVec 2) (p : BitVec 6) (d : BitVec 7) (link : Bool) (next : Word) (s : State),
    branchParts i = some (c, b, p, d, link) → d.toNat ≤ 3 → Issues c s →
    delaySlots (start c s) (reader c s) (reader c s).pc d.toNat = some next →
    targetOk (start c s) (reader c s) (getB (reader c s) b).addr = true →
    (getP (reader c s) p = true → (getB (reader c s) b).fromG = true →
      indirectOk (start c s) (reader c s) (getB (reader c s) b).addr = true) →
    ∃ t, exec i s = .next t
      ∧ OnlyShuttleFree (link = true ∧ exposed (reader c s) = true ∧ SeqDest.g 31 ∈ (reader c s).late) s t
      ∧ OnlySeqRegs (reader c s) t.me
      ∧ (let go := if getP (reader c s) p then (getB (reader c s) b).addr else next
         if d = 0 then t.me.pc = go ∧ t.me.delay = (reader c s).delay
         else t.me.pc = nextPc (reader c s) ∧ t.me.delay = some (d.toNat, go))
      ∧ t.me.clock = (reader c s).clock + (if getP (reader c s) p then 4 - d.toNat else 1)
          + (if exposed (reader c s) then c.sched.toNat else 0)
      ∧ PushDone c (owesResult t.me (reader c s).clock) (reader c s) t.me
      ∧ (if link then Results c (.g 31) next 1 (Config.chooseStale s.fresh) (reader c s) t.me
         else t.me.g = (reader c s).g ∧ t.me.p = (reader c s).p ∧ t.me.b = (reader c s).b
           ∧ t.me.late = (reader c s).late ∧ t.me.pend = pendsAfter c (reader c s) (reader c s).pend)

/-- R103, R104, R106, R107, R141: the control instructions and the branches. -/
def Obligations.ControlFlow : Prop := Claim.ControlResult ∧ Claim.BranchResult

/-- R26, R92, R93, R108: `trap n` in user mode with a handler delivers cause 0x80 + n, VA 0, and the address of the next instruction, and goes
on at TRAPVEC in privileged mode; it writes no record and touches nothing beyond its shuttle, the performing of its earlier stores apart. To enter
the handler IS the effect of `trap`: it completes so for every `n` and every state in user mode with a handler, once every remote store issued
earlier is acknowledged (R112). -/
def Sys2Proof.Claim.TrapEntersHandler : Prop :=
  ∀ (c : Ctl) (n : BitVec 7) (s : State), n.toNat ≤ 63 → Issues c s → s.me.priv = false → s.me.trapVec ≠ 0 →
    unacknowledged (drainTrap (start c s)) = false →
    ∃ t, exec (.trap c n) s = .next t ∧ OnlyShuttle (drainTrap (start c s)) t
      ∧ EntersHandler (0x80 + n.toNat) 0 (nextPc (reader c s)) (drainTrap (start c s)).me t.me
      ∧ t.me.g = (landAll (reader c s)).g ∧ t.me.p = (landAll (reader c s)).p

/-- R92: with no handler, or already in privileged mode, `trap n` halts the shuttle; TRAPPC, TRAPCODE and TRAPVA keep their values. -/
def Sys2Proof.Claim.TrapHalts : Prop :=
  ∀ (c : Ctl) (n : BitVec 7) (s : State), Issues c s → (s.me.priv = true ∨ s.me.trapVec = 0) →
    unacknowledged (drainTrap (start c s)) = false →
    ∃ t, exec (.trap c n) s = .next t ∧ t.me.life = .halted ∧ t.me.trapPc = s.me.trapPc ∧ t.me.trapCode = s.me.trapCode
      ∧ t.me.trapVa = s.me.trapVa ∧ t.me.priv = s.me.priv ∧ t.mem = (drainTrap (start c s)).mem ∧ t.ctxs = (drainTrap (start c s)).ctxs

/-- R50, R48, R92, R93: a privileged instruction in user mode has none of its effects; it writes a PRIV record and enters the handler at the
address of the instruction itself, with its POP not done. -/
def Sys2Proof.Claim.PrivilegedTrapsInUserMode : Prop :=
  ∀ (i : Instr) (s : State) (base slot : Nat), seqPrivileged i = true → s.me.priv = false → s.me.trapVec ≠ 0 →
    unacknowledged (drainTrap s) = false → QueueHasRoom (drainTrap s) base slot →
    ∃ t, exec i s = .next t ∧ EntersHandler 0x02 0 s.me.pc (drainTrap s).me t.me ∧ t.me.tok = (landAll s.me).tok
      ∧ RecordWritten base slot (trapRecord (drainTrap s) .priv 0) (drainTrap s) t

/-- R48, R50, R92, R93, R108: `trap` and the privileged instructions enter the handler, or halt the shuttle. -/
def Obligations.TrapsTaken : Prop := Claim.TrapEntersHandler ∧ Claim.TrapHalts ∧ Claim.PrivilegedTrapsInUserMode
namespace Sys2Proof.Claim
open Sys2Proof.Machine

/-! ### Memory -/

/-- The effective address of `ld` and `st` (R110): modulo 2^64. -/
def address (h : Shuttle) (n : Nat) (x : Addr) : Nat :=
  match x with
  | .imm7 b i => ((((getG h b).toNat : Int) + i.toInt) % (2 ^ 64 : Int)).toNat
  | .idx b g => ((getG h b).toNat + (getG h g).toNat * n) % 2 ^ 64
  | .imm20 b i => ((((getG h b).toNat : Int) + i.toInt) % (2 ^ 64 : Int)).toNat

/-- Bytes of the shuttle's own scratchpad that it may reach at the local range, from an offset (R146, R289): an aligned access to them. -/
def OwnScratch (s : State) (ea n o : Nat) : Prop :=
  ea = Config.localRange + o ∧ o + n ≤ 2 ^ 20 ∧ o % n = 0 ∧ scratchOk s s.me.place.tile o n = true

/-- Every register and every byte of memory as before, the pending stores of the shuttle in focus and what the end of a SEQ instruction
fixes apart. -/
def OnlyStores (h t : Shuttle) : Prop :=
  t = { h with stores := t.stores, pend := t.pend, pc := t.pc, delay := t.delay, clock := t.clock, tok := t.tok, wait := t.wait,
               popped := t.popped, compareOk := t.compareOk }

/-- The operation of an atomic (R115, R116, R117): the operand words of the shuttle and the old value give the new one, or leave it, with
the flags raised. -/
def atomicNew (i : Instr) (h : Shuttle) (old : Nat) : Option (Nat × FpFlags) :=
  let v (w : Width) (r : BitVec 5) : Nat := (getG h r).toNat % 2 ^ (8 * w.bytes)
  match i with
  | .cas _ w _ _ x y _ => if old = v w x then some (v w y, 0) else none
  | .amoAdd _ w _ _ x _ => some ((old + v w x) % 2 ^ (8 * w.bytes), 0)
  | .amoAnd _ w _ _ x _ => some ((old &&& v w x) % 2 ^ (8 * w.bytes), 0)
  | .amoOr _ w _ _ x _ => some ((old ||| v w x) % 2 ^ (8 * w.bytes), 0)
  | .amoXor _ w _ _ x _ => some ((old ^^^ v w x) % 2 ^ (8 * w.bytes), 0)
  | .amoMin _ w _ _ x _ => some ((if signedOf (8 * w.bytes) old ≤ signedOf (8 * w.bytes) (v w x) then old else v w x) % 2 ^ (8 * w.bytes), 0)
  | .amoMax _ w _ _ x _ => some ((if signedOf (8 * w.bytes) old ≤ signedOf (8 * w.bytes) (v w x) then v w x else old) % 2 ^ (8 * w.bytes), 0)
  | .amoMinu _ w _ _ x _ => some ((if old ≤ v w x then old else v w x) % 2 ^ (8 * w.bytes), 0)
  | .amoMaxu _ w _ _ x _ => some ((if old ≤ v w x then v w x else old) % 2 ^ (8 * w.bytes), 0)
  | .amoSwap _ w _ _ x _ => some (v w x % 2 ^ (8 * w.bytes), 0)
  | .amoFaddF32 _ _ _ x _ => some (fadd old (v .w32 x))
  | _ => none

/-- The operands of an atomic: control fields, width, destination, address register, scope (R114 to R117). -/
def atomicParts (i : Instr) : Option (Ctl × Nat × BitVec 5 × BitVec 5 × BitVec 7) :=
  match i with
  | .cas c w a b _ _ e | .amoAdd c w a b _ e | .amoAnd c w a b _ e | .amoOr c w a b _ e | .amoXor c w a b _ e | .amoMin c w a b _ e
  | .amoMax c w a b _ e | .amoMinu c w a b _ e | .amoMaxu c w a b _ e | .amoSwap c w a b _ e => some (c, w.bytes, a, b, e)
  | .amoFaddF32 c a b _ e => some (c, 4, a, b, e)
  | _ => none

/-- gA alone among the registers changes. -/
def WritesG (c : Ctl) (a : BitVec 5) (v : Word) (h t : Shuttle) : Prop :=
  t.p = h.p ∧ t.pend = pendsAfter c h h.pend ∧ ∀ q, getG t q = if q = a ∧ a ≠ 0 then v else getG h q
/-- A result of variable latency to gA: gA alone changes, and in an exposed line one issued later may land before it (R91). -/
def GivesG (c : Ctl) (a : BitVec 5) (v : Word) (h t : Shuttle) : Prop :=
  WritesG c a v h t ∧ t.late = if exposed h then .g a :: h.late else h.late
/-- No earlier result can land after one for a destination that issues now (R91). -/
def NoneEarlier (d : SeqDest) (h : Shuttle) : Prop := (∀ q ∈ h.pend, q.dest ≠ d) ∧ ¬ Overtaken h d
/-- No earlier result can land after one for gA that issues now. -/
def NonePending (a : BitVec 5) (h : Shuttle) : Prop := NoneEarlier (.g a) h

/-- Bytes of the shuttle's own scratchpad that a SEQ access reads as they stand: no pending store, no held byte, no poison. -/
def PlainScratch (s : State) (h : Shuttle) (o n : Nat) : Prop :=
  h.stores = [] ∧ h.holdBuf = [] ∧ (∀ k ∈ unitsOf o n 48, k ∉ (tileOf s h.place.tile).scratchPoison)

/-- The number that bytes of the shuttle's own scratchpad hold. -/
def scratchNat (s : State) (o n : Nat) : Nat := memNat (tileOf s s.me.place.tile).scratch o n

end Sys2Proof.Claim
open Sys2Proof Sys2Proof.Machine Sys2Proof.Claim

/-- R110, R111: a load whose access answers a value gives it to gA zero-extended, and every other g register stands as the access left it. -/
def Sys2Proof.Claim.LoadCompletes : Prop :=
  ∀ (c : Ctl) (w : Width) (a : BitVec 5) (x : Addr) (s u : State) (v : Nat), Issues c s → c.hint ≠ 4 →
    address (reader c s) w.bytes x < 2 ^ 56 → address (reader c s) w.bytes x % w.bytes = 0 →
    seqLoad (start c s) (address (reader c s) w.bytes x) w.bytes c.cls.toNat c.hint.toNat = (u, some (.ok v)) →
    NonePending a u.me →
    ∃ t, exec (.ld c w a x) s = .next t ∧ Ended c 1 u.me t.me ∧ (∀ q, getG t.me q = if q = a ∧ a ≠ 0 then BitVec.ofNat 64 v else getG u.me q)
      ∧ t.mem = u.mem ∧ t.tile = u.tile ∧ t.me.stores = u.me.stores ∧ t.me.p = u.me.p

/-- R110, R111, R289: a load from the shuttle's own scratchpad through the local range gives the bytes there, little-endian and
zero-extended, and changes nothing but gA and what the end of every SEQ instruction changes. -/
def Sys2Proof.Claim.LoadFromScratchpad : Prop :=
  ∀ (c : Ctl) (w : Width) (a : BitVec 5) (x : Addr) (s : State) (o : Nat), Issues c s → c.hint ≠ 4 →
    OwnScratch (start c s) (address (reader c s) w.bytes x) w.bytes o → PlainScratch (start c s) (reader c s) o w.bytes →
    NonePending a (reader c s) →
    ∃ t, exec (.ld c w a x) s = .next t ∧ OnlyShuttle s t ∧ OnlySeqRegs (reader c s) t.me ∧ Ended c 1 (reader c s) t.me
      ∧ GivesG c a (BitVec.ofNat 64 (scratchNat (start c s) o w.bytes)) (reader c s) t.me

/-- R111: with HINT 4 a load writes no register, raises no fault and completes at once, whatever its address: where that can be translated the access
is made as a load's, and leaves the tile's caches as it does; where it cannot, nothing else happens. -/
def Sys2Proof.Claim.PrefetchLoadWritesNothing : Prop :=
  ∀ (c : Ctl) (w : Width) (a : BitVec 5) (x : Addr) (s u : State), Issues c s → c.hint = 4 →
    u = (if address (reader c s) w.bytes x < 2 ^ 56 ∧ address (reader c s) w.bytes x % w.bytes = 0
      then (seqLoad (start c s) (address (reader c s) w.bytes x) w.bytes c.cls.toNat 0).1 else start c s) →
    ∃ t, exec (.ld c w a x) s = .next t ∧ Ended c 1 u.me t.me ∧ t.me.g = u.me.g ∧ t.me.p = u.me.p ∧ t.mem = u.mem ∧ t.tile = u.tile
      ∧ t.me.pend = pendsAfter c u.me u.me.pend ∧ t.me.trapPc = u.me.trapPc ∧ t.me.priv = u.me.priv
      ∧ ((∀ h ∈ s.others, h.stores = []) → t.me.g = (reader c s).g ∧ t.me.p = (reader c s).p ∧ t.me.priv = s.me.priv)

/-- R110, R111, R289: loads. -/
def Obligations.Loads : Prop := Claim.LoadCompletes ∧ Claim.LoadFromScratchpad ∧ Claim.PrefetchLoadWritesNothing

/-- R20, R112, R113, R289: a store to the shuttle's own scratchpad issues: without a PUSH its low bytes wait, oldest first, to perform at their
place, and no byte of memory and no register changes yet; with one its bytes stand in the scratchpad before the token is given. -/
def Sys2Proof.Claim.StoreIssues : Prop :=
  ∀ (c : Ctl) (w : Width) (a : BitVec 5) (x : Addr) (s : State) (o : Nat), Issues c s →
    OwnScratch (start c s) (address (reader c s) w.bytes x) w.bytes o →
    (c.push = 0 → ∃ t, exec (.st c w a x) s = .next t ∧ OnlyShuttle s t ∧ OnlyStores (reader c s) t.me ∧ Ended c 1 (reader c s) t.me
      ∧ t.me.stores = (reader c s).stores ++
          [{ loc := .scratch s.me.place.tile o, bytes := bytesOf w.bytes ((getG (reader c s) a).toNat % 2 ^ (8 * w.bytes)), cls := c.cls.toNat,
             va := Config.localRange + o, pol := {} }] ∧ t.me.pend = (reader c s).pend)
    ∧ (c.push ≠ 0 → s.me.stores = [] → unacknowledged (start c s) = false → s.tile.id = s.me.place.tile →
      ∃ t, exec (.st c w a x) s = .next t ∧ OnlyStores (reader c s) t.me ∧ Ended c 1 (reader c s) t.me ∧ t.me.stores = [] ∧ t.mem = s.mem
        ∧ t.me.pend = pendsAfter c (reader c s) (reader c s).pend
        ∧ memRead t.tile.scratch o w.bytes = bytesOf w.bytes ((getG (reader c s) a).toNat % 2 ^ (8 * w.bytes))
        ∧ ∀ k, (k < o ∨ o + w.bytes ≤ k) → memGet t.tile.scratch k = memGet s.tile.scratch k)

/-- R112: a store without a PUSH whose access answers completes at its issue, its registers as the access left them. -/
def Sys2Proof.Claim.StoreCompletes : Prop :=
  ∀ (c : Ctl) (w : Width) (a : BitVec 5) (x : Addr) (s u : State), Issues c s → c.push = 0 →
    address (reader c s) w.bytes x < 2 ^ 56 → address (reader c s) w.bytes x % w.bytes = 0 →
    seqStore (start c s) (address (reader c s) w.bytes x) w.bytes ((getG (reader c s) a).toNat % 2 ^ (8 * w.bytes)) c.cls.toNat c.hint.toNat
      = (u, some (.ok ())) →
    ∃ t, exec (.st c w a x) s = .next t ∧ Ended c 1 u.me t.me ∧ t.me.g = u.me.g ∧ t.me.p = u.me.p ∧ t.me.stores = u.me.stores
      ∧ t.mem = u.mem ∧ t.tile = u.tile ∧ t.fabric = u.fabric

/-- R112, R113: the oldest pending store of a shuttle performs at a scratchpad: its bytes stand there, and every other byte of every
memory reads as before. -/
def Sys2Proof.Claim.StorePerforms : Prop :=
  ∀ (s : State) (x : PStore) (rest : List PStore) (tile o : Nat), s.me.stores = x :: rest → x.loc = .scratch tile o →
    s.tile.id = s.me.place.tile →
    ∃ t, exec (.seqAccessPerformed s.me.place 0) s = .next t ∧ t.me = { s.me with stores := rest } ∧ t.mem = s.mem
      ∧ memRead (tileOf t tile).scratch o x.bytes.length = x.bytes
      ∧ (∀ a, (a < o ∨ o + x.bytes.length ≤ a) → memGet (tileOf t tile).scratch a = memGet (tileOf s tile).scratch a)
      ∧ (∀ k, k ≠ tile → tileOf t k = tileOf s k)

/-- R112, R113, R289: stores issue, complete and perform. -/
def Obligations.Stores : Prop := Claim.StoreIssues ∧ Claim.StoreCompletes ∧ Claim.StorePerforms

/-- R114 to R117, R289: an atomic on the shuttle's own scratchpad reads the old value, writes what its operation gives of it, and gives the
old value to gA; every other byte reads as before. -/
def Obligations.AtomicResult : Prop :=
  ∀ (i : Instr) (c : Ctl) (n : Nat) (a b : BitVec 5) (e : BitVec 7) (s : State) (o : Nat), atomicParts i = some (c, n, a, b, e) →
    Issues c s → s.me.paired = false → (∀ x, i = .amoFaddF32 c a b x e → s.me.climb = false) →
    OwnScratch (start c s) (getG (reader c s) b).toNat n o → PlainScratch (start c s) (reader c s) o n →
    NonePending a (reader c s) →
    ∃ t, exec i s = .next t ∧ t.mem = s.mem ∧ t.me.p = (reader c s).p ∧ Ended c 1 (reader c s) t.me
      ∧ (∀ q, getG t.me q = if q = a ∧ a ≠ 0 then BitVec.ofNat 64 (scratchNat (start c s) o n) else getG (reader c s) q)
      ∧ (∀ k, (k < o ∨ o + n ≤ k) →
          memGet (tileOf t s.me.place.tile).scratch k = memGet (tileOf s s.me.place.tile).scratch k)
      ∧ (match atomicNew i (reader c s) (scratchNat (start c s) o n) with
         | some (v, f) => memRead (tileOf t s.me.place.tile).scratch o n = bytesOf n v ∧ t.me.fpflags = raiseInto (reader c s).fpflags f
         | none => (tileOf t s.me.place.tile).scratch = (tileOf s s.me.place.tile).scratch)
namespace Sys2Proof.Claim
open Sys2Proof.Machine

/-! ### Fences, barriers, tags, feeding the engines -/


/-- An acquire over every class has happened (R155, R291): the tile's L1 is empty, and no input stream that is not parked holds an
uncommitted block. -/
def Acquired (t : State) : Prop :=
  t.tile.l1 = [] ∧ ∀ x ∈ t.me.s.toList, ∀ st, x = some st → st.desc.out = false → st.desc.cls < 16 → st.parked = false →
    st.buf = [] ∧ st.spos = st.cpos

/-- The fields of a barrier word (R120 to R123). -/
structure Bar where
  e : Nat
  a : Nat
  n : Nat
  p : Nat
deriving DecidableEq, Repr
/-- A barrier word read. -/
def barOf (w : Nat) : Bar := ⟨w % 65536, w / 65536 % 65536, w / 2 ^ 32 % 65536, w / 2 ^ 48 % 2⟩
/-- An arrival with local phase q (R121): the word after it, or none where it faults BAROVER. -/
def arrive (b : Bar) (q : Nat) : Option Bar :=
  if q = b.p then
    (if (b.a + 1) % 65536 = b.e then some ⟨b.e, b.n, 0, 1 - b.p⟩ else some ⟨b.e, (b.a + 1) % 65536, b.n, b.p⟩)
  else if b.n + 1 = b.e then none else some ⟨b.e, b.a, (b.n + 1) % 65536, b.p⟩

/-- n is the index of the lowest set bit of a word, or 64 where it has none (R124). -/
def IsLowest (w : Word) (n : Nat) : Prop :=
  (n = 64 ∧ w = 0) ∨ (n < 64 ∧ w.getLsbD n = true ∧ ∀ k < n, w.getLsbD k = false)

/-- A copy or a draining stream of the shuttle holds a tag (R12, R161). -/
def Holds (h : Shuttle) (n : Nat) : Prop :=
  (∃ k ∈ h.copies, k.tag = n) ∨ ∃ x ∈ h.s.toList, ∃ st, x = some st ∧ st.drainTag = some n

/-- The entry that a `run` pushes (R18, R126, R127): the head, the lines, four consecutive g registers, p1 to p15, the trip count. -/
def RunEntry (h : Shuttle) (g : BitVec 5) (head lines : Nat) (loop : Option Nat) (x : Entry) : Prop :=
  x.head = head ∧ x.lines = lines ∧ x.loop = loop ∧ x.k0 = getG h g ∧ x.k1 = getG h (g + 1) ∧ x.k2 = getG h (g + 2) ∧ x.k3 = getG h (g + 3)
    ∧ (∀ q : Nat, 1 ≤ q → q < 16 → x.preds.getLsbD q = h.p.getLsbD q) ∧ x.priv = h.priv

/-- The parts of a `run` and a `run.loop`: engine, lines, first register, head, and the declared maximum exponent (R126, R127). -/
def runParts (i : Instr) : Option (Ctl × Eng × BitVec 7 × BitVec 5 × Nat × Option Nat) :=
  match i with
  | .run c e n g head => some (c, e, n, g, head.toNat, none)
  | .runLoop c e n g head x => some (c, e, n, g, head.toNat, some x.toNat)
  | _ => none

/-- The trip count of a run, within the maximum that a loop declares (R127). -/
def tripsOk (h : Shuttle) (g : BitVec 5) (x : Option Nat) : Prop := ∀ k, x = some k → (getG h (g + 3)).toNat ≤ 2 ^ k

/-- The queues of a shuttle's engines other than one, and that one's queue but for its entries, are as before. -/
def queueOfEng (h : Shuttle) (e : Eng) : List Entry := (engOf h e).queue
/-- An engine's output FIFO. -/
def fifoOf (h : Shuttle) (e : Eng) : List Word := (engOf h e).fifo

/-- The control fields of the SEQ instructions that are not refused at decode in the state at hand (R48): the privileged ones in privileged
mode only. -/
def seqControl (i : Instr) (s : State) : Option Ctl :=
  match i with
  | .nop c | .trap c _ | .safept c | .climbpt c _ | .exit c | .add c .. | .sub c .. | .mul c .. | .mulh c .. | .div c .. | .divu c .. | .rem c ..
  | .remu c .. | .and c .. | .or c .. | .xor c .. | .andn c .. | .shl c .. | .shr c .. | .sra c .. | .rotl c .. | .min c .. | .max c ..
  | .minu c .. | .maxu c .. | .clz c .. | .popc c .. | .extZ c .. | .extS c .. | .ldi c .. | .mov c .. | .cmp c .. | .pand c .. | .por c ..
  | .pxor c .. | .pnot c .. | .pmov c .. | .ptgLabel c .. | .ptgReg c .. | .br c .. | .brl c .. | .ld c .. | .st c .. | .cas c .. | .amoAdd c ..
  | .amoAnd c .. | .amoOr c .. | .amoXor c .. | .amoMin c .. | .amoMax c .. | .amoMinu c .. | .amoMaxu c .. | .amoSwap c .. | .fence c ..
  | .barInit c .. | .barArrive c .. | .barWait c .. | .waitany c .. | .waitall c .. | .ffready c .. | .tagclr c .. | .run c .. | .runLoop c ..
  | .popEng c .. | .popP c .. | .tokPush c .. | .tokPop c .. | .getsr c .. | .tstamp c .. => some c
  | .ovfLoad c .. | .cardLoad c .. | .objsync c | .xlinv c .. | .sysret c | .ctxFence c => if s.me.priv then some c else none
  | .amoFaddF32 c .. => if s.me.climb ∨ s.me.paired then none else some c
  | .spawn c .. | .kick c .. => if s.me.paired then none else some c
  | .setsr c sr _ => if srReadOnly sr.toNat ∧ !(srPriv sr.toNat && !s.me.priv) then none else some c
  | _ => none

end Sys2Proof.Claim
open Sys2Proof Sys2Proof.Machine Sys2Proof.Claim

/-- R26, R44, R90: a SEQ instruction whose guard is false has no effect but its POP, its PUSH and one issue cycle. -/
def Sys2Proof.Claim.GuardFalseSkips : Prop :=
  ∀ (i : Instr) (c : Ctl) (s : State), seqControl i s = some c → popBlocked (settle s.me) c = false →
    guardWith (getP (reader c s)) c = false → ∃ t, exec i s = .next t ∧ GoesOn c 1 s (reader c s) t

/-- R20: a SEQ instruction whose POP names an empty queue waits for the token; nothing else of it happens, and the pc stays. -/
def Sys2Proof.Claim.EmptyQueueWaits : Prop :=
  ∀ (i : Instr) (c : Ctl) (s : State), seqControl i s = some c → popBlocked (settle s.me) c = true →
    ∃ t, exec i s = .next t ∧ t = { s with me := t.me } ∧ t.me = { settle s.me with wait := some (.popTok c.pop.toNat), ctl := c }

/-- R20, R26, R44, R90: what stands between a SEQ instruction and its effects. -/
def Obligations.GuardsAndTokens : Prop := Claim.GuardFalseSkips ∧ Claim.EmptyQueueWaits

/-- R118, R119, R294: a fence with a mask of 0 has no effect; a releasing one leaves no store of its classes that has not performed for the agents of its
scope, one of scope PACKAGE or more or of order sc none at all, an acquiring one empties the tile's L1; no register changes. It completes where no
copy it covers and no remote store is still to be waited for. That a release of a nearer scope leaves its stores to perform for the agents outside
at some later time, and that one of order sc performs for all, are the model's choice (log entry 90). -/
def Obligations.FenceResult : Prop :=
  ∀ (c : Ctl) (order scope : BitVec 7) (mask : BitVec 20) (s : State), Issues c s → mask.toNat < 65536 → order.toNat ≤ 3 →
    (order ≠ 0 → mask ≠ 0 → releasePending (releaseAt (start c s) mask.toNat (if order = 3 then 6 else scope.toNat)) mask.toNat = false) →
    (order = 0 → mask ≠ 0 → readsPending (reader c s) mask.toNat = false) →
    ∃ t, exec (.fence c order scope mask) s = .next t ∧ t.me.g = (reader c s).g ∧ t.me.p = (reader c s).p
      ∧ t.me.pend = pendsAfter c (reader c s) (reader c s).pend
      ∧ (mask = 0 → GoesOn c 1 s (reader c s) t)
      ∧ (order ≠ 0 → (order = 3 ∨ 5 ≤ scope.toNat) → ∀ x ∈ t.me.stores, inMask mask.toNat x.cls = false)
      ∧ (order ≠ 0 → ∀ x ∈ t.me.stores, inMask mask.toNat x.cls = true → ∃ k, x.vis = some k ∧ scope.toNat ≤ k)
      ∧ (order ≠ 1 → mask ≠ 0 → t.tile.l1 = [])
      ∧ t.me.pc = (stepPc (reader c s)).pc

/-- R120: `bar.init` writes E ← x[15:0], A ← 0, N ← 0, P ← 0 to a word of the own scratchpad, and nothing else there. -/
def Sys2Proof.Claim.BarrierInitWrites : Prop :=
  ∀ (c : Ctl) (a : BitVec 5) (x : GOrImm) (e : BitVec 7) (s : State) (o : Nat), Issues c s → s.me.paired = false →
    OwnScratch (start c s) (getG (reader c s) a).toNat 8 o → PlainScratch (start c s) (reader c s) o 8 →
    0 < (gOrImmVal (reader c s) x).toNat → (gOrImmVal (reader c s) x).toNat < 65536 →
    ∃ t, exec (.barInit c a x e) s = .next t ∧ t.me.g = (reader c s).g ∧ Ended c 1 (reader c s) t.me
      ∧ barOf (memNat (tileOf t s.me.place.tile).scratch o 8) = ⟨(gOrImmVal (reader c s) x).toNat, 0, 0, 0⟩
      ∧ ∀ k, (k < o ∨ o + 8 ≤ k) → memGet (tileOf t s.me.place.tile).scratch k = memGet (tileOf s s.me.place.tile).scratch k

/-- R121: `bar.arrive` on a word of the own scratchpad makes the arrival of the rule and gives P as it stands after it. -/
def Sys2Proof.Claim.BarrierArrives : Prop :=
  ∀ (c : Ctl) (a b x : BitVec 5) (e : BitVec 7) (s : State) (o : Nat) (w : Bar), Issues c s → s.me.paired = false →
    OwnScratch (start c s) (getG (reader c s) b).toNat 8 o → PlainScratch (start c s) (reader c s) o 8 →
    releasePending (start c s) 65535 = false → NonePending a (reader c s) →
    arrive (barOf (scratchNat (start c s) o 8)) ((getG (reader c s) x).toNat % 2) = some w →
    ∃ t, exec (.barArrive c a b x e) s = .next t ∧ barOf (memNat (tileOf t s.me.place.tile).scratch o 8) = w
      ∧ GivesG c a (BitVec.ofNat 64 w.p) (reader c s) t.me ∧ Ended c 1 (reader c s) t.me
      ∧ ∀ k, (k < o ∨ o + 8 ≤ k) → memGet (tileOf t s.me.place.tile).scratch k = memGet (tileOf s s.me.place.tile).scratch k

/-- R122: `bar.wait` on a word of the own scratchpad whose P differs from gA[0] acquires and flips gA; where P agrees it waits, with gA and
the pc as they were. -/
def Sys2Proof.Claim.BarrierWaits : Prop :=
  ∀ (c : Ctl) (a b : BitVec 5) (e : BitVec 7) (s : State) (o : Nat), Issues c s → s.me.paired = false →
    OwnScratch (start c s) (getG (reader c s) b).toNat 8 o → PlainScratch (start c s) (reader c s) o 8 →
    readsPending (reader c s) 65535 = false →
    ∃ t, exec (.barWait c a b e) s = .next t ∧ t.mem = s.mem
      ∧ (if (barOf (scratchNat (start c s) o 8)).p ≠ (getG (reader c s) a).toNat % 2 then
           WritesG c a (getG (reader c s) a ^^^ 1) (reader c s) t.me ∧ Acquired t ∧ Ended c 1 (reader c s) t.me
         else t.me.g = (reader c s).g ∧ t.me.pc = (reader c s).pc ∧ t.me.wait = some (.bar a (getG (reader c s) b).toNat))

/-- R120 to R122: the barrier instructions on a word of the own scratchpad. -/
def Obligations.Barriers : Prop := Claim.BarrierInitWrites ∧ Claim.BarrierArrives ∧ Claim.BarrierWaits

/-- R124: `waitany` and `ffready` give the lowest ready tag of the mask, or 64; `waitall` completes once every tag of the mask is ready; each
acquires. (A paired shuttle's `waitany` and `waitall` stall first: PairsCompare.) -/
def Obligations.TagWaits : Prop :=
  ∀ (c : Ctl) (a : BitVec 5) (m : GOrImm) (s : State), Issues c s → NonePending a (reader c s) →
    (s.me.paired = false → gOrImmVal (reader c s) m = 0 ∨ (reader c s).tagReady &&& gOrImmVal (reader c s) m ≠ 0 →
      ∃ t n, exec (.waitany c a m) s = .next t ∧ IsLowest ((reader c s).tagReady &&& gOrImmVal (reader c s) m) n
        ∧ GivesG c a (BitVec.ofNat 64 n) (reader c s) t.me ∧ Acquired t ∧ Ended c 1 (reader c s) t.me)
    ∧ (∃ t n, exec (.ffready c a m) s = .next t ∧ IsLowest ((reader c s).tagReady &&& gOrImmVal (reader c s) m) n
        ∧ GivesG c a (BitVec.ofNat 64 n) (reader c s) t.me ∧ Acquired t ∧ Ended c 1 (reader c s) t.me)
    ∧ (s.me.paired = false → (reader c s).tagReady &&& gOrImmVal (reader c s) m = gOrImmVal (reader c s) m →
      ∃ t, exec (.waitall c m) s = .next t ∧ t.me.g = (reader c s).g ∧ Acquired t ∧ Ended c 1 (reader c s) t.me)

/-- R18, R126, R127: a `run` whose queue has room pushes its entry at the end of the queue, after every earlier store of the shuttle has
performed for its tile; a `run.loop` counts g[N + 3] trips. -/
def Obligations.RunPushes : Prop :=
  ∀ (i : Instr) (c : Ctl) (e : Eng) (n : BitVec 7) (g : BitVec 5) (head : Nat) (x : Option Nat) (s : State),
    runParts i = some (c, e, n, g, head, x) → Issues c s → tripsOk (reader c s) g x →
    qcwDepth (queueQcw (start c s) (reader c s) e) ≠ 0 → queueRoom (start c s) (reader c s) e = true →
    ∃ t y, exec i s = .next t ∧ RunEntry (reader c s) g head n.toNat (x.map fun _ => (getG (reader c s) (g + 3)).toNat) y
      ∧ queueOfEng t.me e = queueOfEng (reader c s) e ++ [y] ∧ (∀ f, f ≠ e → engOf t.me f = engOf (reader c s) f)
      ∧ (∀ x ∈ t.me.stores, x.cls < 16 → ∃ k, x.vis = some k ∧ 1 ≤ k) ∧ t.me.g = (reader c s).g ∧ Ended c 1 (reader c s) t.me

/-- R127: a trip count above the declared maximum traps TRIP; nothing is pushed. -/
def Sys2Proof.Claim.LoopOverLimitTraps : Prop :=
  ∀ (c : Ctl) (e : Eng) (n : BitVec 7) (g : BitVec 5) (head : BitVec 20) (x : BitVec 7) (s : State) (base slot : Nat),
    Issues c s → c.pop = 0 → 2 ^ x.toNat < (getG (reader c s) (g + 3)).toNat → s.me.priv = false → s.me.trapVec ≠ 0 →
    unacknowledged (drainTrap (start c s)) = false →
    QueueHasRoom (drainTrap (start c s)) base slot →
    ∃ t, exec (.runLoop c e n g head x) s = .next t ∧ EntersHandler 0x0F 0 s.me.pc (drainTrap (start c s)).me t.me
      ∧ (∀ f, engOf t.me f = engOf s.me f) ∧ RecordWritten base slot (trapRecord (drainTrap (start c s)) .trip 0) (drainTrap (start c s)) t

/-- R128, R129: a pop takes the oldest element of the engine's FIFO and acquires; `pop.p` makes a predicate of 0 or 1. -/
def Sys2Proof.Claim.FifoPops : Prop :=
  ∀ (c : Ctl) (s : State), Issues c s →
    (∀ (e : Eng) (a : BitVec 5) (v : Word) (rest : List Word), NonePending a (reader c s) → fifoOf (reader c s) e = v :: rest →
      ∃ t, exec (.popEng c e a) s = .next t ∧ GivesG c a v (reader c s) t.me ∧ fifoOf t.me e = rest ∧ Acquired t ∧ Ended c 1 (reader c s) t.me)
    ∧ (∀ (p : BitVec 6) (v : Bool) (rest : List Word), p.toNat < 16 → p ≠ 0 → NoneEarlier (.p p) (reader c s) →
        fifoOf (reader c s) .vec = (if v then 1 else 0) :: rest →
      ∃ t, exec (.popP c p) s = .next t ∧ getP t.me p = v ∧ t.me.g = (reader c s).g ∧ fifoOf t.me .vec = rest ∧ Acquired t
        ∧ Ended c 1 (reader c s) t.me)

/-- R129: an element other than 0 or 1 traps DIVERGENT at `pop.p`; the predicates are unchanged and the element stays. -/
def Sys2Proof.Claim.DivergentElementTraps : Prop :=
  ∀ (c : Ctl) (p : BitVec 6) (v : Word) (rest : List Word) (s : State) (base slot : Nat), Issues c s → c.pop = 0 → v ≠ 0 → v ≠ 1 →
    fifoOf (reader c s) .vec = v :: rest → s.me.priv = false → s.me.trapVec ≠ 0 →
    unacknowledged (drainTrap (start c s)) = false →
    QueueHasRoom (drainTrap (start c s)) base slot →
    ∃ t, exec (.popP c p) s = .next t ∧ EntersHandler 0x03 0 s.me.pc (drainTrap (start c s)).me t.me ∧ fifoOf t.me .vec = v :: rest
      ∧ t.me.p = (landAll (reader c s)).p ∧ RecordWritten base slot (trapRecord (drainTrap (start c s)) .divergent 0) (drainTrap (start c s)) t

/-- R130: `tok.push` adds n tokens where they fit under 15, with those still due, after the shuttle's stores have performed for its tile; `tok.pop`
takes n where there are n, and acquires. -/
def Sys2Proof.Claim.TokensCount : Prop :=
  ∀ (c : Ctl) (q n : BitVec 7) (s : State), Issues c s → c.push = 0 → q.toNat ≤ 12 →
    (tokCount (reader c s) q.toNat + pushesDue (reader c s) q.toNat + n.toNat ≤ 15 →
      ∃ t, exec (.tokPush c q n) s = .next t ∧ (∀ x ∈ t.me.stores, x.cls < 16 → ∃ k, x.vis = some k ∧ 1 ≤ k) ∧ t.me.g = (reader c s).g
        ∧ (∀ k ≤ 12, tokCount t.me k = tokCount (reader c s) k + (if k = q.toNat then n.toNat else 0)))
    ∧ (n.toNat ≤ tokCount (reader c s) q.toNat →
      ∃ t, exec (.tokPop c q n) s = .next t ∧ Acquired t ∧ t.me.g = (reader c s).g
        ∧ (∀ k ≤ 12, tokCount t.me k = tokCount (reader c s) k - (if k = q.toNat then n.toNat else 0)))

/-- R128 to R130: pops of output FIFOs, pushes and pops of tokens. -/
def Obligations.FifosAndTokens : Prop := Claim.FifoPops ∧ Claim.TokensCount
namespace Sys2Proof.Claim
open Sys2Proof.Machine

/-! ### Work, special registers, the system instructions -/

/-- The reference clock: two ticks for five tile clocks, and the ticks by which reductions of the tile clock have held it back, which the model counts
by a free rate (log entry 130; R1, R94, R415). -/
def referenceTicks (s : State) : Nat :=
  s.cycles * 2 / 5 + s.module.slowTicks + match s.module.throttled with
    | some since => (s.cycles - since) * 2 * Config.slowdown / 5000
    | none => 0

/-- The value of the special register at an index, TAGBYTES apart: the table of R94 and R35; none for an unassigned index. -/
def special (s : State) (n : Nat) : Option Word :=
  let h := s.me
  let k := ctxOf s h.tenant
  match n with
  | 0x00 => some (BitVec.ofNat 64 h.vtile)
  | 0x01 => some (BitVec.ofNat 64 h.team)
  | 0x02 => some (BitVec.ofNat 64 h.tenant)
  | 0x03 => some (BitVec.ofNat 64 h.place.tile)
  | 0x04 => some h.tagReady
  | 0x06 => some h.fpflags
  | 0x07 => some (BitVec.ofNat 64 (s.cycles - assoc s.lost (h.place.tile / 16) 0))
  | 0x08 => some (BitVec.ofNat 64 (referenceTicks s))
  | 0x09 => some h.argBase
  | 0x0A => some h.teamWin
  | 0x20 => some k.ovfTbl
  | 0x21 => some k.cardBase
  | 0x22 => some k.objBase
  | 0x23 => some k.xlBase
  | 0x24 => some k.faultQ
  | 0x25 => some (s.module.droopThr.setWidth 64)
  | 0x28 => some h.trapPc
  | 0x29 => some h.trapCode
  | 0x2A => some h.trapVa
  | 0x2B => some h.trapVec
  | n =>
    if 0x10 ≤ n ∧ n ≤ 0x17 then some (BitVec.ofNat 64 (h.lvlIdx.getD (n - 0x10) 0))
    else if 0x18 ≤ n ∧ n ≤ 0x1F then some (BitVec.ofNat 64 (h.lvlExt.getD (n - 0x18) 1))
    else if 0x40 ≤ n ∧ n ≤ 0x4F then some (s.tile.qcw.toList.getD (n - 0x40) 0)
    else none

/-- The registers that are PRIV (R94). -/
def privileged (n : Nat) : Bool := n ∈ [0x03, 0x20, 0x21, 0x22, 0x23, 0x24, 0x25, 0x28, 0x29, 0x2A, 0x2B] || decide (0x40 ≤ n ∧ n ≤ 0x4F)

/-- The value that a `setsr` of a writable register stores (R35, R94, R96, R416); none for a register that `setsr` cannot write. -/
def stored (n : Nat) (v : Word) : Option Word :=
  if n = 0x06 then some (v &&& 0x1F)
  else if n ∈ [0x20, 0x21, 0x22, 0x23, 0x24, 0x28, 0x2A, 0x2B] then some v
  else if n = 0x25 then some (BitVec.ofNat 64 (if v.toNat % 256 < 10 then 10 else if 80 < v.toNat % 256 then 80 else v.toNat % 256))
  else if n = 0x29 then some (v &&& 0xFF)
  else if 0x40 ≤ n ∧ n ≤ 0x4F then some (v &&& 0x7FFF3FFF)
  else none

/-- The wait of a `setsr` of a context's base is over (R95, R140): nothing of the shuttle is outstanding. -/
def CtxQuiet (s : State) : Prop := ctxQuiet (drainAll s).me = true ∧ releasePending (drainAll s) 65535 = false

end Sys2Proof.Claim
open Sys2Proof Sys2Proof.Machine Sys2Proof.Claim

/-- R131: a `spawn` whose record is read appends the record to the tenant's tasks and gives 1 where there is room, and gives 0 and queues
nothing where there is none. -/
def Sys2Proof.Claim.SpawnQueues : Prop :=
  ∀ (c : Ctl) (a b : BitVec 5) (s u : State) (bs : List Byte), Issues c s → s.me.paired = false →
    (getG (reader c s) b).toNat % 64 = 0 → sysRead (start c s) (getG (reader c s) b).toNat 64 = (u, some (.ok bs)) →
    releasePending u 65535 = false → NonePending a u.me →
    ∃ t, exec (.spawn c a b) s = .next t ∧ Ended c 1 u.me t.me ∧ t.mem = u.mem
      ∧ (if (ctxOf u u.me.tenant).tasks.length < (ctxOf u u.me.tenant).taskDepth then
           GivesG c a 1 u.me t.me ∧ ∃ k : Task, k.bytes = bs ∧ k.band = u.me.band
             ∧ (ctxOf t u.me.tenant).tasks = (ctxOf u u.me.tenant).tasks ++ [k]
         else GivesG c a 0 u.me t.me ∧ t.ctxs = u.ctxs)

/-- R87, R132, R335: a `kick` whose image may kick, whose descriptor and argument block are read, and whose slot's kernel has the kick right, is
submitted and gives the status of the submission; a malformed descriptor gives 2, or 1 where the unit it names has 64 kicks. -/
def Sys2Proof.Claim.KickAnswers : Prop :=
  ∀ (c : Ctl) (a b : BitVec 5) (s m u v : State) (desc args : List Byte), Issues c s → s.me.paired = false →
    mayKick (start c s) = (m, true) → (getG (reader c s) b).toNat % 32 = 0 → sysRead m (getG (reader c s) b).toNat 32 = (u, some (.ok desc)) →
    kickArgs u desc = (v, some (.ok args)) → releasePending v 65535 = false →
    (∀ slot w e r, kickSlot v desc = some slot → objEntry v v.me.tenant slot.kobj = (w, some e) → Obj.usable e = true → useOk e .kick = true →
      r = submitKick w desc args (some slot) ((kernHeader w w.me.tenant slot.kobj e).map (·.1)) → NonePending a r.1.me →
      ∃ t, exec (.kick c a b) s = .next t ∧ GivesG c a (BitVec.ofNat 64 r.2) r.1.me t.me ∧ Ended c 1 r.1.me t.me
        ∧ (r.2 = 0 → t.nextKick = w.nextKick + 1))
    ∧ (∀ r, kickSlot v desc = none → r = submitKick v desc args none none → NonePending a r.1.me →
      ∃ t, exec (.kick c a b) s = .next t ∧ GivesG c a (BitVec.ofNat 64 r.2) r.1.me t.me ∧ Ended c 1 r.1.me t.me
        ∧ r.2 ≠ 0 ∧ (parseKick desc = none → r.2 = 1 ∨ r.2 = 2))

/-- R131, R132, R335: `spawn` and `kick`. -/
def Obligations.WorkIsSent : Prop := Claim.SpawnQueues ∧ Claim.KickAnswers

/-- R94, R95, R133: `getsr` gives the special register that its index names, in user mode every one but the PRIV ones; TAGBYTES gives the
count of the tag in gC[5:0]. -/
def Sys2Proof.Claim.GetsrReads : Prop :=
  ∀ (c : Ctl) (a : BitVec 5) (sr : BitVec 7) (tag : Option (BitVec 5)) (s : State), Issues c s →
    (privileged sr.toNat = true → s.me.priv = true) → s.me.paired = false →
    (∀ v, special (start c s) sr.toNat = some v → ∃ t, exec (.getsr c a sr tag) s = .next t ∧ GivesResult c (.g a) v 2 1 s t)
    ∧ (∀ g, sr.toNat = 0x05 → tag = some g → NonePending a (reader c s) → ∃ t, exec (.getsr c a sr tag) s = .next t ∧ OnlyShuttle s t
        ∧ GivesG c a (BitVec.ofNat 64 (reader c s).tagBytes[(getG (reader c s) g).toNat % 64]!) (reader c s) t.me ∧ Ended c 1 (reader c s) t.me)

/-- R95: in user mode a `getsr` or a `setsr` of a PRIV register traps PRIV, and changes no special register but those of the trap. -/
def Sys2Proof.Claim.PrivRegisterTraps : Prop :=
  ∀ (c : Ctl) (a : BitVec 5) (sr : BitVec 7) (tag : Option (BitVec 5)) (x : GOrImm) (s : State) (base slot : Nat), Issues c s → c.pop = 0 →
    privileged sr.toNat = true → s.me.priv = false → s.me.trapVec ≠ 0 → unacknowledged (drainTrap (start c s)) = false →
    QueueHasRoom (drainTrap (start c s)) base slot →
    (∃ t, exec (.getsr c a sr tag) s = .next t ∧ EntersHandler 0x02 0 s.me.pc (drainTrap (start c s)).me t.me
      ∧ RecordWritten base slot (trapRecord (drainTrap (start c s)) .priv 0) (drainTrap (start c s)) t)
    ∧ (∃ t, exec (.setsr c sr x) s = .next t ∧ EntersHandler 0x02 0 s.me.pc (drainTrap (start c s)).me t.me
      ∧ RecordWritten base slot (trapRecord (drainTrap (start c s)) .priv 0) (drainTrap (start c s)) t)

/-- R95, R3: a `setsr` of an RO register is ILLEGAL in either mode: in user mode it enters the handler, and in privileged mode, where a
`setsr` of PTILE is ILLEGAL too, it halts the shuttle. -/
def Sys2Proof.Claim.ReadOnlyRegisterTraps : Prop :=
  ∀ (c : Ctl) (sr : BitVec 7) (x : GOrImm) (s : State) (base slot : Nat),
    (sr.toNat ≤ 0x05 ∨ (0x07 ≤ sr.toNat ∧ sr.toNat ≤ 0x0A) ∨ (0x10 ≤ sr.toNat ∧ sr.toNat ≤ 0x1F)) → unacknowledged (drainTrap s) = false →
    QueueHasRoom (drainTrap s) base slot →
    (sr.toNat ≠ 0x03 → s.me.priv = false → s.me.trapVec ≠ 0 →
      ∃ t, exec (.setsr c sr x) s = .next t ∧ EntersHandler 0x01 0 s.me.pc (drainTrap s).me t.me
        ∧ RecordWritten base slot (trapRecord (drainTrap s) .illegal 0) (drainTrap s) t)
    ∧ (s.me.priv = true →
      ∃ t, exec (.setsr c sr x) s = .next t ∧ t.me.life = .halted ∧ t.me.pc = s.me.pc
        ∧ RecordWritten base slot (trapRecord (drainTrap s) .illegal 0) (drainTrap s) t)

/-- R92, R95, R127, R129: the traps TRIP, DIVERGENT, PRIV and ILLEGAL of single instructions, with their records. -/
def Obligations.InstructionTraps : Prop := Claim.LoopOverLimitTraps ∧ Claim.DivergentElementTraps ∧ Claim.PrivRegisterTraps ∧ Claim.ReadOnlyRegisterTraps

/-- R94 to R96, R133: `setsr` of a writable register stores its writable bits; every other special register but the clocks reads as before. -/
def Sys2Proof.Claim.SetsrWrites : Prop :=
  ∀ (c : Ctl) (sr : BitVec 7) (x : GOrImm) (s : State) (v : Word), Issues c s → (privileged sr.toNat = true → s.me.priv = true) →
    stored sr.toNat (gOrImmVal (reader c s) x) = some v → (reader c s).stores = [] →
    (0x20 ≤ sr.toNat → sr.toNat ≤ 0x24 → CtxQuiet (start c s)) →
    ∃ t, exec (.setsr c sr x) s = .next t ∧ special t sr.toNat = some v ∧ t.me.g = (reader c s).g ∧ Ended c 2 (reader c s) t.me
      ∧ ∀ k, k < 128 → k ≠ sr.toNat → k ≠ 0x07 → k ≠ 0x08 → special t k = special (start c s) k

/-- R134: `tstamp` reads TSTAMP once every earlier SEQ instruction of the shuttle has completed: no store is pending or sent and not acknowledged,
and no result but its own. -/
def Sys2Proof.Claim.TstampReads : Prop :=
  ∀ (c : Ctl) (a : BitVec 5) (s : State), Issues c s → s.me.paired = false → unacknowledged (seqComplete (start c s)) = false →
    ∃ t, exec (.tstamp c a) s = .next t ∧ t.me.stores = []
      ∧ Ended c 1 (seqComplete (start c s)).me t.me
      ∧ Results c (.g a) (BitVec.ofNat 64 (referenceTicks (seqComplete (start c s)))) 4 false (seqComplete (start c s)).me t.me
      ∧ (seqComplete (start c s)).me.pend = []

/-- R94 to R96, R133, R134: reads and writes of special registers. -/
def Obligations.SpecialRegisters : Prop := Claim.GetsrReads ∧ Claim.SetsrWrites ∧ Claim.TstampReads

/-- R135: a privileged `ovf.load` whose word is legal installs its bits as the context's overflow table, and changes no other context. -/
def Sys2Proof.Claim.OverflowTableLoads : Prop :=
  ∀ (c : Ctl) (a : BitVec 5) (s u : State) (bs : List Byte), Issues c s → s.me.priv = true → arithDone (reader c s) = true →
    sysRead (start c s) (((ctxOf s s.me.tenant).ovfTbl.toNat + 8 * ((getG (reader c s) a).toNat % 256)) % 2 ^ 64) 8 = (u, some (.ok bs)) →
    natOfBytes bs < 1024 → (∀ i < 5, natOfBytes bs / 4 ^ i % 4 ≠ 3) →
    ∃ t, exec (.ovfLoad c a) s = .next t ∧ (ctxOf t u.me.tenant).ovf = BitVec.ofNat 10 (natOfBytes bs)
      ∧ (∀ k, k ≠ u.me.tenant → ctxOf t k = ctxOf u k) ∧ t.me.g = u.me.g ∧ t.mem = u.mem ∧ Ended c 1 u.me t.me

/-- R136: a privileged `card.load` of more than 128 cards leaves the deck and gives 0xFFFF, of none installs an empty deck and gives 0, of
cards that all pass installs them and gives 0, and otherwise leaves the deck and gives 1 + the index of the first that fails. -/
def Sys2Proof.Claim.CardDeckLoads : Prop :=
  ∀ (c : Ctl) (a b : BitVec 5) (s : State), Issues c s → s.me.priv = true → arithDone (reader c s) = true →
    (128 < (getG (reader c s) b).toNat → NonePending a (reader c s) →
      ∃ t, exec (.cardLoad c a b) s = .next t ∧ GivesG c a 0xFFFF (reader c s) t.me ∧ t.ctxs = s.ctxs ∧ Ended c 1 (reader c s) t.me)
    ∧ ((getG (reader c s) b).toNat = 0 → NonePending a (reader c s) →
      ∃ t, exec (.cardLoad c a b) s = .next t ∧ GivesG c a 0 (reader c s) t.me ∧ (ctxOf t s.me.tenant).deck = [] ∧ Ended c 1 (reader c s) t.me)
    ∧ (∀ u bs, 1 ≤ (getG (reader c s) b).toNat → (getG (reader c s) b).toNat ≤ 128 → (ctxOf s s.me.tenant).cardBase.toNat % 64 = 0 →
        sysRead (start c s) (ctxOf s s.me.tenant).cardBase.toNat (64 * (getG (reader c s) b).toNat) = (u, some (.ok bs)) →
        NonePending a u.me →
        ((∀ x ∈ cardsOf (getG (reader c s) b).toNat bs, cardOk u x = true) →
          ∃ t, exec (.cardLoad c a b) s = .next t ∧ GivesG c a 0 u.me t.me
            ∧ (ctxOf t u.me.tenant).deck = cardsOf (getG (reader c s) b).toNat bs ∧ Ended c 1 u.me t.me)
        ∧ (∀ i x, (cardsOf (getG (reader c s) b).toNat bs)[i]? = some x → cardOk u x = false →
            (∀ j < i, ∀ y, (cardsOf (getG (reader c s) b).toNat bs)[j]? = some y → cardOk u y = true) →
          ∃ t, exec (.cardLoad c a b) s = .next t ∧ GivesG c a (BitVec.ofNat 64 (1 + i)) u.me t.me ∧ t.ctxs = u.ctxs ∧ Ended c 1 u.me t.me))

/-- R135, R136: `ovf.load` and `card.load`. -/
def Obligations.TablesLoad : Prop := Claim.OverflowTableLoads ∧ Claim.CardDeckLoads

/-- R137: `objsync` completes in privileged mode once the shuttle's stores have performed and nothing it has observed is still to perform: it
leaves no cached entry, line or translation of the tenant, and no pending store. -/
def Sys2Proof.Claim.ObjsyncCompletes : Prop :=
  ∀ (c : Ctl) (s : State), Issues c s → s.me.priv = true → releasePending (drainAll (start c s)) 65535 = false →
    ∃ t, exec (.objsync c) s = .next t ∧ t.me.stores = [] ∧ t.me.g = (reader c s).g ∧ (∀ x ∈ t.mem.objs, x.tenant ≠ s.me.tenant)
      ∧ (∀ x ∈ t.mem.lines, x.tenant ≠ s.me.tenant) ∧ (∀ x ∈ t.mem.tlb, x.tenant ≠ s.me.tenant)
      ∧ (∀ x ∈ t.mem.tlbOld, x.tenant ≠ s.me.tenant) ∧ Ended c 1 (reader c s) t.me

/-- R138: `xlinv` completes in privileged mode: with m = 0 no translation of the tenant for the frame that holds the VA in gA is held any more, with m = 1
none of the tenant at all; no other is dropped. Those dropped stand beside, for accesses that precede the following `objsync` (R372). -/
def Sys2Proof.Claim.XlinvCompletes : Prop :=
  ∀ (c : Ctl) (a : BitVec 5) (m : BitVec 7) (s : State), Issues c s → s.me.priv = true →
    ∃ t, exec (.xlinv c a m) s = .next t ∧ t.me.g = (reader c s).g ∧ Ended c 1 (reader c s) t.me
      ∧ t.mem = { s.mem with tlb := t.mem.tlb, tlbOld := t.mem.tlbOld } ∧ (∀ x ∈ t.mem.tlb, x ∈ s.mem.tlb)
      ∧ (∀ x ∈ s.mem.tlb, x ∈ t.mem.tlb ∨ x ∈ t.mem.tlbOld) ∧ (∀ x ∈ s.mem.tlbOld, x ∈ t.mem.tlbOld)
      ∧ (∀ x ∈ s.mem.tlb, x.tenant ≠ s.me.tenant → x ∈ t.mem.tlb)
      ∧ (m = 0 → ∀ x ∈ s.mem.tlb, x.frame ≠ frameBase ((getG (reader c s) a).toNat / 98304) x.pte → x ∈ t.mem.tlb)
      ∧ (m = 0 → ∀ x ∈ t.mem.tlb, x.tenant = s.me.tenant → x.frame ≠ frameBase ((getG (reader c s) a).toNat / 98304) x.pte)
      ∧ (m = 1 → ∀ x ∈ t.mem.tlb, x.tenant ≠ s.me.tenant)

/-- R139: `sysret` completes in privileged mode where TRAPPC is a legal target: it goes there in user mode and lets the engines take entries
again. That it leaves no delay slot to come is the model's choice (log entry 80). -/
def Sys2Proof.Claim.SysretCompletes : Prop :=
  ∀ (c : Ctl) (s : State), Issues c s → s.me.priv = true → targetOk (start c s) (reader c s) (reader c s).trapPc = true →
    ∃ t, exec (.sysret c) s = .next t ∧ OnlyShuttle s t ∧ t.me.priv = false ∧ t.me.pc = (reader c s).trapPc ∧ t.me.held = false
      ∧ t.me.delay = none ∧ t.me.g = (reader c s).g

/-- R140: `ctx.fence` completes in privileged mode with nothing of the shuttle outstanding. -/
def Sys2Proof.Claim.CtxFenceCompletes : Prop :=
  ∀ (c : Ctl) (s : State), Issues c s → s.me.priv = true → CtxQuiet (start c s) →
    ∃ t, exec (.ctxFence c) s = .next t ∧ t.me.stores = [] ∧ t.me.copies = [] ∧ Acquired t ∧ t.me.g = (reader c s).g
      ∧ Ended c 1 (reader c s) t.me

/-- R137, R138, R139, R140: in privileged mode `objsync`, `xlinv`, `sysret` and `ctx.fence` each complete with their effect. -/
def Obligations.SystemResults : Prop :=
  Claim.ObjsyncCompletes ∧ Claim.XlinvCompletes ∧ Claim.SysretCompletes ∧ Claim.CtxFenceCompletes
namespace Sys2Proof.Claim
open Sys2Proof.Machine

/-! ### Words for the engines, and the stream engine -/

/-- The state as the body of an engine instruction finds it: its POP done (R20). -/
def engStart (e : Eng) (c : Ctl) (s : State) : State := { s with me := doPopEng s.me e c }
/-- An engine instruction that its loop does not squash executes: its token is there, its effects are not done yet (R20, R27). -/
def EngReady (e : Eng) (c : Ctl) (s : State) : Prop :=
  squashed (curOf s.me e) c = false ∧ (curOf s.me e).bodyDone = false ∧ popBlockedEng s.me e c = false
/-- An instruction of STR or MTX executes: it is ready, and its guard is true on the entry's snapshot (R19, R44). -/
def EngIssues (e : Eng) (c : Ctl) (s : State) : Prop := EngReady e c s ∧ guardWith (snapP (engStart e c s).me e) c = true

/-- The budget of the entry that an engine runs leaves the instruction in hand so many cycles more, from a state on (R71). -/
def InBudget (e : Eng) (k : Nat) (s t : State) : Prop := ∀ n, budget s (curOf s.me e) e = some n → (curOf t.me e).spent + k ≤ n
/-- An instruction of STR executes, and its entry has the cycle of it left (R71). -/
def StrIssues (c : Ctl) (s : State) : Prop := EngIssues .str c s ∧ InBudget .str 1 (engStart .str c s) (engStart .str c s)
/-- An instruction of MTX that holds the engine for `n` cycles has them left (R71, R202). -/
def MtxRoom (c : Ctl) (n : Nat) (s : State) : Prop := InBudget .mtx (Nat.max 1 n) (engStart .mtx c s) (engStart .mtx c s)

/-- Outside the shuttle in focus, everything as before: no memory, no tile, no context, no other shuttle. -/
def OnlyMe (s u : State) : Prop := u = { s with me := u.me }

/-- The descriptor format that each form of `sbind` binds: plain, twill, B16M (R167). -/
def bindParts (i : Instr) : Option (Ctl × BitVec 4 × BitVec 7 × Option (BitVec 2) × Option (BitVec 2) × Nat) :=
  match i with
  | .sbind c r d kc kd => some (c, r, d, kc, kd, 0)
  | .sbindTw c r d kc kd => some (c, r, d, kc, kd, 1)
  | .sbindB16 c r d kc kd => some (c, r, d, kc, kd, 2)
  | _ => none

/-- The stream register holds an output stream with a block not written. -/
def OutPending (x : Option Stream) : Prop := ∃ y, x = some y ∧ y.desc.out = true ∧ y.spos ≠ y.cpos

/-- The references that a copy takes, checked for their uses and their lengths (R144, R164, R170): destination and source with their operand
words, and the bytes of each. -/
def CopyRefs (t t1 : State) (u1 u2 : ObjUse) (d r : Word) (x y : Ref) (n m : Nat) : Prop :=
  takeRefs t (u1, d) (u2, r) = (t1, .ok (x, y)) ∧ refHolds t1 x n = true ∧ refHolds t1 y m = true ∧ spansMeet (refVa x) n (refVa y) m = false

/-- A copy accepted under its tag (R161): the tag is taken, not ready, with no bytes; the copy stands behind those in progress, with nothing
of it issued; no byte moves yet. -/
def Accepted (t1 u : State) (tag : Nat) (k : CopyOp → Prop) : Prop :=
  OnlyMe t1 u ∧ u.me.tagReady.getLsbD tag = false ∧ u.me.tagBytes.toList.getD tag 0 = 0
    ∧ ∃ op ∈ u.me.copies, op.tag = tag ∧ op.next = 0 ∧ op.fly = [] ∧ op.doneSet = [] ∧ k op

/-- The tag of a copy is free (R12, R161). -/
def TagFree (t1 : State) (tag : BitVec 7) : Prop := tag.toNat < 64 ∧ tagHeld t1.me tag.toNat = false

/-- The quota of L2 pins takes so many bytes more: a launch's reservation first, then what the tenant's limit leaves (R172, R323, R324). -/
def PinQuota (t : State) (n : Nat) : Prop :=
  let mine := (launchOf t t.me.launch).elim 0 fun l => Nat.min (l.resv.getD 2 0) n
  let q := quotaOf t t.me.tenant 2
  n = mine ∧ (launchOf t t.me.launch).isSome = true ∨ q.charged + (n - mine) ≤ q.limit ∧ q.charged + (n - mine) < 2 ^ 64

/-- The VA and the length of the scale records of units A to A + n − 1 of a tensor (R159, R171). -/
def scaleSpans (r : Ref) (n : Nat) : List (Nat × Nat) :=
  let unit := if Obj.format r.entry = fmtTwill then 48 else b16Bytes (b16OfFormat (Obj.format r.entry))
  (List.range n).map fun i => (Obj.scaleBase r.entry + (r.off / unit + i) * Obj.scaleStride r.entry, 2)

/-- An element stands at the end of STR's FIFO, and the rest of the shuttle's registers as before. -/
def Answers (t u : State) (v : Word) : Prop := u.me.str.fifo = t.me.str.fifo ++ [v] ∧ u.me.g = t.me.g ∧ u.me.v = t.me.v ∧ u.me.s = t.me.s

end Sys2Proof.Claim
open Sys2Proof Sys2Proof.Machine Sys2Proof.Claim

/-- R12, R151, R152, R167 to R169, R177: `sbind` whose checks pass binds a stream at its start with nothing fetched; `sunbind` unbinds, at once or
when the blocks handed over are written, and sets its tag: with a tag it takes the tag and then completes once the stream has drained; `sseek`
moves an input stream to a block, the end at most. -/
def Obligations.StreamRegisterResults : Prop :=
  ∀ (c : Ctl) (s : State), StrIssues c s →
    (∀ i r d kc kd dec t1 x, bindParts i = some (c, r, d, kc, kd, dec) → qcwDepth (poolQcw (engStart .str c s)) ≠ 0 →
      (∀ y, getS (engStart .str c s).me r = some y → y.failed = none) →
      checkBind (engStart .str c s) d.toNat (optK (engStart .str c s).me kc) (optK (engStart .str c s).me kd) dec = (t1, .ok x) →
      ¬ OutPending (getS t1.me r) →
      ∃ u, exec i s = .next (endEng u .str c) ∧ OnlyMe t1 u ∧ getS u.me r = some x ∧ x.cpos = 0 ∧ x.spos = 0 ∧ x.buf = []
        ∧ (∀ q, q ≠ r → getS u.me q = getS t1.me q) ∧ u.me.v = t1.me.v ∧ u.me.tagReady = t1.me.tagReady)
    ∧ (∀ r (tag : BitVec 7), TagFree (engStart .str c s) tag → getS (engStart .str c s).me r = none → (curOf s.me .str).begun = false →
      ∃ u, exec (.sunbind c r tag) s = .next (endEng u .str c) ∧ OnlyMe s u ∧ u.me.tagReady.getLsbD tag.toNat = true
        ∧ u.me.tagBytes.toList.getD tag.toNat 0 = 0)
    ∧ (∀ r (tag : BitVec 7) x, getS (engStart .str c s).me r = some x → x.failed = none →
        (tag.toNat < 64 → tagHeld (engStart .str c s).me tag.toNat = false ∧ (curOf s.me .str).begun = false) → x.drainTag = none →
        (x.desc.out = true → x.spos = x.cpos) →
      ∃ u, exec (.sunbind c r tag) s = .next (endEng u .str c) ∧ OnlyMe s u ∧ getS u.me r = none
        ∧ (tag.toNat < 64 → u.me.tagReady.getLsbD tag.toNat = true))
    ∧ (∀ r (tag : BitVec 7) x, getS (engStart .str c s).me r = some x → x.failed = none → TagFree (engStart .str c s) tag →
        x.desc.out = true → x.spos ≠ x.cpos → (curOf s.me .str).begun = false →
      ∃ u, exec (.sunbind c r tag) s = .next (stallEng u .str c (waitCounts [x])) ∧ OnlyMe s u
        ∧ getS u.me r = some { x with drainTag := some tag.toNat, waited := x.waited + 1 } ∧ u.me.tagReady.getLsbD tag.toNat = false
        ∧ (s.me.str.cur.isSome = true → (curOf u.me .str).begun = true))
    ∧ (∀ r (tag : BitVec 7), tag.toNat < 64 → (curOf s.me .str).begun = true → getS (engStart .str c s).me r = none →
      exec (.sunbind c r tag) s = .next (endEng (engStart .str c s) .str c))
    ∧ (∀ r (k : KOrImm) x, getS (engStart .str c s).me r = some x → x.desc.out = false →
      ∃ u, exec (.sseek c r k) s = .next (endEng u .str c) ∧ OnlyMe s u ∧ ∃ y, getS u.me r = some y
        ∧ y.cpos = Nat.min (kOrImmVal (engStart .str c s).me .str k).toNat y.n ∧ y.spos = y.cpos ∧ y.buf = [] ∧ y.parked = false
        ∧ y.resid = false ∧ y.desc = x.desc ∧ y.n = blocksNow (engStart .str c s) x ∧ (x.desc.decode ≠ 1 → y.n = x.n))

/-- R161, R164, R166, R170, R174, R175: a copy of at least one byte whose references pass their checks is accepted under its free tag. -/
def Obligations.CopiesAccepted : Prop :=
  ∀ (c : Ctl) (s t1 : State) (tag : BitVec 7) (x y : Ref), StrIssues c s → TagFree t1 tag →
    (∀ kd ks n, let t := engStart .str c s; let len := (kOrImmVal t.me .str n).toNat
      0 < len → CopyRefs t t1 .dest .source (kVal t.me .str kd) (kVal t.me .str ks) x y len len →
      ∃ u, exec (.scopy c tag kd ks n) s = .next (endEng u .str c) ∧ Accepted t1 u tag.toNat fun op =>
        op.kind = .copy ∧ op.dst = x ∧ op.src = y ∧ op.rows = 1 ∧ op.width = len ∧ op.cls = c.cls.toNat ∧ op.hint = c.hint.toNat)
    ∧ (∀ kd ks kg kh rows w, let t := engStart .str c s; let hh := (kVal t.me .str kh).toNat
      rowsOf (kVal t.me .str kg) = some (rows, w) → 0 < rows → 0 < w →
      CopyRefs t t1 .dest .source (kVal t.me .str kd) (kVal t.me .str ks) x y ((rows - 1) * (hh % 2 ^ 32) + w) ((rows - 1) * (hh / 2 ^ 32) + w) →
      ∃ u, exec (.scopy2d c tag kd ks kg kh) s = .next (endEng u .str c) ∧ Accepted t1 u tag.toNat fun op =>
        op.kind = .copy2d ∧ op.dst = x ∧ op.src = y ∧ op.rows = rows ∧ op.width = w ∧ op.dstride = hh % 2 ^ 32 ∧ op.sstride = hh / 2 ^ 32)
    ∧ (∀ kd kv n, let t := engStart .str c s; let len := (kOrImmVal t.me .str n).toNat
      0 < len → takeRef t .dest (kVal t.me .str kd) = (t1, .ok x) → refHolds t1 x len = true →
      ∃ u, exec (.sfill c tag kd n kv) s = .next (endEng u .str c) ∧ Accepted t1 u tag.toNat fun op =>
        op.kind = .fill ∧ op.dst = x ∧ op.width = len ∧ op.value = (kVal t.me .str kv).toNat)
    ∧ (∀ kd ks ki kg rows w z t0, let t := engStart .str c s
      rowsOf (kVal t.me .str kg) = some (rows, w) → 0 < rows → 0 < w →
      takeRefs t (.dest, kVal t.me .str kd) (.source, kVal t.me .str ks) = (t0, .ok (x, y)) →
      takeRef t0 .source (kVal t.me .str ki) = (t1, .ok z) → refHolds t1 z (4 * rows) = true →
      (refHolds t1 x (rows * w) = true →
        spansMeet (refVa x) (rows * w) (indexSpan (refVa y) w (peekIndices t1 z rows)).1 (indexSpan (refVa y) w (peekIndices t1 z rows)).2 = false →
        ∃ u, exec (.sgather c tag kd ks ki kg) s = .next (endEng u .str c) ∧ Accepted t1 u tag.toNat fun op =>
          op.kind = .gather ∧ op.dst = x ∧ op.src = y ∧ op.idx = z ∧ op.rows = rows ∧ op.width = w)
      ∧ (refHolds t1 y (rows * w) = true →
        spansMeet (refVa y) (rows * w) (indexSpan (refVa x) w (peekIndices t1 z rows)).1 (indexSpan (refVa x) w (peekIndices t1 z rows)).2 = false →
        ∃ u, exec (.sscatter c tag kd ks ki kg) s = .next (endEng u .str c) ∧ Accepted t1 u tag.toNat fun op =>
          op.kind = .scatter ∧ op.dst = x ∧ op.src = y ∧ op.idx = z ∧ op.rows = rows ∧ op.width = w))
    ∧ (∀ kd ks kp kq z t0, let t := engStart .str c s; let p := (kVal t.me .str kp).toNat; let n := 4 * encWeights (p % 4)
      p < 65536 → p % 4 ≠ 3 → p / 4 % 64 = 0 → 2 ≤ p / 256 → (kVal t.me .str kd).toNat % 2 ^ 48 % 48 = 0 →
      takeRefs t (.twDest, kVal t.me .str kd) (.source, kVal t.me .str ks) = (t0, .ok (x, y)) →
      takeRef t0 .dest (kVal t.me .str kq) = (t1, .ok z) → refHolds t1 x 48 = true → refHolds t1 y n = true → refHolds t1 z 4 = true →
      spansMeet (refVa x) 48 (refVa y) n = false → Obj.scaleStride x.entry ≠ 0 →
      ∃ u, exec (.stwenc c tag kd ks kp kq) s = .next (endEng u .str c) ∧ Accepted t1 u tag.toNat fun op =>
        op.kind = .stwenc ∧ op.dst = x ∧ op.src = y ∧ op.aux = z ∧ op.value = p)
    ∧ (∀ kl ks kc n, let t := engStart .str c s; let len := (kOrImmVal t.me .str n).toNat
      s.me.paired = false → 0 < len → takeRefs t (.zone, kVal t.me .str kl) (.source, kVal t.me .str ks) = (t1, .ok (x, y)) →
      64 + x.off + len ≤ Obj.size x.entry → refHolds t1 y len = true →
      ∃ u, exec (.slzput c tag kl ks n kc) s = .next (endEng u .str c) ∧ Accepted t1 u tag.toNat fun op =>
        op.kind = .slzput ∧ op.dst = x ∧ op.src = y ∧ op.width = len ∧ op.value = (kVal t1.me .str kc).toNat)

/-- R125: `tagclr` clears the TAGREADY bit and the TAGBYTES count of every tag of the mask that no copy or draining stream holds, and leaves every
other tag; a new copy needs none of it, since taking its tag clears both. -/
def Obligations.TagClear : Prop :=
  ∀ (c : Ctl) (s : State),
    (∀ m : GOrImm, Issues c s →
      ∃ t, exec (.tagclr c m) s = .next t ∧ OnlyShuttle s t ∧ t.me.g = (reader c s).g ∧ Ended c 1 (reader c s) t.me
        ∧ ∀ n : Fin 64,
            ((gOrImmVal (reader c s) m).getLsbD n.val = true ∧ ¬ Holds (reader c s) n.val →
              t.me.tagReady.getLsbD n.val = false ∧ t.me.tagBytes[n] = 0)
            ∧ ((gOrImmVal (reader c s) m).getLsbD n.val = false ∨ Holds (reader c s) n.val →
              t.me.tagReady.getLsbD n.val = (reader c s).tagReady.getLsbD n.val ∧ t.me.tagBytes[n] = (reader c s).tagBytes[n]))
    ∧ (∀ (tag : BitVec 7) (x y : Ref) t1 kd ks n, StrIssues c s → TagFree t1 tag →
      let t := engStart .str c s
      let len := (kOrImmVal t.me .str n).toNat
      0 < len → CopyRefs t t1 .dest .source (kVal t.me .str kd) (kVal t.me .str ks) x y len len →
      ∃ u, exec (.scopy c tag kd ks n) s = .next (endEng u .str c) ∧ u.me.tagReady.getLsbD tag.toNat = false
        ∧ u.me.tagBytes.toList.getD tag.toNat 0 = 0)

/-- R171 to R173, R176: the requests of STR that move no bytes of their own: `spin` answers 2 where its reference fails, 0 with the tiles pinned
where the quota of L2 pins takes their bytes, and 1 with nothing pinned where it does not; `sunpin` leaves none of them pinned for the team; `sprefetch` and `sscale` change no register; `spromote` asks for the ready picks under its
tag; `sresume`, privileged, answers 0 where a stream or copy parked under the record resumes and 1 where none does. It waits with a
record that still waits for room in its queue. -/
def Obligations.StreamRequests : Prop :=
  ∀ (c : Ctl) (s : State), StrIssues c s → let t := engStart .str c s
    (∀ k n, let len := (kOrImmVal t.me .str n).toNat
      (∀ t1, plainRef t (kVal t.me .str k) len = (t1, none) →
        ∃ u, exec (.spin c k n) s = .next (endEng u .str c) ∧ Answers t1 u 2 ∧ u.mem.pins = t1.mem.pins)
      ∧ (∀ t1 r l, plainRef t (kVal t.me .str k) len = (t1, some r) → tilesIn t1 (refVa r) len = some l →
        let bytes := 6144 * (l.filter fun T => !(t1.mem.pins.any fun p => p.tile = T && p.team = some t1.me.team)).length
        (PinQuota t1 bytes → ∃ u, exec (.spin c k n) s = .next (endEng u .str c) ∧ Answers t1 u 0
          ∧ (∀ T ∈ l, ∃ p ∈ u.mem.pins, p.tile = T ∧ p.team = some t1.me.team) ∧ ∀ p ∈ t1.mem.pins, p ∈ u.mem.pins)
        ∧ (¬ PinQuota t1 bytes → ∃ u, exec (.spin c k n) s = .next (endEng u .str c) ∧ Answers t1 u 1 ∧ u.mem.pins = t1.mem.pins))
      ∧ (∀ t1 r l, plainRef t (kVal t.me .str k) len = (t1, some r) → tilesIn t1 (refVa r) len = some l →
        ∃ u, exec (.sunpin c k n) s = .next (endEng u .str c) ∧ u.me = t1.me
          ∧ (∀ p ∈ u.mem.pins, p ∈ t1.mem.pins ∧ ¬ (p.team = some t1.me.team ∧ p.tile ∈ l))
          ∧ ∀ p ∈ t1.mem.pins, ¬ (p.team = some t1.me.team ∧ p.tile ∈ l) → p ∈ u.mem.pins)
      ∧ (∃ u, exec (.sprefetch c k n) s = .next (endEng u .str c) ∧ u.me.g = t.me.g ∧ u.me.s = t.me.s ∧ u.me.str = t.me.str
          ∧ u.me.dueTrap = t.me.dueTrap)
      ∧ (∀ t1 r, plainRef t (kVal t.me .str k) 0 = (t1, some r) → scratchPending t1 (scratchAt t1 (scaleSpans r len)) = false →
        ∃ u, exec (.sscale c k n) s = .next (endEng u .str c)
          ∧ u.me = { t1.me with copies := u.me.copies, tagReady := u.me.tagReady, tagBytes := u.me.tagBytes })
      ∧ (∀ t1, plainRef t (kVal t.me .str k) 0 = (t1, none) → exec (.sscale c k n) s = .next (endEng t1 .str c)))
    ∧ (∀ (tag : BitVec 7) kt kc t1 r m, TagFree t1 tag → takeRef t .promote (kVal t.me .str kt) = (t1, .ok r) →
        tmapOf t1 t1.me.tenant r.obj = some m → r.off + (kVal t.me .str kc).toNat ≤ m.picks →
      ∃ u, exec (.spromote c tag kt kc) s = .next (endEng u .str c) ∧ u.mem = t1.mem ∧ u.me.g = t1.me.g
        ∧ (∀ p e, r.off ≤ p → p < r.off + (kVal t.me .str kc).toNat → tierEnt t1 m p = some e → Tier.state e = 0 →
            (∃ x ∈ u.promos, x.tenant = t1.me.tenant ∧ x.tmap = r.obj ∧ x.pick = p ∧ x.target = 2 ∧ x.place = some (t1.me.place, tag.toNat))
            ∧ ∃ op ∈ u.me.copies, op.tag = tag.toNat ∧ op.kind = .promote ∧ p ∈ op.picks)
        ∧ ((∀ p e, r.off ≤ p → p < r.off + (kVal t.me .str kc).toNat → tierEnt t1 m p = some e → Tier.state e ≠ 0) →
            u.me.tagReady.getLsbD tag.toNat = true))
    ∧ (∀ k, (curOf s.me .str).entry.priv = true → (kVal t.me .str k).toNat < 2 ^ 40 →
      (∀ r ∈ fqWaiting t false ((kVal t.me .str k).toNat / 2 ^ 32), r.seqno ≠ (kVal t.me .str k).toNat % 2 ^ 32) →
      ∃ u, exec (.sresume c k) s = .next (endEng u .str c)
        ∧ (if (resumeRecord t ((kVal t.me .str k).toNat / 2 ^ 32) ((kVal t.me .str k).toNat % 2 ^ 32)).2 then
             u.me.str.fifo = t.me.str.fifo ++ [0] else u.me.str.fifo = t.me.str.fifo ++ [1] ∧ u.me.s = t.me.s))
    ∧ (∀ k, (curOf s.me .str).entry.priv = true → (kVal t.me .str k).toNat < 2 ^ 40 →
      (∃ r ∈ fqWaiting t false ((kVal t.me .str k).toNat / 2 ^ 32), r.seqno = (kVal t.me .str k).toNat % 2 ^ 32) →
      exec (.sresume c k) s = .next (stallEng t .str c true))

/-- R12, R152, R154, R156, R157, R161, R298: of the bound input streams with room and nothing before them, fetch serves the first in turn after the
one it served last: the fetch of the block at SPOS begins. The block joins the buffer, and SPOS goes past it unless it holds a fault. An output
stream's oldest block issues, performs a sector at a time, and counts its bytes; with its last sector SPOS is one further, and a drain that it
ends unbinds the stream and sets its tag. -/
def Obligations.StreamBlocksMove : Prop :=
  ∀ (s : State) (r : BitVec 4) (x : Stream), s.tile.id = s.me.place.tile → getS s.me r = some x →
    (s.me.life = .running → x.desc.out = false → x.flying = false → x.parked = false → x.spos < x.cpos + 8 → x.spos < x.n →
      (∀ b ∈ x.buf, b.held = none) → poolRoom s x.desc = true → classZeroCopy s.me = false →
      scratchPending s (scratchAt s (blockVas s x x.spos)) = false →
      (∃ q, fetchTurn s = some q)
      ∧ (fetchTurn s = some r.toNat → ∃ t z, exec (.streamFetch s.me.place r) s = .next t ∧ OnlyMe s t
          ∧ getS t.me r = some { x with flying := true, slow := z, waited := 0 } ∧ t.me.fetched = r.toNat))
    ∧ (∀ u b, x.desc.out = false → x.flying = true → readBlock s x x.spos = (u, some b) →
      ∃ t, exec (.streamBlockFetched s.me.place r) s = .next t ∧ OnlyMe u t
        ∧ getS t.me r = some { x with n := blocksNow u x, flying := false, slow := false, resid := false, buf := x.buf ++ [b],
                                      spos := if b.held.isSome then x.spos else x.spos + 1 })
    ∧ (∀ u b rest us, x.desc.out = true → x.buf = b :: rest → x.flying = false → x.parked = false → x.failed = none →
      outBehind s.me r x = false → outCheck s x = (u, some (.ok us)) → scratchFull u (scratchRuns (us.flatMap (·.2))) = false →
      ∃ t z, exec (.outputBlockWrite s.me.place r) s = .next t ∧ getS t.me r = some { x with flying := true, resid := false, waited := 0, slow := z }
        ∧ t.mem = u.mem ∧ t.tile = u.tile)
    ∧ (∀ u b rest us, let n := (sectorUnits x).length
      x.desc.out = true → x.buf = b :: rest → x.flying = true → s.fabric.stores = [] → outCheck s x = (u, some (.ok us)) →
      (x.drainTag = none → ∃ t y, exec (.outputWritePerformed s.me.place r) s = .next t ∧ getS t.me r = some y
        ∧ y.cpos = x.cpos ∧ y.written = x.written + n * unitBytes x.desc
        ∧ (if unitsPerBlock x.desc ≤ x.part + n then y.spos = x.spos + 1 ∧ y.buf = rest ∧ y.flying = false ∧ y.part = 0
           else y.spos = x.spos ∧ y.buf = x.buf ∧ y.flying = true ∧ y.part = x.part + n))
      ∧ (∀ k, x.drainTag = some k → k < 64 → (∀ y ∈ s.me.copies, y.tag ≠ k) → unitsPerBlock x.desc ≤ x.part + n → x.spos + 1 = x.cpos →
        ∃ t, exec (.outputWritePerformed s.me.place r) s = .next t ∧ getS t.me r = none ∧ t.me.tagReady.getLsbD k = true
          ∧ t.me.tagBytes.toList.getD k 0 = s.me.tagBytes.toList.getD k 0 + n * unitBytes x.desc))
/-- R161, R162, R170, R174, R365, R366: a fill's next sector issues once its destination translates; a sector done is written at
its place and counted in TAGBYTES; the last one of the one copy in progress sets its tag; a returned host translation lets the sector issue; an
encoded segment, its record and its error written, set the tag with TAGBYTES 54. -/
def Obligations.CopiesMove : Prop :=
  ∀ (s : State) (tag : BitVec 6) (k : CopyOp), s.tile.id = s.me.place.tile → copyOf s.me tag.toNat = some k →
    (∀ y ∈ s.me.copies, y.tag = tag.toNat → y = k) →
    (∀ u ps, k.kind = .fill → k.stop = none → copyMayIssue s.me k = true → k.ats = false →
      needsAts s (refBase k.dst + (rowOffs k).1 + k.pos) (sectorLen k) true = false →
      resolveAll s { tenant := s.me.tenant, hint := k.hint } .store (refBase k.dst + (rowOffs k).1 + k.pos) (sectorLen k) = (u, .ok ps) →
      (∀ p ∈ ps, ∃ tile o, p.1 = .scratch tile o) → (∀ p ∈ ps, holdFull u.me p.1 (sectorLen k) = false) →
      scratchFull u (scratchRuns ps) = false →
      ∃ t k', exec (.copySectorIssue s.me.place tag) s = .next t ∧ OnlyMe u t ∧ copyOf t.me tag.toNat = some k' ∧ k'.next = k.next + 1
        ∧ ∃ f, k'.fly = k.fly ++ [f] ∧ f.idx = k.next ∧ f.bytes = fillBytes k.value k.pos (sectorLen k) ∧ f.dst = ps ∧ f.poisoned = k.tainted)
    ∧ (∀ i x, k.fly.find? (fun y => y.idx = i) = some x → k.kind ≠ .slzput → sectorMayEnd s k x = true → goesToBuffer s.me k x = false →
      k.buffered = [] → k.stop = none → (∀ p ∈ x.dst, ∃ tile o, p.1 = .scratch tile o) →
      (k.issued = false → ∃ t k', exec (.copySectorDone s.me.place tag i) s = .next t ∧ t.tile = (landSector s k x).tile ∧ t.mem = s.mem
        ∧ copyOf t.me tag.toNat = some k' ∧ i ∈ k'.doneSet ∧ k'.fly = k.fly.filter (fun y => y.idx ≠ i)
        ∧ t.me.tagBytes.toList.getD tag.toNat 0 = s.me.tagBytes.toList.getD tag.toNat 0 + x.bytes.length)
      ∧ (k.issued = true → s.me.copies = [k] → movesSectors k.kind = true → k.parked = false → (∀ y ∈ k.fly, y.idx = i) →
        ∃ t, exec (.copySectorDone s.me.place tag i) s = .next t ∧ t.me.copies = [] ∧ t.me.tagReady.getLsbD tag.toNat = true
          ∧ t.me.tagBytes.toList.getD tag.toNat 0 = s.me.tagBytes.toList.getD tag.toNat 0 + x.bytes.length))
    ∧ (k.ats = true → k.stop = none → ∃ t, exec (.atsTranslationComplete s.me.place tag) s = .next t
        ∧ t = issueSector { s with me := modCopy s.me tag.toNat (fun x => { x with ats := false }) } tag.toNat { k with ats := false })
    ∧ (∀ s1 ps bs bad a0 a1 a2 a3 b1 b2 b3, k.kind = .stwenc → k.parked = false → copyInTurn s.me k = true →
      encodeFirst s k = true →
      resolveAll s { tenant := s.me.tenant } .load (refVa k.src) (4 * encWeights (k.value % 4)) = (s1, .ok ps) →
      residentPieces s1 ps (refVa k.src) (4 * encWeights (k.value % 4)) = (a0, true) → readPieces a0 { tenant := s.me.tenant } ps = (a1, bs, bad) →
      (bad = true → touchesLost a1 a1.me.tenant (refVa k.src) (4 * encWeights (k.value % 4)) = false) →
      (let ts := (List.range (encWeights (k.value % 4))).map fun i => natOfBytes ((bs.drop (4 * i)).take 4)
       let enc := twEncode ts (k.value % 4) (k.value / 256 % 256)
       encWrite a1 true tag.toNat 0 (refVa k.dst) (bytesOf 48 enc.1) bad = (b1, some (.ok a2)) ∧
       encWrite a2 false tag.toNat 48 (Obj.scaleBase k.dst.entry + k.dst.off / 48 * Obj.scaleStride k.dst.entry)
         [BitVec.ofNat 8 (k.value / 256 % 256), BitVec.ofNat 8 (k.value % 4)] bad = (b2, some (.ok a3)) ∧
       ∃ a4, encWrite a3 false tag.toNat 50 (refVa k.aux) (bytesOf 4 (if ts.any (fun x => (f32 x).isNan) then Fmt.f32.cnan else enc.2)) bad = (b3, some (.ok a4))) →
      ∃ t, exec (.stwencEncodeDone s.me.place tag) s = .next t ∧ copyOf t.me tag.toNat = none ∧ t.me.tagReady.getLsbD tag.toNat = true
        ∧ t.me.tagBytes.toList.getD tag.toNat 0 = 54)
namespace Sys2Proof.Claim
open Sys2Proof.Machine

/-! ### The matrix engine -/

/-- Beyond the accumulator store and the flags, an MTX instruction leaves the module as it was: memory, other tiles, the tile's scratchpad, L1
and panels, and the shuttle's g, v and p registers; raised flags stay. -/
def OnlyStore (t u : State) : Prop :=
  u.mem = t.mem ∧ u.otherTiles = t.otherTiles ∧ u.ctxs = t.ctxs ∧ u.tile.scratch = t.tile.scratch ∧ u.tile.l1 = t.tile.l1
    ∧ u.tile.panels = t.tile.panels ∧ u.tile.qcw = t.tile.qcw ∧ u.me.g = t.me.g ∧ u.me.v = t.me.v ∧ u.me.vp = t.me.vp
    ∧ u.me.fpflags &&& t.me.fpflags = t.me.fpflags

/-- Element (r, c) of a store after a product of panels A (M × K) and B (K × N) at columns from `col` and rows from 16 d: one FP32 addition of
the chunk (R187, R190). -/
def productAt (x : Tile) (f : MFmt) (m n col d : Nat) (a b : List Nat) (r c : Nat) : Nat :=
  if 16 * d ≤ r ∧ r < 16 * d + m ∧ col ≤ c ∧ c < col + n then
    (fadd (accGet x r c) (chunkAt (mfmtOperand f false).1 (mfmtOperand f true).1 (mfmtK f) n a b (r - 16 * d) (c - col)).1).1 % 2 ^ 32
  else accGet x r c

/-- Element (16 d + i, 8 j + l) of a store after an `mma.reed` (R191): the chunk joins the stack of 8 levels, with the carries that CNT calls for. -/
def reedAt (x : Tile) (f : MFmt) (d : Nat) (a b : List Nat) (i j l : Nat) : Nat :=
  let s := reedCarry (fun k => accGet x (16 * d + i) (8 * j + k)) (cntOf x d) 8 0
    (chunkAt (mfmtOperand f false).1 (mfmtOperand f true).1 (mfmtK f) 32 a b i j).1
  if l < s.2.1 then 0 else if l = s.2.1 then s.1 % 2 ^ 32 else accGet x (16 * d + i) (8 * j + l)

/-- The operands of a product are there (R17, R186, R188): block CPOS of A's stream, and B's, the next one of A's where it is the same stream, or
the panel. -/
def ProductOperands (t : State) (f : MFmt) (n : Nat) (sa : BitVec 4) (sb : BSrc) (x y : List Nat) : Prop :=
  ∃ b z, peekBlock t.me sa 0 = .block b z ∧ x = b.elems ∧
    match sb with
    | .s r => ∃ d w, peekBlock t.me r (if r = sa then 1 else 0) = .block d w ∧ y = d.elems
    | .panel => ∃ p, panelFor t f n = some p ∧ y = p.elems

/-- The issue cycles of `mma`, `mma.reed` and `mma.coop` (R202): P = M N K / 4,096 over the rate of the format, at least 4 for `mma.reed`, 4 more
for `mma.coop`. -/
def productCycles (f : MFmt) (m n : Nat) : Nat :=
  m * n * mfmtK f / (4096 * (match f with
    | .bf16 | .f16 => 1
    | .e4m3 | .e5m2 | .i8 | .b16m7 => 2
    | .b16m4 | .b16m2 | .twB16m4 | .i4 => 4))

/-- FP32 element (i, j) of a named tile's bits (R235). -/
def elem32 (b : TileBits) (i j : Nat) : Nat := (b.toNat / 2 ^ (32 * (16 * i + j))) % 2 ^ 32

end Sys2Proof.Claim
open Sys2Proof Sys2Proof.Machine Sys2Proof.Claim

/-- R182, R186 to R191, R202: `mma` adds one chunk to every element of its block, and `mma.reed` carries one into every stack of its rows and counts
it; every other element stays; each holds MTX for its cycles. -/
def Obligations.ProductResult : Prop :=
  ∀ (c : Ctl) (f : MFmt) (m : BitVec 2) (sa : BitVec 4) (sb : BSrc) (d : BitVec 7) (s : State) (x y : List Nat), EngIssues .mtx c s →
    let t := engStart .mtx c s
    16 * d.toNat + 16 * 2 ^ m.toNat ≤ 128 →
    (∀ (n : BitVec 2) (a : BitVec 4), 16 * a.toNat + 64 * 2 ^ n.toNat ≤ 256 → operandsFit t f (16 * 2 ^ m.toNat) (64 * 2 ^ n.toNat) sa sb = true →
      accBlocked t.tile t.me.place.slot (groupsOf (16 * a.toNat) (64 * 2 ^ n.toNat)) d.toNat (2 ^ m.toNat) = false →
      ProductOperands t f (64 * 2 ^ n.toNat) sa sb x y → MtxRoom c (productCycles f (16 * 2 ^ m.toNat) (64 * 2 ^ n.toNat)) s →
      ∃ u, exec (.mma c f m n a sa sb d) s = .next (endEng (occupyMtx u (productCycles f (16 * 2 ^ m.toNat) (64 * 2 ^ n.toNat))) .mtx c) ∧ OnlyStore t u
        ∧ (∀ r k, r < 128 → k < 256 → accGet u.tile r k = productAt t.tile f (16 * 2 ^ m.toNat) (64 * 2 ^ n.toNat) (16 * a.toNat) d.toNat x y r k)
        ∧ u.tile.cnt = t.tile.cnt ∧ u.me.s = (commitOperands t.me (some sa) sb).s)
    ∧ (operandsFit t f (16 * 2 ^ m.toNat) 32 sa sb = true → (groupsOf 0 256).any (foreignGroup t.tile t.me.place.slot) = false →
      cntOf t.tile d.toNat < 255 → (∀ i < 2 ^ m.toNat, cntOf t.tile (d.toNat + i) = cntOf t.tile d.toNat) →
      ProductOperands t f 32 sa sb x y → MtxRoom c (Nat.max 4 (productCycles f (16 * 2 ^ m.toNat) 32)) s →
      ∃ u, exec (.mmaReed c f m sa sb d) s = .next (endEng (occupyMtx u (Nat.max 4 (productCycles f (16 * 2 ^ m.toNat) 32))) .mtx c) ∧ OnlyStore t u
        ∧ (∀ i j l, i < 16 * 2 ^ m.toNat → j < 32 → l < 8 → accGet u.tile (16 * d.toNat + i) (8 * j + l) = reedAt t.tile f d.toNat x y i j l)
        ∧ (∀ r k, (r < 16 * d.toNat ∨ 16 * d.toNat + 16 * 2 ^ m.toNat ≤ r) → r < 128 → k < 256 → accGet u.tile r k = accGet t.tile r k)
        ∧ (∀ b < 8, cntOf u.tile b = if d.toNat ≤ b ∧ b < d.toNat + 2 ^ m.toNat then cntOf t.tile d.toNat + 1 else cntOf t.tile b))

/-- R194 to R196, R221: an `mma.coop` within its limits waits for its partners with no effect; a matched group with every block in hand gives every
participant's store its product, of the lowest participant's A and of the B and the row block that each participant's own instruction names. -/
def Sys2Proof.Claim.CooperativeProduct : Prop :=
  ∀ (c : Ctl) (f : MFmt) (m : BitVec 2) (n : BitVec 1) (sa : BitVec 4) (sb : BSrc) (d : BitVec 7) (q : KOrImm) (s : State) (g : Gang)
    (ps : List Place), EngIssues .mtx c s → let t := engStart .mtx c s
    16 * d.toNat + 16 * 2 ^ m.toNat ≤ 128 → gangOf t t.me.team = some g → 3 ≤ g.domain →
    operandsFit t f (16 * 2 ^ m.toNat) 256 sa sb = true → coopGroup g t.me (n = 1) = some ps →
    ((curOf t.me .mtx).coopMatched = false →
      ∃ u, exec (.mmaCoop c f m n sa sb d q) s = .next u ∧ u.tile = s.tile ∧ u.mem = s.mem ∧ u.otherTiles = s.otherTiles ∧ u.me.s = s.me.s
        ∧ ((engOf s.me .mtx).cur.isSome = true → (curOf u.me .mtx).coopAt.isSome = true ∧ (curOf u.me .mtx).slot = (curOf s.me .mtx).slot
            ∧ (curOf u.me .mtx).coopKey = (coopOpcode f m n, (kOrImmVal t.me .mtx q).toNat % 65536)))
    ∧ (∀ l, let mm := 16 * 2 ^ m.toNat
      (curOf t.me .mtx).coopMatched = true → (ps.map (·.tile)).Nodup →
      (∀ p ∈ ps, accBlocked (tileOf t p.tile) p.slot (groupsOf 0 256) (coopOps t p).2.2 (2 ^ m.toNat) = false) →
      (∀ p ∈ ps, p ≠ t.me.place → (coopCur t p).isSome = true) → MtxRoom c (productCycles f mm 256 + 4) s →
      coopFind t f mm true ps = .ready l →
      ∃ u, exec (.mmaCoop c f m n sa sb d q) s = .next (endEng (occupyMtx u (productCycles f mm 256 + 4)) .mtx c) ∧ u.mem = s.mem
        ∧ ∀ (a : Block × Stream) (bs : List (Block × Stream)) (p0 : Place), l.head? = some (p0, a :: bs) →
          ∀ i p pl, l[i]? = some (p, pl) → ∀ r k, r < 128 → k < 256 →
            accGet (tileOf u p.tile) r k = productAt (tileOf t p.tile) f mm 256 0 (coopOps t p).2.2 a.1.elems
              (bPanel (focus t p) f 256 (coopOps t p).2.1 (if i = 0 then bs else pl)) r k)

/-- R195: COOP_MATCH lets a group proceed once all of it has issued with one opcode and one sequence number, none of it lost to
the limit; where the wait of one comes to 4,096 cycles without every participant having issued, it is lost, and with it each that has arrived; a lost
one aborts with COOP, and traps before its next SEQ instruction. -/
def Sys2Proof.Claim.CooperativeGroups : Prop :=
  ∀ (s : State) (q : Place) (ps : List Place) (k : Nat × Nat), waitingGroup s q = some ps →
    (ps ≠ [] → (∀ p ∈ ps, ∃ x, coopCur s p = some x ∧ x.coopKey = k ∧ x.coopMatched = false ∧ x.coopLost = false) →
      ∃ t, exec (.coopMatch q) s = .next t ∧ t.tile = s.tile ∧ t.mem = s.mem
        ∧ ∀ p ∈ ps, ∃ x, (shuttleAt t p).mtx.cur = some x ∧ x.coopMatched = true)
    ∧ (∀ x, coopCur s q = some x → x.coopLost = true → q ∈ ps →
      ∃ t, exec (.coopPartnerTimeout q) s = .next t ∧ (shuttleAt t q).dueTrap.isSome = true ∧ (shuttleAt t q).held = true)

/-- R195: a cycle of the wait in `mma.coop` counts while a partner has not issued and no stream of any participant is parked; where it brings the
count to 4,096, the participant and every other that has issued are lost, and no other is. -/
def Sys2Proof.Claim.CooperativeLimit : Prop :=
  ∀ (s : State) (ps : List Place) (k : Nat × Nat) (ops : BitVec 4 × BSrc × Nat) (c : Ctl) (x : Cur) (n : Nat), s.me.mtx.cur = some x →
    x.coopAt = some n → x.coopLost = false → s.me.place ∈ ps →
    let still := (∃ p ∈ ps, anyParked (shuttleAt s p) = true) ∨ ∀ p ∈ ps, p = s.me.place ∨ (coopCur s p).isSome = true
    ∃ y, (coopWait s ps k ops c).me.mtx.cur = some y
      ∧ (still → y.coopAt = some n) ∧ (¬ still → y.coopAt = some (n + 1))
      ∧ (¬ still → n + 1 < 4096 → y.coopLost = false)
      ∧ (¬ still → 4096 ≤ n + 1 → x.aborting = none → x.bodyDone = false → y.coopLost = true)
      ∧ ∀ p ∈ ps, p ≠ s.me.place → (shuttleAt (coopWait s ps k ops c) p).mtx.cur = (shuttleAt s p).mtx.cur.map fun z =>
          { z with coopLost := z.coopLost || decide (4096 ≤ y.coopAt.getD 0 ∧ (coopCur s p).isSome = true) }

/-- R194 to R196: cooperative products. -/
def Obligations.Cooperation : Prop := Claim.CooperativeProduct ∧ Claim.CooperativeGroups ∧ Claim.CooperativeLimit

/-- R182, R192, R197 to R201: accumulator maintenance: zeroing and releasing groups, scaling the groups in use, moving a block of sixteen rows to
and from a named tile, summing the stacks, filling the panel, and `msync`, which has no further effect. -/
def Obligations.AccumulatorMaintenance : Prop :=
  ∀ (c : Ctl) (s : State), EngIssues .mtx c s → let t := engStart .mtx c s
    (∀ (a : BitVec 4) (n m : BitVec 7), 0 < n.toNat → a.toNat + n.toNat ≤ 16 → m.toNat ≤ 1 →
      (∀ g, a.toNat ≤ g → g < a.toNat + n.toNat → foreignGroup t.tile t.me.place.slot g = false) → MtxRoom c n.toNat s →
      ∃ u, exec (.accZero c a n m) s = .next (endEng (occupyMtx u n.toNat) .mtx c) ∧ OnlyStore t u
        ∧ (∀ g < 16, groupOf u.tile g = if a.toNat ≤ g ∧ g < a.toNat + n.toNat then
            (if m = 1 then {} else { inuse := true, owner := t.me.place.slot, dirty := true, bits := 0 }) else groupOf t.tile g)
        ∧ (a = 0 → ∀ b < 8, cntOf u.tile b = 0))
    ∧ (∀ (a : BitVec 4) (n b r : BitVec 7) (k : BitVec 2), 0 < n.toNat → 0 < r.toNat → a.toNat + n.toNat ≤ 16 → b.toNat + r.toNat ≤ 8 →
      accBlocked t.tile t.me.place.slot ((List.range n.toNat).map (· + a.toNat)) b.toNat r.toNat = false → MtxRoom c (n.toNat * r.toNat) s →
      ∃ u, exec (.accScale c a n b r k) s = .next (endEng (occupyMtx u (n.toNat * r.toNat)) .mtx c) ∧ OnlyStore t u
        ∧ ∀ i j, i < 128 → j < 256 → accGet u.tile i j =
            if 16 * b.toNat ≤ i ∧ i < 16 * (b.toNat + r.toNat) ∧ a.toNat ≤ j / 16 ∧ j / 16 < a.toNat + n.toNat ∧ (groupOf t.tile (j / 16)).inuse
            then (scaleElem (accGet t.tile i j) ((kVal t.me .mtx k).toNat % 2 ^ 32)).1 % 2 ^ 32 else accGet t.tile i j)
    ∧ (∀ (v : BitVec 3) (a : BitVec 4) (b : BitVec 7), b.toNat < 8 → foreignGroup t.tile t.me.place.slot a.toNat = false → MtxRoom c 1 s →
      ∃ u, exec (.accRd c v a b) s = .next (endEng (occupyMtx u 1) .mtx c) ∧ OnlyMe s u
        ∧ (∀ i j, i < 16 → j < 16 → elem32 (u.me.v[v.toNat]'v.isLt) i j = accGet t.tile (16 * b.toNat + i) (16 * a.toNat + j))
        ∧ ∀ w : BitVec 3, w ≠ v → u.me.v[w.toNat]'w.isLt = t.me.v[w.toNat]'w.isLt)
    ∧ (∀ (a : BitVec 4) (v : BitVec 3) (b : BitVec 7), b.toNat < 8 → accBlocked t.tile t.me.place.slot [a.toNat] b.toNat 1 = false →
      (∀ o ∈ t.me.vOld, o.v ≠ v.toNat) → MtxRoom c 1 s →
      ∃ u, exec (.accWr c a v b) s = .next (endEng (occupyMtx u 1) .mtx c) ∧ OnlyStore t u
        ∧ ∀ i j, i < 128 → j < 256 → accGet u.tile i j =
            if 16 * b.toNat ≤ i ∧ i < 16 * b.toNat + 16 ∧ j / 16 = a.toNat then elem32 (newestTile t.me v.toNat) (i % 16) (j % 16)
            else accGet t.tile i j)
    ∧ (∀ (b r : BitVec 7), 0 < r.toNat → b.toNat + r.toNat ≤ 8 → (groupsOf 0 256).any (foreignGroup t.tile t.me.place.slot) = false →
      MtxRoom c (2 * r.toNat) s →
      ∃ u, exec (.accFlush c b r) s = .next (endEng (occupyMtx u (2 * r.toNat)) .mtx c) ∧ OnlyStore t u
        ∧ (∀ k < 8, cntOf u.tile k = if b.toNat ≤ k ∧ k < b.toNat + r.toNat then 0 else cntOf t.tile k)
        ∧ ∀ i j l, i < 128 → j < 32 → l < 8 → accGet u.tile i (8 * j + l) =
            if 16 * b.toNat ≤ i ∧ i < 16 * (b.toNat + r.toNat) then
              (if l = 0 then (stackSum (fun k => accGet t.tile i (8 * j + k)) (cntOf t.tile (i / 16))).1 % 2 ^ 32 else 0)
            else accGet t.tile i (8 * j + l))
    ∧ (∀ (r : BitVec 4) (f nc : BitVec 7) mf b x, mfmtOf f.toNat = some mf → nc.toNat < 4 →
      streamFits t.me r (mfmtOperand mf true) (mfmtK mf) (panelN nc.toNat) = true → peekBlock t.me r 0 = .block b x →
      t.me.place.slot < 4 → MtxRoom c (mfmtK mf * panelN nc.toNat / 256) s →
      ∃ u, exec (.mpre c r f nc) s = .next (endEng (occupyMtx u (mfmtK mf * panelN nc.toNat / 256)) .mtx c) ∧ u.tile.panels.toList.getD t.me.place.slot none
          = some { fmt := f.toNat, n := panelN nc.toNat, elems := b.elems } ∧ u.me = commitBlock t.me r ∧ u.tile.groups = t.tile.groups)
    ∧ (MtxRoom c 1 s → exec (.msync c) s = .next (endEng (occupyMtx t 1) .mtx c))
namespace Sys2Proof.Claim
open Sys2Proof.Machine

/-! ### The vector engine -/

/-- A VEC instruction executes: it is ready, and the uniform part of its guard is true (R241). -/
def VecIssues (c : Ctl) (s : State) : Prop := EngReady .vec c s ∧ uniformPart (engStart .vec c s).me c = true
/-- The state in which a VEC instruction reads: its POP done, what it waits for landed (R23, R242, R243). -/
def vecStart (f : VForm) (c : Ctl) (s : State) : State := let t := engStart .vec c s; { t with me := issueVec f c t.me }

/-- The cycles to the completion of a VEC instruction from where it reads: its issue cycles; as the last of its entry, until its result and every
earlier one have landed (R71, R222). -/
def vecCycles (f : VForm) (h : Shuttle) : Nat :=
  if (curOf h .vec).ends then Nat.max f.occ (Nat.max (match f.dest with
    | .none => 1
    | _ => f.lat) (vecLands h - h.vec.clock)) else f.occ
/-- A VEC instruction has the cycles to its completion left (R71). -/
def VecRoom (f : VForm) (c : Ctl) (s : State) : Prop :=
  InBudget .vec (vecCycles f (vecStart f c s).me) (engStart .vec c s) (vecStart f c s)

/-- The operands of a VEC instruction are within their limits and there (R240): `vs` are their values in slot order, and `u` the state with
their blocks committed. -/
def Operands (srcs : List VSrc) (want : Option DFmt) (imm : BitVec 7 → Nat) (w : Nat) (t u : State) (vs : List SrcVal) : Prop :=
  streamsOk t.me srcs want = true ∧
    ∃ l u1, peekAll t.me [] (srcStreams srcs) = .ready l ∧ srcVals t imm w srcs (giveBlocks srcs l) = (u1, vs) ∧ u = { u1 with me := commitAll u1.me srcs }

/-- A tile on its way to a destination, to land after a latency (R242, R243): nothing else of the module changes but the flags on their way and the
marks of use; a result to t0 reserves a slot, and every age grows by one. -/
def TileGoes (a : VDest) (lat : Nat) (b : TileBits) (t u : State) : Prop :=
  u = { t with me := { t.me with vpend := u.me.vpend, rpend := u.me.rpend, ring := u.me.ring, reserved := u.me.reserved, vOld := u.me.vOld,
                                 vInuse := u.me.vInuse, vDirty := u.me.vDirty, vdue := u.me.vdue } } ∧
  match a with
  | .v r => u.me.vpend = t.me.vpend ++ [(r.toNat, t.me.vec.clock + lat, b)] ∧ u.me.rpend = t.me.rpend ∧ u.me.ring = t.me.ring
      ∧ u.me.reserved = t.me.reserved ∧ u.me.vInuse = t.me.vInuse ||| (1#8 <<< r.toNat)
  | .t0 => u.me.vpend = t.me.vpend ∧ u.me.rpend = t.me.rpend ++ [(t.me.reserved, t.me.vec.clock + lat, b)]
      ∧ u.me.ring = t.me.ring.getD 15 0 :: t.me.ring.take 15 ∧ u.me.reserved = t.me.reserved + 1 ∧ u.me.vInuse = t.me.vInuse

/-- Every element of a tile at a width: the computed one where it is active, the old bits elsewhere. -/
def Elements (w : Nat) (active : Nat → Nat → Bool) (old : TileBits) (f : Nat → Nat → Nat) (b : TileBits) : Prop :=
  ∀ r j, r < 16 → j < 64 / w → tileElem b w r j = if active r j then f r j % 2 ^ (8 * w) else tileElem old w r j

/-- The flags on their way, to be raised after a latency and with every earlier result, are those of the computations under a condition, and no others; FPFLAGS stand as they
were till then (R205, R213). -/
def Raised (h k : Shuttle) (lat : Nat) {α : Type} (cond : α → Prop) (f : α → FpFlags) : Prop :=
  k.fpflags = h.fpflags ∧ ∃ g : FpFlags, (∀ i, g.getLsbD i = true ↔ ∃ x, cond x ∧ (f x).getLsbD i = true)
    ∧ k.vdue = if g = 0 then h.vdue else h.vdue ++ [(Nat.max (h.vec.clock + lat) (vecLands h), .flags g)]

/-- What an element-wise instruction computes in an element, of its operands there; none for a type that its entry does not list (R53, R248,
R249, R251, R254). -/
def elementFn (i : Instr) (h : Shuttle) (o : OvfTable) (lane : Nat) (vs : List Nat) : Nat × FpFlags :=
  let x := vs.getD 0 0
  let y := vs.getD 1 0
  let z := vs.getD 2 0
  let fl (t : VType) (g : Fmt → Nat × FpFlags) : Nat × FpFlags := match vtFmt t with
    | some k => g k
    | none => (0, 0)
  let nanOr (k : Fmt) (l : List Nat) (v : Nat) : Nat × FpFlags := if l.any (fun x => (FV.decode k x).isNan) then (k.cnan, 0) else (v, 0)
  let bits (t : VType) : Nat := 8 * vtWidth t
  match i with
  | .vadd _ t .. => fl t fun k => roundedRne o k ((FV.decode k x).add (FV.decode k y))
  | .vsub _ t .. => fl t fun k => roundedRne o k ((FV.decode k x).add (FV.decode k y).negate)
  | .vmul _ t .. => fl t fun k => roundedRne o k ((FV.decode k x).mul (FV.decode k y))
  | .vfma _ t .. => fl t fun k => roundedRne o k (FV.fma false (FV.decode k x) (FV.decode k y) (FV.decode k z))
  | .vfms _ t .. => fl t fun k => roundedRne o k (FV.fma false (FV.decode k x) (FV.decode k y) (FV.decode k z).negate)
  | .vnfma _ t .. => fl t fun k => roundedRne o k (FV.fma true (FV.decode k x) (FV.decode k y) (FV.decode k z))
  | .vmin _ t .. => fl t fun k => nanOr k vs (if (FV.decode k x).leSigned (FV.decode k y) then x else y)
  | .vmax _ t .. => fl t fun k => nanOr k vs (if (FV.decode k x).leSigned (FV.decode k y) then y else x)
  | .vabs _ t .. => fl t fun k => nanOr k vs (x % 2 ^ (k.width - 1))
  | .vneg _ t .. => fl t fun k => nanOr k vs ((x + 2 ^ (k.width - 1)) % 2 ^ k.width)
  | .vcopysign _ t .. => fl t fun k => nanOr k vs (x % 2 ^ (k.width - 1) + y / 2 ^ (k.width - 1) % 2 * 2 ^ (k.width - 1))
  | .viadd .. => (x + y, 0)
  | .visub _ t .. => (((x : Int) - (y : Int)) % (2 ^ bits t : Int) |>.toNat, 0)
  | .vimul .. => (x * y, 0)
  | .vand .. => (x &&& y, 0)
  | .vor .. => (x ||| y, 0)
  | .vxor .. => (x ^^^ y, 0)
  | .vshl _ t .. => (x * 2 ^ (y % bits t), 0)
  | .vshr _ t .. => (x / 2 ^ (y % bits t), 0)
  | .vsra _ t .. => ((signedOf (bits t) x / 2 ^ (y % bits t)) % (2 ^ bits t : Int) |>.toNat, 0)
  | .vimin _ t .. => (if intValue (vtSigned t) (bits t) x ≤ intValue (vtSigned t) (bits t) y then x else y, 0)
  | .vimax _ t .. => (if intValue (vtSigned t) (bits t) x ≤ intValue (vtSigned t) (bits t) y then y else x, 0)
  | .vsel _ _ _ p _ _ => (if laneP h p lane then x else y, 0)
  | .vexp2 _ t .. => fl t fun k => Machine.special .exp2 o k (FV.decode k x)
  | .vexp _ t .. => fl t fun k => Machine.special .exp o k (FV.decode k x)
  | .vlog2 _ t .. => fl t fun k => Machine.special .log2 o k (FV.decode k x)
  | .vrcp _ t .. => fl t fun k => Machine.special .rcp o k (FV.decode k x)
  | .vrsqrt _ t .. => fl t fun k => Machine.special .rsqrt o k (FV.decode k x)
  | .vsqrt _ t .. => fl t fun k => Machine.special .sqrt o k (FV.decode k x)
  | .vtanh _ t .. => fl t fun k => Machine.special .tanh o k (FV.decode k x)
  | _ => (0, 0)

/-- The form of an element-wise instruction whose type its entry lists: control, type, destination, operands with the predicate they
read, latency and issue cycles (R53, R248, R249, R251, R254, R263). -/
def elementForm (i : Instr) : Option (Ctl × VType × VDest × VForm) :=
  let go (c : Ctl) (t : VType) (a : VDest) (srcs : List VSrc) (preds : List (BitVec 6)) (lat occ : Nat) : Option (Ctl × VType × VDest × VForm) :=
    some (c, t, a, { dest := .tile a, srcs := srcs, preds := preds, lat := lat, occ := occ })
  let narrow (t : VType) : Bool := vtWidth t == 1
  match i with
  | .vadd c t a b x | .vsub c t a b x | .vmul c t a b x | .vmin c t a b x | .vmax c t a b x | .vcopysign c t a b x =>
    if (vtFmt t).isSome then go c t a [b, x] [] 6 1 else none
  | .vfma c t a b x y | .vfms c t a b x y | .vnfma c t a b x y => if (vtFmt t).isSome then go c t a [b, x, y] [] 8 1 else none
  | .vabs c t a b | .vneg c t a b => if (vtFmt t).isSome then go c t a [b] [] 6 1 else none
  | .viadd c t a b x | .visub c t a b x | .vimul c t a b x | .vand c t a b x | .vor c t a b x | .vxor c t a b x | .vshl c t a b x
  | .vshr c t a b x | .vsra c t a b x | .vimin c t a b x | .vimax c t a b x =>
    if (vtFmt t).isSome then none else go c t a [b, x] [] (if narrow t then 4 else 3) (if narrow t then 2 else 1)
  | .vsel c t a p x y => go c t a [x, y] [p] (if narrow t then 4 else 3) (if narrow t then 2 else 1)
  | .vexp2 c t a b | .vexp c t a b | .vlog2 c t a b | .vrcp c t a b | .vrsqrt c t a b | .vsqrt c t a b | .vtanh c t a b =>
    if t = .f32 then go c t a [b] [] 24 4 else if t = .bf16 then go c t a [b] [] 16 2 else none
  | _ => none

/-- What a test compares (R250): false in either direction for a NaN. -/
def testAt (cc : VecCc) (t : VType) (x y : Nat) : Bool :=
  let le (x y : Nat) : Bool := match vtFmt t with
    | some f => (FV.decode f x).le (FV.decode f y)
    | none => decide (intValue (vtSigned t) (8 * vtWidth t) x ≤ intValue (vtSigned t) (8 * vtWidth t) y)
  match cc with
  | .eq => le x y && le y x
  | .ne => !(le x y && le y x)
  | .lt => le x y && !le y x
  | .le => le x y
  | .gt => le y x && !le x y
  | .ge => le y x

/-- A VEC-owned predicate on its way, whole, to land after a latency (R242, R245, R259); nothing else changes but its mark of use. -/
def PredGoes (p : BitVec 6) (lat : Nat) (b : Lanes) (t u : State) : Prop :=
  u = { t with me := { t.me with ppend := t.me.ppend ++ [(p.toNat - 16, t.me.vec.clock + lat, b)], pInuse := u.me.pInuse } }

/-- A test of element j writes lane c of its row (R245): both lanes of a 32-bit element, the one lane of two 8-bit elements. -/
def Covers (w c j : Nat) : Prop := if w = 4 then c / 2 = j else if w = 2 then c = j else c = j / 2

/-- The predicate instructions of VEC: destination, operands, and the bit of a lane (R259). -/
def predLogic (i : Instr) (h : Shuttle) : Option (Ctl × BitVec 6 × List (BitVec 6) × (Nat → Bool)) :=
  match i with
  | .vpand c a b p => some (c, a, [b, p], fun l => laneP h b l && laneP h p l)
  | .vpor c a b p => some (c, a, [b, p], fun l => laneP h b l || laneP h p l)
  | .vpxor c a b p => some (c, a, [b, p], fun l => laneP h b l ^^ laneP h p l)
  | .vpnot c a b => some (c, a, [b], fun l => !laneP h b l)
  | _ => none

/-- The scalar of a predicate over the lanes that the guard leaves: how many are true, whether one is, whether all are (R260). -/
def predCount (i : Instr) (h : Shuttle) : Option (Ctl × BitVec 6 × Nat × Nat) :=
  let trues (c : Ctl) (a : BitVec 6) : Nat := ((List.range 512).filter fun l => guardLane h c l && laneP h a l).length
  let all (c : Ctl) : Nat := ((List.range 512).filter fun l => guardLane h c l).length
  match i with
  | .vpcount c a => some (c, a, trues c a, 0)
  | .voteAny c a => some (c, a, if trues c a = 0 then 0 else 1, 0)
  | .voteAll c a => some (c, a, if trues c a = all c then 1 else 0, 1)
  | _ => none

/-- The forms of the reductions of one tile: control, type, by rows or columns, destination, operand, and the result of a line's terms in
order (R255). -/
def reduceParts (i : Instr) (o : OvfTable) : Option (Ctl × VType × Bool × VDest × VSrc × (List Nat → Nat × FpFlags)) :=
  let ok (t : VType) : Bool := t ∈ [VType.f32, .bf16, .f16, .i32]
  match i with
  | .vredSumRow c t a b => if ok t then some (c, t, true, a, b, sumTerms t o) else none
  | .vredSumCol c t a b => if ok t then some (c, t, false, a, b, sumTerms t o) else none
  | .vredMaxRow c t a b => if ok t then some (c, t, true, a, b, fun l => (maxTerms t l, 0)) else none
  | .vredMaxCol c t a b => if ok t then some (c, t, false, a, b, fun l => (maxTerms t l, 0)) else none
  | _ => none
/-- The forms of `vred.maxsum` (R256). -/
def pairParts (i : Instr) : Option (Ctl × VType × Bool × BitVec 3 × BitVec 3 × VSrc × VSrc) :=
  match i with
  | .vredMaxsumRow c t a b x y => if t = .f32 ∨ t = .bf16 then some (c, t, true, a, b, x, y) else none
  | .vredMaxsumCol c t a b x y => if t = .f32 ∨ t = .bf16 then some (c, t, false, a, b, x, y) else none
  | _ => none
/-- How many lines a reduction has in SHAPE, and the positions of one in order (R255). -/
def lines (h : Shuttle) (w : Nat) (row : Bool) : Nat := if row then h.rows else Nat.min h.cols (64 / w)
def line (h : Shuttle) (w : Nat) (row : Bool) (i : Nat) : List (Nat × Nat) :=
  if row then (List.range (Nat.min h.cols (64 / w))).map (fun j => (i, j)) else (List.range h.rows).map (fun r => (r, i))

/-- The untyped movements: width, destination, operands, latency, issue cycles, and the element (r, j) of its operands (R257). -/
def moveForm (i : Instr) : Option (Ctl × Nat × VDest × VForm × (List SrcVal → Nat → Nat → Nat)) :=
  let go (c : Ctl) (w : Nat) (a : VDest) (srcs : List VSrc) (lat occ : Nat) (f : List SrcVal → Nat → Nat → Nat) :
      Option (Ctl × Nat × VDest × VForm × (List SrcVal → Nat → Nat → Nat)) :=
    some (c, w, a, { dest := .tile a, srcs := srcs, lat := lat, occ := occ }, f)
  let at0 (vs : List SrcVal) (w r j : Nat) : Nat := (vs.getD 0 (.const 0)).at w r j
  match i with
  | .vmov c a b => go c 2 a [b] 2 1 (fun vs r j => at0 vs 2 r j)
  | .vbcast c x a b m =>
    if m = 0 then go c (xWidth x) a [b] 2 1 (fun vs r _ => at0 vs (xWidth x) r 0)
    else if m = 1 ∧ (∀ k, b ≠ .k k) then go c (xWidth x) a [b] 2 1 (fun vs _ j => at0 vs (xWidth x) 0 j)
    else none
  | .vtrn c x a b => go c (xWidth x) a [b] 6 2 (fun vs r j => at0 vs (xWidth x) (j % 16) (r + 16 * (j / 16)))
  | .vperm c x a b y =>
    go c (xWidth x) a [b, y] 6 2 (fun vs r j => at0 vs (xWidth x) r ((vs.getD 1 (.const 0)).at (xWidth x) r j % (64 / xWidth x)))
  | _ => none

/-- An element on its way to VEC's FIFO, to land four cycles after its issue, behind every earlier result, and nothing else (R22, R222, R246, R263). -/
def GivesFifo (v : Word) (t u : State) : Prop :=
  u = { t with me := { t.me with vdue := t.me.vdue ++ [(Nat.max (t.me.vec.clock + 4) (vecLands t.me), .fifo v)] } }

end Sys2Proof.Claim
open Sys2Proof Sys2Proof.Machine Sys2Proof.Claim

/-- R205, R213, R237 to R244, R248, R249, R251, R254, R263: an element-wise VEC instruction computes every active element of its destination from its
operands there, keeps every other element (a new slot's are zero), and lands after its latency, with the flags of what it computed. -/
def Obligations.VecElementwise : Prop :=
  ∀ (i : Instr) (c : Ctl) (t : VType) (a : VDest) (f : VForm) (s u : State) (vs : List SrcVal), elementForm i = some (c, t, a, f) →
    VecIssues c s → VecRoom f c s → Operands f.srcs (some (vtDeliver t)) (immElem t) (vtWidth t) (vecStart f c s) u vs →
    let w := vtWidth t
    let at' (r j : Nat) := elementFn i u.me (ovfOf u.me .vec) (32 * r + w * j / 2) (vs.map fun x => x.at w r j)
    ∃ k b, exec i s = .next (endEng (occupy k f.occ) .vec c) ∧ TileGoes a f.lat b u k
      ∧ Elements w (activeAt u.me c w) (oldBits u.me a) (fun r j => (at' r j).1) b
      ∧ Raised u.me k.me f.lat (fun p : Nat × Nat => p.1 < 16 ∧ p.2 < 64 / w ∧ activeAt u.me c w p.1 p.2 = true) (fun p => (at' p.1 p.2).2)

/-- R210 to R212, R252, R253, R263: `vcvt` of a listed pair converts each active element that its operand holds, packs whole rows into B16M
blocks, or unpacks them. -/
def Obligations.VecConverts : Prop :=
  ∀ (c : Ctl) (x y : CvtFmt) (rnd : Rnd) (a : VDest) (b : VSrc) (s u : State) (v : SrcVal), VecIssues c s → cvtPair x y = true →
    (∀ i, b ≠ .imm i) → ((cvtBlockM x).isSome = true → ∀ k, b ≠ .k k) →
    let form : VForm := { dest := .tile a, srcs := [b], lat := (cvtFigures x y).1, occ := (cvtFigures x y).2 }
    VecRoom form c s → Operands [b] (some (cvtDeliver x)) (fun _ => 0) (cvtWidth x) (vecStart form c s) u [v] →
    ∃ k d, exec (.vcvt c x y rnd a b) s = .next (endEng (occupy k form.occ) .vec c) ∧ TileGoes a form.lat d u k
      ∧ (cvtBlockM x = none → cvtBlockM y = none →
          let act (r j : Nat) := activeAt u.me c (cvtWidth y) r j && decide (j < 64 / cvtWidth x)
          let f (r j : Nat) := cvtElem (ovfOf u.me .vec) x y rnd (v.at (cvtWidth x) r j)
          Elements (cvtWidth y) act (oldBits u.me a) (fun r j => (f r j).1) d
            ∧ Raised u.me k.me form.lat (fun p : Nat × Nat => p.1 < 16 ∧ p.2 < 64 / cvtWidth y ∧ act p.1 p.2 = true) (fun p => (f p.1 p.2).2))
      ∧ (∀ m, cvtBlockM x = some m → cvtBlockM y = none → Elements 4 (activeAt u.me c 4) (oldBits u.me a) (fun r j => (fromBlock m v r j).1) d)
      ∧ (∀ m, cvtBlockM y = some m → ∀ r < 16, tileRow d r =
          if r < u.me.rows then
            let e := b16Encode (ovfOf u.me .vec) m rnd ((List.range 16).map fun j =>
              if j < Nat.min u.me.cols 16 ∧ guardLane u.me c (32 * r + 2 * j) then f32 (v.at 4 r j) else f32 0)
            (e.1 + 2 ^ 496 * (e.2.1 + 256 * e.2.2.1)) % 2 ^ 512
          else tileRow (oldBits u.me a) r)

/-- R242, R245, R250, R259, R263: `vcmp` sets a lane where an active element writes it and the test holds for each that does; the
predicate logic sets a lane where the guard and the operation hold; every other lane of the destination is 0. -/
def Sys2Proof.Claim.VecPredicates : Prop :=
  ∀ (c : Ctl) (s : State), VecIssues c s →
    (∀ cc t (p : BitVec 6) b x u v y, 16 ≤ p.toNat →
      let w := vtWidth t
      let form : VForm := { dest := .pred p, srcs := [b, x], lat := if 2 ≤ w then 3 else 4, occ := if 2 ≤ w then 1 else 2 }
      VecRoom form c s → Operands [b, x] (some (vtDeliver t)) (immElem t) w (vecStart form c s) u [v, y] →
      ∃ k d, exec (.vcmp c cc t p b x) s = .next (endEng (occupy k form.occ) .vec c) ∧ PredGoes p form.lat d u k
        ∧ ∀ l < 512, (d.getLsbD l = true ↔
            (∃ j < 64 / w, Covers w (l % 32) j ∧ activeAt u.me c w (l / 32) j = true)
            ∧ ∀ j < 64 / w, Covers w (l % 32) j → activeAt u.me c w (l / 32) j = true →
                testAt cc t (v.at w (l / 32) j) (y.at w (l / 32) j) = true))
    ∧ (∀ i a ps f, (∀ h, ∃ g, predLogic i h = some (c, a, ps, g)) → 16 ≤ a.toNat →
      let form : VForm := { dest := .pred a, preds := ps, lat := 1 }
      VecRoom form c s → predLogic i (vecStart form c s).me = some (c, a, ps, f) →
      ∃ k d, exec i s = .next (endEng (occupy k 1) .vec c) ∧ PredGoes a 1 d (vecStart form c s) k
        ∧ ∀ l < 512, d.getLsbD l = (guardLane (vecStart form c s).me c l && f l))

/-- R22, R246, R260, R261: `vpcount`, `vote.any`, `vote.all` give the count or the vote over the lanes that the guard leaves, and `vext` one FP32
or 32-bit element, 0 where the guard is false there, to VEC's FIFO. -/
def Sys2Proof.Claim.VecScalars : Prop :=
  ∀ (c : Ctl) (s : State), VecIssues c s →
    (∀ i a n idle, (∀ h, ∃ m, predCount i h = some (c, a, m, idle)) →
      let form : VForm := { dest := .fifo (BitVec.ofNat 64 idle), preds := [a], lat := 4 }
      VecRoom form c s → predCount i (vecStart form c s).me = some (c, a, n, idle) →
      ∃ k, exec i s = .next (endEng (occupy k 1) .vec c) ∧ GivesFifo (BitVec.ofNat 64 n) (vecStart form c s) k)
    ∧ (∀ (a : VReg) (r x : KOrImm),
      let form : VForm := { dest := .fifo 0, srcs := [regSrc a], lat := 4 }
      let t := vecStart form c s
      let i := (kOrImmVal t.me .vec r).toNat
      let j := (kOrImmVal t.me .vec x).toNat
      VecRoom form c s → i < 16 → j < 16 → ∀ u v, srcVal1 t (fun _ => 0) 4 (regSrc a) none = (u, v) →
      ∃ k, exec (.vext c a r x) s = .next (endEng (occupy k 1) .vec c)
        ∧ GivesFifo (if guardLane t.me c (32 * i + 2 * j) then BitVec.ofNat 64 (v.at 4 i j) else 0) u k)

/-- R245, R246, R250, R259 to R261: compares, predicate logic, votes, counts and extraction. -/
def Obligations.VecPredicatesAndScalars : Prop := Claim.VecPredicates ∧ Claim.VecScalars

/-- R255, R256, R263: a reduction combines the terms of each row or column in SHAPE, in order, and writes every active element of the line
with the result; `vred.maxsum` writes the two results of its pairs to its two tiles. -/
def Sys2Proof.Claim.VecReduces : Prop :=
  ∀ (c : Ctl) (s : State), VecIssues c s →
    (∀ i t row a b u v f, (∀ o, ∃ g, reduceParts i o = some (c, t, row, a, b, g)) →
      let w := vtWidth t
      let form : VForm := { dest := .tile a, srcs := [b], lat := if row then 14 else 12, occ := 2 }
      VecRoom form c s → Operands [b] (some (vtDeliver t)) (immElem t) w (vecStart form c s) u [v] → reduceParts i (ovfOf u.me .vec) = some (c, t, row, a, b, f) →
      let at' (n : Nat) := f ((line u.me w row n).map fun p => v.at w p.1 p.2)
      ∃ k d, exec i s = .next (endEng (occupy k 2) .vec c) ∧ TileGoes a form.lat d u k
        ∧ Elements w (activeAt u.me c w) (oldBits u.me a) (fun r j => (at' (if row then r else j)).1) d
        ∧ Raised u.me k.me form.lat (fun n => n < lines u.me w row) (fun n => (at' n).2))
    ∧ (∀ i t row a b x y u v z, pairParts i = some (c, t, row, a, b, x, y) → a ≠ b →
      let w := vtWidth t
      let form : VForm := { dest := .pair a b, srcs := [x, y], lat := if row then 80 else 72, occ := 16 }
      VecRoom form c s → Operands [x, y] (some (vtDeliver t)) (immElem t) w (vecStart form c s) u [v, z] →
      let at' (n : Nat) := combRoot t (ovfOf u.me .vec) ((line u.me w row n).map fun p => (v.at w p.1 p.2, z.at w p.1 p.2))
      ∃ k d e, exec i s = .next (endEng (occupy k 16) .vec c)
        ∧ k.me.vpend = u.me.vpend ++ [(a.toNat, u.me.vec.clock + form.lat, d), (b.toNat, u.me.vec.clock + form.lat, e)]
        ∧ k.mem = u.mem ∧ k.tile = u.tile ∧ k.me.g = u.me.g ∧ k.me.v = u.me.v ∧ k.me.vp = u.me.vp ∧ k.me.ring = u.me.ring
        ∧ Elements w (activeAt u.me c w) (oldBits u.me (.v a)) (fun r j => (at' (if row then r else j)).1.1) d
        ∧ Elements w (activeAt u.me c w) (oldBits u.me (.v b)) (fun r j => (at' (if row then r else j)).1.2) e
        ∧ Raised u.me k.me form.lat (fun n => n < lines u.me w row) (fun n => (at' n).2))

/-- R153, R236, R240, R247, R257, R258, R263: the movements place elements of their operands, whatever SHAPE says, where the guard's lanes allow;
`vld` writes the block it pops; `vst` hands one block over; `vshape` sets ROWS and COLS. -/
def Sys2Proof.Claim.VecMoves : Prop :=
  ∀ (c : Ctl) (s : State), VecIssues c s →
    (∀ i w a form f u vs, moveForm i = some (c, w, a, form, f) → VecRoom form c s → Operands form.srcs none (fun _ => 0) w (vecStart form c s) u vs →
      ∃ k d, exec i s = .next (endEng (occupy k form.occ) .vec c) ∧ TileGoes a form.lat d u k ∧ k.me.vdue = u.me.vdue
        ∧ Elements w (fun r j => guardLane u.me c (32 * r + w * j / 2)) (oldBits u.me a) (f vs) d)
    ∧ (∀ a r x w u v, let form : VForm := { dest := .tile a, srcs := [.s r], lat := 4 }
      VecRoom form c s → getS (vecStart form c s).me r = some x → dWidth (delivered x.desc) = some w →
      Operands [.s r] none (fun _ => 0) w (vecStart form c s) u [v] →
      ∃ k d, exec (.vld c a r) s = .next (endEng (occupy k 1) .vec c) ∧ TileGoes a 4 d u k ∧ k.me.vdue = u.me.vdue
        ∧ Elements w (fun r j => guardLane u.me c (32 * r + w * j / 2)) (oldBits u.me a) (fun r j => v.at w r j) d)
    ∧ (∀ r b x w u v, let form : VForm := { dest := .none, srcs := [regSrc b], lat := 4 }
      VecRoom form c s → c.ga.toNat < 16 → c.gb.toNat < 16 → getS (vecStart form c s).me r = some x → dWidth (delivered x.desc) = some w →
      outOk x = true → x.failed = none → x.cpos < x.n → poolRoom (vecStart form c s) x.desc = true →
      srcVal1 (vecStart form c s) (fun _ => 0) w (regSrc b) none = (u, v) →
      ∃ k y, exec (.vst c r b) s = .next (endEng (occupy k 1) .vec c) ∧ OnlyMe u k
        ∧ getS k.me r = some { x with buf := x.buf ++ [y], cpos := x.cpos + 1 }
        ∧ y.elems = (List.range (x.desc.rows * x.desc.cols)).map (fun n => v.at w (n / x.desc.cols) (n % x.desc.cols))
        ∧ ∀ q, q ≠ r → getS k.me q = getS u.me q)
    ∧ (∀ rows cols, let form : VForm := { dest := .none, lat := 1 }
      VecRoom form c s → 1 ≤ rows → rows ≤ 16 → 1 ≤ cols → cols ≤ 64 →
      (∀ imm : BitVec 20, imm.toNat = 256 * rows + cols →
        ∃ k, exec (.vshapeImm c imm) s = .next (endEng (occupy k 1) .vec c) ∧ k.me = { (vecStart form c s).me with rows := rows, cols := cols })
      ∧ (∀ r, (kVal (vecStart form c s).me .vec r).toNat = 256 * rows + cols →
        ∃ k, exec (.vshapeK c r) s = .next (endEng (occupy k 1) .vec c) ∧ k.me = { (vecStart form c s).me with rows := rows, cols := cols }))

/-- R247, R255 to R258: reductions, movements, blocks out and SHAPE. -/
def Obligations.VecReducesAndMoves : Prop := Claim.VecReduces ∧ Claim.VecMoves
namespace Sys2Proof.Claim
open Sys2Proof.Machine

/-! ### Near-data units -/

/-- On the unit in focus a body stands as said, and nothing else differs. -/
def OnBody (s t : State) (b : Body) : Prop := t = { s with nd := { s.nd with body := some b } }

/-- A body with one near-data register and its flags changed, and the phase that follows. -/
def OneReg (b k : Body) (x : BitVec 8) (phase : Nat) : Prop :=
  k = { b with phase := phase, regs := { b.regs with n := k.regs.n }, kick := { b.kick with flags := k.kick.flags } }
    ∧ ∀ y : BitVec 8, y.toNat < 32 → y ≠ x → getN k y = getN b y
/-- Flags raised into a body's mailbox flags: those of the computations under a condition, and no others. -/
def RaisedNd (b k : Body) {α : Type} (cond : α → Prop) (f : α → FpFlags) : Prop :=
  ∀ i, k.kick.flags.getLsbD i = true ↔ b.kick.flags.getLsbD i = true ∨ ∃ x, cond x ∧ (f x).getLsbD i = true
/-- A register of LEN n whose lanes are a function's values. -/
def LanesAre (r : NReg) (n : Nat) (f : Nat → Nat) : Prop := r.len = n ∧ ∀ k, nLane r k = if k < n then f k % 2 ^ 32 else 0

/-- The lane operations: destination, sources in the order of the entry, and what one lane computes (R339). -/
def laneParts (i : Instr) (o : OvfTable) : Option (BitVec 8 × List (BitVec 8) × (List Nat → Nat × FpFlags)) :=
  let f (vs : List Nat) (k : Nat) : FV := FV.decode .f32 (vs.getD k 0)
  let nanOr (vs : List Nat) (v : Nat) : Nat × FpFlags :=
    if vs.any (fun x => (FV.decode .f32 x).isNan) then (Fmt.f32.cnan, 0) else (v, 0)
  let rnd (r : FV × FpFlags) : Nat × FpFlags := roundedRne noTable .f32 r
  match i with
  | .abs x y => some (x, [y], fun vs => nanOr vs (vs.getD 0 0 % 2 ^ 31))
  | .neg x y => some (x, [y], fun vs => nanOr vs ((vs.getD 0 0 + 2 ^ 31) % 2 ^ 32))
  | .ndAdd x y z => some (x, [y, z], fun vs => rnd ((f vs 0).add (f vs 1)))
  | .ndSub x y z => some (x, [y, z], fun vs => rnd ((f vs 0).add (f vs 1).negate))
  | .ndMul x y z => some (x, [y, z], fun vs => rnd ((f vs 0).mul (f vs 1)))
  | .fma x y z => some (x, [y, z, x], fun vs => rnd (FV.fma false (f vs 0) (f vs 1) (f vs 2)))
  | .ndMax x y z => some (x, [y, z], fun vs => nanOr vs (if (f vs 0).leSigned (f vs 1) then vs.getD 1 0 else vs.getD 0 0))
  | .ndMin x y z => some (x, [y, z], fun vs => nanOr vs (if (f vs 0).leSigned (f vs 1) then vs.getD 0 0 else vs.getD 1 0))
  | .ndCmp cc x y z => some (x.setWidth 8, [y, z], fun vs => (if testAt cc .f32 (vs.getD 0 0) (vs.getD 1 0) then 0xFFFFFFFF else 0, 0))
  | .sel x y z => some (x, [x, y, z], fun vs => (if vs.getD 0 0 ≠ 0 then vs.getD 1 0 else vs.getD 2 0, 0))
  | .iadd x y z => some (x, [y, z], fun vs => (vs.getD 0 0 + vs.getD 1 0, 0))
  | .cvt x y m k => some (x, [y], fun vs => cvtLane o k.toNat (rndOf m) (vs.getD 0 0))
  | .exp2 x y => some (x, [y], fun vs => Machine.special .exp2 noTable .f32 (f vs 0))
  | .rcp x y => some (x, [y], fun vs => Machine.special .rcp noTable .f32 (f vs 0))
  | _ => none

/-- The term that reaches level l of a stack whose lower levels are all present (R340). -/
def carried (lv : Nat → Nat) (v : Nat) : Nat → Nat
  | 0 => v
  | l + 1 => (fadd (lv l) (carried lv v l)).1
/-- A level of a body's reed stack. -/
def level (b : Body) (l : Nat) : Nat := (b.regs.levels.toList.getD l 0).toNat

/-- A word ends: the next word, the first word of the next iteration, or the end of the body (R337, R347). -/
def WordEnds (s : State) (b k : Body) : Prop :=
  k.phase = 0 ∧
  if b.regs.word + 1 < (bodyWords s b.kick).length then k.regs.word = b.regs.word + 1 ∧ k.regs.iter = b.regs.iter ∧ k.state = b.state
  else if b.regs.iter + 1 < b.kick.desc.trip then k.regs.word = 0 ∧ k.regs.iter = b.regs.iter + 1 ∧ k.state = b.state
  else k.state = .finished ∧ k.status = if s.nd.tierM = b.kick.desc.tierM then 1 else 2

/-- A body after its write-back slot, all but what the end of a word changes: registers, positions, levels, scalars, writes, contributions, mailbox words. -/
def SameBody (b k : Body) : Prop :=
  k.regs.n = b.regs.n ∧ k.regs.levels = b.regs.levels ∧ k.regs.c = b.regs.c ∧ k.regs.pos = b.regs.pos ∧ k.regs.sc = b.regs.sc
    ∧ k.writes = b.writes ∧ k.puts = b.puts ∧ k.kick = b.kick

/-- The address of unit j of a pattern (R338, R150). -/
def unitVa (p : Pattern) (j : Nat) : Nat := Obj.base p.entry + (unitOff p.desc j).toNat
/-- A byte of a kick's footprint that its body may store to (R371): no line of a guarded tier map (R314). -/
def Storable (s : State) (k : Kick) (va : Nat) : Prop :=
  ∃ e, heldLeaf k va = some e ∧ leafW e = true ∧ leafCoded e = false ∧ guardedLine s (leafAddr e va) 1 = false

/-- The unit in focus is the one a happening names. -/
def OnUnit (s : State) (u : Nat) : Prop := s.nd.tierM = (ndNumber u).1 ∧ s.nd.unit = (ndNumber u).2

end Sys2Proof.Claim
open Sys2Proof Sys2Proof.Machine Sys2Proof.Claim

/-- R336, R338, R346: the fetch slot: `fnop` nothing; `fld` a block's elements, one a lane, and `fldp` the raw words of a unit with its scale record,
each where its reads succeed, and the pattern one further; `fnext` the pattern alone; `frec` a scalar in all 16 lanes. -/
def Obligations.NdFetches : Prop :=
  ∀ (s : State) (b : Body), s.nd.body = some b →
    (∃ t, exec .fnop s = .next t ∧ OnBody s t { b with phase := 2 })
    ∧ (∀ x y : BitVec 8, x.toNat < 32 → ∃ t k, exec (.frec x y) s = .next t ∧ OnBody s t k ∧ OneReg b k x 2
        ∧ LanesAre (getN k x) 16 (fun _ => (getSc b y).toNat) ∧ k.kick.flags = b.kick.flags)
    ∧ (∀ (y : BitVec 8) p i, fetchPat b y = .ok (p, i) → ∃ t, exec (.fnext y) s = .next t
        ∧ OnBody s t { b with phase := 2, regs := { b.regs with pos := b.regs.pos.setIfInBounds y.toNat (i + 1) } })
    ∧ (∀ (x y : BitVec 8) p i u l, x.toNat < 32 → fetchPat b y = .ok (p, i) →
        readUnits b p false s ((List.range (unitsPerBlock p.desc)).map (· + i * unitsPerBlock p.desc)) = (u, .ok l) →
        ∃ t k, exec (.fld x y) s = .next t ∧ OnBody u t k ∧ posOf k y = (if y.toNat < 8 then i + 1 else i) ∧ k.kick = b.kick
          ∧ LanesAre (getN k x) l.length (fun j => if j < 16 then fldElem p.desc.format (natOfBytes (l.getD j [])) else 0)
          ∧ ∀ z : BitVec 8, z.toNat < 32 → z ≠ x → getN k z = getN b z)
    ∧ (∀ (x y : BitVec 8) p i u v bs r, x.toNat < 32 → fetchPat b y = .ok (p, i) → (p.desc.decode = 1 ∨ p.desc.decode = 2) →
        bodyRead s b (decide (p.desc.decode = 1)) (unitVa p i) (unitBytes p.desc) = (u, .ok bs) →
        bodyRead u b false (Obj.scaleBase p.entry + (unitOff p.desc i).toNat / unitBytes p.desc * Obj.scaleStride p.entry) 2 = (v, .ok r) →
        let n := if p.desc.decode = 1 then 12 else 4
        ∃ t k, exec (.fldp x y) s = .next t ∧ OnBody v t k ∧ posOf k y = (if y.toNat < 8 then i + 1 else i) ∧ k.kick = b.kick
          ∧ LanesAre (getN k x) 16 (fun j => if j < n then natOfBytes ((bs.drop (4 * j)).take 4) else if j = n then natOfBytes r else 0)
          ∧ ∀ z : BitVec 8, z.toNat < 32 → z ≠ x → getN k z = getN b z)

/-- R208, R218, R339 to R341: the arithmetic slot: the lane operations over the least LEN of their sources; `nop`, `mov` and `imm`; `dot`; `reed`,
which adds a term to the stack of levels; `rflush`, which gives its sum and with Y = 1 empties it; `twd` and `b16x`. -/
def Obligations.NdArithmetic : Prop :=
  ∀ (s : State) (b : Body), s.nd.body = some b →
    (∀ i x ys f, laneParts i b.kick.ovf = some (x, ys, f) → x.toNat < 32 →
      let n := ys.foldl (fun m y => Nat.min m (getN b y).len) 16
      let at' (j : Nat) := f (ys.map fun y => nLane (getN b y) j)
      ∃ t k, exec i s = .next t ∧ OnBody s t k ∧ OneReg b k x 3 ∧ LanesAre (getN k x) n (fun j => (at' j).1)
        ∧ RaisedNd b k (fun j => j < n) (fun j => (at' j).2))
    ∧ (∃ t, exec .ndNop s = .next t ∧ OnBody s t { b with phase := 3 })
    ∧ (∀ x y : BitVec 8, x.toNat < 32 → ∃ t k, exec (.ndMov x y) s = .next t ∧ OnBody s t k ∧ OneReg b k x 3 ∧ getN k x = getN b y
        ∧ k.kick = b.kick)
    ∧ (∀ x y z : BitVec 8, x.toNat < 32 → ∃ t k, exec (.imm x y z) s = .next t ∧ OnBody s t k ∧ OneReg b k x 3 ∧ k.kick = b.kick
        ∧ LanesAre (getN k x) 16 (fun _ => (roundF32 (FV.decode .bf16 (y.toNat * 256 + z.toNat))).1))
    ∧ (∀ x y z : BitVec 8, x.toNat < 32 →
        let ks := List.range (Nat.min (getN b y).len (getN b z).len)
        let r := chunkSum (ks.map fun j => f32 (nLane (getN b y) j)) (ks.map fun j => f32 (nLane (getN b z) j))
        ∃ t k, exec (.dot x y z) s = .next t ∧ OnBody s t k ∧ OneReg b k x 3 ∧ LanesAre (getN k x) 1 (fun _ => r.1)
          ∧ k.kick.flags = b.kick.flags ||| r.2)
    ∧ (∀ (x : BitVec 8) (l : Nat), b.regs.c < 2 ^ 24 - 1 → l < 24 → b.regs.c.testBit l = false → (∀ j < l, b.regs.c.testBit j = true) →
        let v := nLane (getN b x) 0
        ∃ t k, exec (.reed x) s = .next t ∧ OnBody s t k ∧ k.regs.c = b.regs.c + 1 ∧ k.regs.n = b.regs.n ∧ k.phase = 3
          ∧ (∀ j < 24, level k j = if j < l then 0 else if j = l then carried (level b) v l % 2 ^ 32 else level b j)
          ∧ RaisedNd b k (fun j => j < l) (fun j => (fadd (level b j) (carried (level b) v j)).2))
    ∧ (∀ x y : BitVec 8, x.toNat < 32 → ∃ t k, exec (.rflush x y) s = .next t ∧ OnBody s t k ∧ k.phase = 3
        ∧ LanesAre (getN k x) 1 (fun _ => (flushSum b.regs).1) ∧ k.kick.flags = b.kick.flags ||| (flushSum b.regs).2
        ∧ (y = 1 → k.regs.c = 0 ∧ ∀ j < 24, level k j = 0) ∧ (y ≠ 1 → k.regs.c = b.regs.c ∧ k.regs.levels = b.regs.levels))
    ∧ (∀ (x y z : BitVec 8) n, x.toNat < 32 → let rec' := nLane (getN b y) 12
        rec' < 1024 → twN (rec' / 256) = some n → 2 ≤ rec' % 256 → 16 * z.toNat < n →
        ∃ t k, exec (.twd x y z) s = .next t ∧ OnBody s t k ∧ OneReg b k x 3 ∧ k.kick = b.kick
          ∧ LanesAre (getN k x) (Nat.min 16 (n - 16 * z.toNat))
              (fun j => (roundF32 (twDecode (laneBits (getN b y) 12) (rec' / 256) (rec' % 256) (16 * z.toNat + j))).1))
    ∧ (∀ x y z : BitVec 8, x.toNat < 32 → let rec' := nLane (getN b y) 4
        ∃ t k, exec (.b16x x y z) s = .next t ∧ OnBody s t k ∧ OneReg b k x 3 ∧ k.kick = b.kick
          ∧ LanesAre (getN k x) 16 (fun j => (roundF32 (b16Value z.toNat (laneBits (getN b y) 4) (rec' % 256) (rec' / 256 % 256) j)).1))

/-- R300, R337, R342, R349, R371: the write-back slot ends its word: `wnop` alone; `wst` holds a block's bytes, each at the physical address of
its place, for the body's completion; `wacc` takes a block's bytes for a zone whose header admits them, to leave at the next climb point or the body's
end (that it leaves no earlier is the model's reading, log entry 129); `wmb` and `wrec` take lane 0 of a register
into a mailbox word and a scalar. -/
def Obligations.NdWritesBack : Prop :=
  ∀ (s : State) (b : Body), s.nd.body = some b →
    (∃ t k, exec .wnop s = .next t ∧ OnBody s t k ∧ WordEnds s b k ∧ SameBody b k)
    ∧ (∀ (x y : BitVec 8) p i, fetchPat b y = .ok (p, i) → y.toNat < 8 →
        let u := unitsPerBlock p.desc
        let el (j : Nat) := wstElem b.kick.ovf p.desc.format (nLane (getN b x) j)
        let va (j : Nat) := unitVa p (i * u + j)
        (∀ j < u, ∀ a < (el j).1.length, Storable s b.kick (va j + a)) →
        ∃ t k, exec (.wst x y) s = .next t ∧ OnBody s t k ∧ WordEnds s b k ∧ k.regs.n = b.regs.n ∧ posOf k y = i + 1
          ∧ k.writes = b.writes ++ (List.range u).flatMap (fun j => (List.range (el j).1.length).map fun a =>
              ((heldPa b.kick (va j + a)).getD 0, (el j).1.getD a 0))
          ∧ RaisedNd b k (fun j => j < u) (fun j => (el j).2))
    ∧ (∀ (x y z : BitVec 8) p i, fetchPat b y = .ok (p, i) → y.toNat < 8 →
        let els := (List.range (unitsPerBlock p.desc)).map fun j => wstElem b.kick.ovf p.desc.format (nLane (getN b x) j)
        let c : Contrib := { contributor := z.toNat, off := (unitOff p.desc (i * unitsPerBlock p.desc)).toNat, bytes := els.flatMap (·.1),
                             barred := (launchOf s b.kick.launch).elim false (fun l => l.climb || l.paired) }
        let zone : Zone := (s.zones.find? fun q => q.tenant = b.kick.tenant && q.base = Obj.base p.entry).getD
          { tenant := b.kick.tenant, obj := p.desc.obj, base := Obj.base p.entry, size := Obj.size p.entry }
        contribTrouble (zoneHeader s zone) zone.size c = none →
        ∃ t k, exec (.wacc x y z) s = .next t ∧ OnBody s t k ∧ WordEnds s b k ∧ posOf k y = i + 1 ∧ k.writes = b.writes
          ∧ k.puts = b.puts ++ [(p.desc.obj, Obj.base p.entry, Obj.size p.entry, c)]
          ∧ RaisedNd b k (fun j => j < unitsPerBlock p.desc) (fun j => (wstElem b.kick.ovf p.desc.format (nLane (getN b x) j)).2))
    ∧ (∀ x y : BitVec 8, y.toNat < 12 → ∃ t k, exec (.wmb x y) s = .next t ∧ OnBody s t k ∧ WordEnds s b k ∧ k.regs.n = b.regs.n
        ∧ ∀ j < 12, (k.kick.words.toList.getD j 0).toNat = if j = y.toNat then nLane (getN b x) 0 else (b.kick.words.toList.getD j 0).toNat)
    ∧ (∀ x y : BitVec 8, y.toNat < 16 → ∃ t k, exec (.wrec x y) s = .next t ∧ OnBody s t k ∧ WordEnds s b k ∧ k.regs.n = b.regs.n
        ∧ ∀ j < 16, (k.regs.sc.toList.getD j 0).toNat = if j = y.toNat then nLane (getN b x) 0 else (b.regs.sc.toList.getD j 0).toNat)

/-- R308, R309, R317, R331, R336, R344, R347: a free unit in service starts the oldest kick of its queue, with every register, scalar, level and
position 0 unless a record says where; a climb point keeps the state of the body, every register dead, sends the contributions made before it,
and lets the body go on where no request is pending and its next pick is there, and with a request pending stops it, as it is, with its record written; a finished body leaves its unit and completes
its kick. -/
def Obligations.NdBodyRuns : Prop :=
  ∀ (u : Nat) (s : State), OnUnit s u →
    (∀ k rest, s.nd.body = none → s.nd.queue = k :: rest → unitOut s s.nd.tierM s.nd.unit = false →
      ∃ t b, exec (.kickBodyStart u) s = .next t ∧ t = { s with nd := { s.nd with queue := rest, body := some b } } ∧ b.kick = k
        ∧ b.regs = k.start.getD {} ∧ b.phase = 0 ∧ b.state = .running ∧ b.writes = [])
    ∧ (∀ b slot id p e, s.nd.body = some b → bodySlot s b.kick = some slot → slot.climbs.find? (fun c => c.1 = b.regs.word) = some (b.regs.word, id) →
        b.state = .running → b.phase = 0 → nextPick s b b.regs = some p → kickEnt s b.kick p = some e → pickLost e s.nd.tierM = false →
      let w := sendPuts s b
      let dead : BodyRegs := { b.regs with n := Vector.replicate 32 {} }
      let b1 := { b with climbAt := some (id, dead), climbFlags := b.kick.flags, climbWords := b.kick.words, climbWrites := b.writes.length,
                         phase := 1, wordStart := b.regs, wordFlags := b.kick.flags, puts := [] }
      w = { s with zones := w.zones }
      ∧ (handoverOf s b.kick.id = none → ∃ t, exec (.climbCheck u) s = .next t ∧ OnBody w t b1)
      ∧ (∀ h v, handoverOf s b.kick.id = some h → writeRecord { w with nd := { w.nd with body := some b1 } } b1 id dead p = (v, true) →
          ∃ t k, exec (.climbCheck u) s = .next t ∧ t.mem = v.mem ∧ t.zones = v.zones ∧ t.nd.body = some k ∧ k.regs = b.regs ∧ k.state = .climbed
            ∧ k.writes = [] ∧ k.puts = []))
    ∧ (∀ b, s.nd.body = some b → b.state = .finished → b.status ≠ 3 →
      ∃ t, exec (.bodyComplete u) s = .next t ∧ t.nd.body = none
        ∧ (handoverOf s b.kick.id = none → b.writes = [] → b.kick.stored = [] →
            let w := sendPuts s b
            t.mem = (completeMailbox { w with nd := { w.nd with body := none } } b.kick b.status b.fseq).mem ∧ t.zones = w.zones)
        ∧ handoverOf t b.kick.id = none)
namespace Sys2Proof.Claim
open Sys2Proof.Machine

/-! ### Waits, engine happenings, the end of a shuttle, groups, zones, the fabric -/

/-- The shuttle in focus is the one a happening names, on the tile in focus. -/
def At (s : State) (q : Place) : Prop := s.me.place = q ∧ s.tile.id = q.tile
/-- A shuttle that waits can go on: it runs, with no trap and no compare due. -/
def Waits (s : State) (q : Place) : Prop := At s q ∧ s.me.life = .running ∧ s.me.dueTrap = none ∧ s.me.compareDue = false ∧ s.me.paired = false

/-- An engine's entry aborted with a code: its record written, its rest discarded, the trap due, no further entry started (R49). -/
def Aborted (base slot : Nat) (e : Eng) (c : Code) (s t : State) : Prop :=
  (engOf t.me e).cur = none ∧ (engOf t.me e).done = (engOf s.me e).done + 1 ∧ t.me.held = true ∧ t.me.dueTrap.isSome = true
    ∧ RecordWritten base slot { trapRecord s c 0 with
        eng := engNum e, codepos := codePos (curOf s.me e).line (curOf s.me e).slot, card := (curOf s.me e).card.getD 0xFF } s t

end Sys2Proof.Claim
open Sys2Proof Sys2Proof.Machine Sys2Proof.Claim

/-- R13, R34, R109: an `exit` of a shuttle with everything of it complete unbinds its streams, clears its tokens and FIFOs and releases its
groups; with the team's last shuttle the team ends, and its launch counts it. -/
def Obligations.ExitEnds : Prop :=
  ∀ (c : Ctl) (s : State) (g : Gang), Issues c s → let h := reader c s
    h.paired = false → h.exiting = false → h.stopReq = false → entriesDone h = true → h.copies = [] → drainHolds h = false → outputsDone h = true →
    h.stores = [] → unacknowledged s = false → gangOf s h.team = some g → s.me.place ∈ g.places ++ g.places1 →
    ((∃ q ∈ g.places ++ g.places1, q ≠ s.me.place ∧ (shuttleAt s q).life ≠ .exited) →
      ∃ t, exec (.exit c) s = .next t ∧ t.me.life = .exited ∧ (∀ r, getS t.me r = none) ∧ (c.push = 0 → ∀ k, tokCount t.me k = 0)
        ∧ (∀ e, fifoOf t.me e = []) ∧ (∀ k < 16, ¬ ((groupOf t.tile k).inuse = true ∧ (groupOf t.tile k).owner = s.me.place.slot)) ∧ t.mem = s.mem)
    ∧ ((∀ q ∈ g.places ++ g.places1, q ≠ s.me.place → (shuttleAt s q).life = .exited) → g.fromRecord = false →
      ∃ t, exec (.exit c) s = .next t ∧ gangOf t g.team = none ∧ t.me.life = .idle
        ∧ ∀ l, launchOf s g.launch = some l → ∃ k, launchOf t g.launch = some k ∧ k.ended = l.ended + 1)

/-- R8, R20, R23, R24, R49, R71, R91, R213, R222, R242, R244, R246: an engine starts the oldest entry of its queue; a token lets a wait go on; the
result that lands next lands, unless an exposed line with an instruction to issue has fixed the cycles before it; a mode crossing deadlocked for 64
cycles, and an entry at its budget, end with WATCHDOG. ENTRY_START, TOKEN_AVAILABLE and RESULT_LANDS each complete so under conditions on the state
alone. -/
def Obligations.EngineEvents : Prop :=
  ∀ (q : Place) (s : State), At s q →
    (∀ e x rest u l, s.me.life ≠ .idle → s.me.life ≠ .exited → s.me.held = false → (engOf s.me e).cur = none → (engOf s.me e).queue = x :: rest →
      x.loop ≠ some 0 → x.head < s.me.kern.lines → fetchLine s x.head = (u, .ok l) →
      ((engOf s.me e).lastInter ≠ some (!Link.inter l) ∨ beforeDone u.me x = true) →
      (safeRecord u u.me.tenant u.me.kern x.head (engCode e)).isSome = true →
      ∃ t y, exec (.entryStart q e) s = .next t ∧ (engOf t.me e).queue = rest ∧ (engOf t.me e).cur = some y ∧ y.entry = x ∧ y.line = x.head
        ∧ y.slot = 0 ∧ y.left = x.lines ∧ y.hand = some l ∧ t.mem = u.mem ∧ t.me.g = u.me.g ∧ ∀ f, f ≠ e → engOf t.me f = engOf u.me f)
    ∧ (∀ k, s.me.life = .running → s.me.dueTrap = none → s.me.compareDue = false →
      (s.me.wait = some (.popTok k) → tokCount s.me k ≠ 0 →
        ∃ t, exec (.tokenAvailable q .seq) s = .next t ∧ t.me.wait = none ∧ t.me.popped = true ∧ t.me.pc = s.me.pc
          ∧ t.me.tok = s.me.tok.setIfInBounds k (tokCount s.me k - 1))
      ∧ (s.me.wait = some (.pushTok k) ∨ (s.me.wait = some (.pushAck k) ∧ unacknowledged s = false) → tokCount s.me k + pushesDue s.me k < 15 →
        ∃ t, exec (.tokenAvailable q .seq) s = .next t
          ∧ t.me = { s.me with wait := none, tok := s.me.tok.setIfInBounds k (tokCount s.me k + 1) })
      ∧ (∀ n, s.me.wait = some (.tokPush k n) → tokCount s.me k + pushesDue s.me k + n ≤ 15 → s.me.ctl.push = 0 → k ≤ 12 →
        ∃ t, exec (.tokenAvailable q .seq) s = .next t ∧ t.me.wait = none ∧ (∀ x ∈ t.me.stores, x.cls < 16 → ∃ j, x.vis = some j ∧ 1 ≤ j)
          ∧ tokCount t.me k = tokCount s.me k + n)
      ∧ (∀ n, s.me.wait = some (.tokPop k n) → n ≤ tokCount s.me k → s.me.ctl.push = 0 → k ≤ 12 →
        ∃ t, exec (.tokenAvailable q .seq) s = .next t ∧ t.me.wait = none ∧ Acquired t ∧ tokCount t.me k = tokCount s.me k - n))
    ∧ (∀ e c, (engOf s.me e).cur = some c → c.aborting = none →
      (c.bodyDone = true → InBudget e (toCompletion s.me e) s s → exec (.tokenAvailable q (.eng e)) s = .next (endEng s e c.ctl))
      ∧ (c.bodyDone = false → c.popped = false → c.ctl.pop ≠ 0 → tokCount s.me c.ctl.pop.toNat ≠ 0 →
        ∃ t, exec (.tokenAvailable q (.eng e)) s = .next t ∧ (curOf t.me e).popped = true
          ∧ t.me.tok = s.me.tok.setIfInBounds c.ctl.pop.toNat (tokCount s.me c.ctl.pop.toNat - 1)))
    ∧ (∀ x, s.me.pend = [x] →
      (exposed s.me = true → s.me.clock < x.land → waitsApart s.me.wait = false → exec (.resultLands q .seq) s = .next s)
      ∧ ((exposed s.me = false ∨ x.land ≤ s.me.clock ∨ waitsApart s.me.wait = true) →
        ∃ t, exec (.resultLands q .seq) s = .next t ∧ t.me.pend = [] ∧ t.me.clock = Nat.max s.me.clock x.land
          ∧ t.me.tok = (if x.push = 0 then s.me.tok else s.me.tok.setIfInBounds x.push (tokCount s.me x.push + 1))
          ∧ (∀ r, x.dest = .g r → ∀ k, getG t.me k = if k = r ∧ r ≠ 0 then x.val else getG s.me k)))
    ∧ (∀ n, vecNext s.me = some n → exposedVec s.me = true → s.me.vec.clock < n → ∀ e, exec (.resultLands q (.eng e)) s = .next s)
    ∧ (∀ e n, (exposedVec s.me = false ∨ n ≤ s.me.vec.clock) → s.me.ppend = [] → s.me.rpend = [] →
      (∀ r b, s.me.vpend = [(r, n, b)] → s.me.vdue = [] → ∃ t, exec (.resultLands q (.eng e)) s = .next t
        ∧ t.me.vpend = [] ∧ t.me.v = s.me.v.setIfInBounds r b ∧ t.me.vec.clock = Nat.max s.me.vec.clock n)
      ∧ (∀ d, s.me.vpend = [] → s.me.vdue = [(n, d)] → ∃ t, exec (.resultLands q (.eng e)) s = .next t ∧ t.me.vdue = []
        ∧ t.me.vec.clock = Nat.max s.me.vec.clock n
        ∧ match d with
          | .push k => t.me.tok = s.me.tok.setIfInBounds k (tokCount s.me k + 1)
          | .flags f => t.me.fpflags = raiseInto s.me.fpflags f
          | .fifo v => t.me.vec.fifo = s.me.vec.fifo ++ [v]))
    ∧ (s.me.life = .running → 64 ≤ s.me.crossing → outstanding s.me = true → (∀ e, engStuck s.me e = true) →
      ∃ t, exec (.modeCrossingDeadlock q) s = .next t ∧ t.me.crossing = 0 ∧ ∀ e x, (engOf s.me e).cur = some x → t.me.held = true
        ∧ t.me.dueTrap.isSome = true ∧ ∀ y, (engOf t.me e).cur = some y → y.aborting.isSome = true)
    ∧ (∀ e c n base slot, (engOf s.me e).cur = some c → c.aborting = none → budget s c e = some n → n ≤ c.spent →
      QueueHasRoom s base slot → ∃ t, exec (.entryWatchdog q e) s = .next t ∧ Aborted base slot e .watchdog s t)

/-- R18, R22, R122, R124, R128: each wait of the sequencer ends with its condition: a barrier whose phase has changed, a ready tag, all tags ready, room in a
command queue, an element in a FIFO; the instruction completes then with the effects it has, a `run` with the registers of that moment (R126) and a trip count that they make no larger than its maximum (R127). -/
def Obligations.WaitsEnd : Prop :=
  ∀ (q : Place) (s : State), Waits s q →
    (∀ a va o, s.me.wait = some (.bar a va) → OwnScratch s va 8 o → PlainScratch s s.me o 8 →
      (barOf (scratchNat s o 8)).p ≠ (getG s.me a).toNat % 2 → readsPending s.me 65535 = false →
      ∃ t, exec (.barWaitReturn q) s = .next t ∧ WritesG s.me.ctl a (getG s.me a ^^^ 1) s.me t.me ∧ Acquired t ∧ Ended s.me.ctl 1 s.me t.me)
    ∧ (∀ a m, s.me.wait = some (.tagAny a m) → s.me.tagReady &&& m ≠ 0 → NonePending a s.me →
      ∃ t n, exec (.tagWaitReturn q) s = .next t ∧ IsLowest (s.me.tagReady &&& m) n ∧ GivesG s.me.ctl a (BitVec.ofNat 64 n) s.me t.me ∧ Acquired t
        ∧ Ended s.me.ctl 1 s.me t.me)
    ∧ (∀ m, s.me.wait = some (.tagAll m) → s.me.tagReady &&& m = m →
      ∃ t, exec (.tagWaitReturn q) s = .next t ∧ t.me.g = s.me.g ∧ Acquired t ∧ Ended s.me.ctl 1 s.me t.me)
    ∧ (∀ e g head lines loop, s.me.wait = some (.cmd e g head lines loop) → queueRoom s s.me e = true → qcwDepth (queueQcw s s.me e) ≠ 0 →
      tripsOk (settle s.me) g loop →
      ∃ t y, exec (.commandQueueRoom q) s = .next t
        ∧ RunEntry (settle s.me) g head lines (loop.map fun _ => (getG (settle s.me) (g + 3)).toNat) y
        ∧ queueOfEng t.me e = queueOfEng s.me e ++ [y] ∧ (∀ x ∈ t.me.stores, x.cls < 16 → ∃ j, x.vis = some j ∧ 1 ≤ j) ∧ Ended s.me.ctl 1 (settle s.me) t.me)
    ∧ (∀ e a v rest, s.me.wait = some (.fifo e (.g a)) → fifoOf s.me e = v :: rest → NonePending a s.me →
      ∃ t, exec (.fifoElementArrival q) s = .next t ∧ GivesG s.me.ctl a v s.me t.me ∧ fifoOf t.me e = rest ∧ Acquired t ∧ Ended s.me.ctl 1 s.me t.me)

/-- R241, R266, R267, R274, R278: the first card of the deck that matches the engine's window replaces the group by its instruction, with the meaning
that instruction has, once the blocks that it pops under a true guard are there: an element-wise one computes and delivers what `VecElementwise` says
of it alone, and only the engine's place in its entry then differs, at the entry's end with every result landed; where a check of it fails, the originals issue with no card applied. -/
def Obligations.GroupReplaces : Prop :=
  ∀ (q : Place) (e : Eng) (s : State) (g : Group') (r : Nat) (l : List (Block × Stream)), At s q → findGroup s e = some g → cardReps g.card = [r] →
    let w := buildRep s.me e g r
    let trial : State := { s with me := modCur s.me e (fun c =>
      { c with hand := some (repLine e [w.1]), slot := 0, left := 2, entry := withKs c.entry w.2 }) }
    let ctl := ctlOf (unpack ((g.seen.head?).elim 0 (·.word)))
    peekAll s.me [] (if groupGuard s.me e ctl then repPops s (decide (e = .mtx)) [w.1] else []) = .ready l →
    (∀ i t c, decodeOn (if e = .mtx then .mtx else .vec) w.1 = .ok i → repMeaning i trial = some (exec i trial) → exec i trial = .next t →
        (engOf s.me e).cur.isSome = true → (engOf t.me e).cur = some c → c.aborting = none → c.slot = 1 →
      ∃ u, exec (.rewriteGroupIssue q e) s = .next u ∧ OnlyMe t u ∧ u.me.fpflags &&& t.me.fpflags = t.me.fpflags ∧ u.me.g = t.me.g ∧ u.me.s = t.me.s)
    ∧ (∀ i c ty a f u vs, e = .vec → decodeOn .vec w.1 = .ok i → elementForm i = some (c, ty, a, f) → c.push = 0 → VecIssues c trial →
        VecRoom f c trial → Operands f.srcs (some (vtDeliver ty)) (immElem ty) (vtWidth ty) (vecStart f c trial) u vs →
      let n := vtWidth ty
      let at' (j k : Nat) := elementFn i u.me (ovfOf u.me .vec) (32 * j + n * k / 2) (vs.map fun x => x.at n j k)
      ∃ k b x, exec (.rewriteGroupIssue q e) s = .next x ∧ TileGoes a f.lat b u k
        ∧ Elements n (activeAt u.me c n) (oldBits u.me a) (fun j k => (at' j k).1) b
        ∧ Raised u.me k.me f.lat (fun p : Nat × Nat => p.1 < 16 ∧ p.2 < 64 / n ∧ activeAt u.me c n p.1 p.2 = true) (fun p => (at' p.1 p.2).2)
        ∧ OnlyMe (endEng (occupy k f.occ) .vec c) x ∧ x.me.vec.queue = s.me.vec.queue
        ∧ let t := (endEng (occupy k f.occ) .vec c).me
          (x.me = { t with vec := x.me.vec } ∨ x.me = { settleVec t with vec := x.me.vec }))
    ∧ (∀ x, decodeOn (if e = .mtx then .mtx else .vec) w.1 = .error x →
      ∃ u, exec (.rewriteGroupIssue q e) s = .next u ∧ OnlyMe s u ∧ u.me = modCur s.me e (fun c => { c with
          withheld := g.seen.length, card := none, behind := none }))

/-- R348 to R350: a contribution that the header admits is staged, its sectors marked and its bytes kept under its contributor; one that it does
not admit leaves the staging as it was; one of a contributor that is complete in the round waits for the next, whose header governs it (R354); the last of
a round writes the result and begins the next round with nothing staged; a packet of a peer can then be acknowledged (R352). -/
def Obligations.ZoneRounds : Prop :=
  ∀ (i k : Nat) (s : State) (z : Zone) (c : Contrib), contribAt s.zones i = some (z, k) → z.queue[k]? = some c → c.sender = none →
    let hd := zoneHeader s z
    (contribTrouble hd z.size c = none → (z.header = none ∨ contributorDone z hd c.contributor = false) →
      ∃ t y, exec (.zoneContribution i) s = .next t ∧ y ∈ t.zones ∧ y.tenant = z.tenant ∧ y.base = z.base ∧ y.queue = z.queue.eraseIdx k
        ∧ (roundDone (stageIn { z with queue := z.queue.eraseIdx k } hd c) hd = false →
            t = packetDone { s with zones := t.zones } c ∧ y.header = some hd
              ∧ (∀ j < c.bytes.length, stagedAt y c.contributor (c.off + j) 1 = (c.bytes.getD j 0).toNat)
              ∧ (∀ j < c.bytes.length, (c.contributor, (c.off + j) / 48) ∈ y.marks)
              ∧ (∀ d o, d ≠ c.contributor → stagedAt y d o 1 = stagedAt z d o 1))
        ∧ (roundDone (stageIn { z with queue := z.queue.eraseIdx k } hd c) hd = true →
            y.header = none ∧ y.staged = [] ∧ y.marks = [] ∧
              let z2 := stageIn { z with queue := z.queue.eraseIdx k } hd c
              t = packetDone (completeRound (putZone s z2) z2 hd) c))
    ∧ (∀ x, contribTrouble hd z.size c = some x → (z.header = none ∨ contributorDone z hd c.contributor = false) →
      ∃ t y, exec (.zoneContribution i) s = .next t ∧ y ∈ t.zones ∧ y.base = z.base ∧ y.staged = z.staged ∧ y.marks = z.marks
        ∧ y.queue = z.queue.eraseIdx k)
    ∧ (z.header.isSome = true → contributorDone z hd c.contributor = true → exec (.zoneContribution i) s = .next s)

/-- R113, R301, R352, R353: a remote store whose port carries it, none that comes before it outstanding, lies in the peer's memory and nowhere else; its acknowledgement lets it go; a flag is sent
once the stores before it are acknowledged, is applied as one 8-byte write where its sequence number is newer and discarded otherwise, and is let go
by its acknowledgement; a port that fails carries nothing, and works again at its recovery. -/
def Obligations.FabricMoves : Prop :=
  ∀ (i : Nat) (s : State),
    (∀ r, remoteAt s i = some r → r.sender = 0 → r.arrived = false → carries s r.tenant r.window r.port = true →
        remoteBehind s i r = false → (windowEntry s r.tenant r.window).zone = false →
      let a := peerAddr (windowEntry s r.tenant r.window) r.off
      ∃ t, exec (.remoteStoreArrival i) s = .next t ∧ remoteAt t i = some { r with arrived := true }
        ∧ memRead t.mem.peer a r.bytes.length = r.bytes ∧ (∀ k, (k < a ∨ a + r.bytes.length ≤ k) → memGet t.mem.peer k = memGet s.mem.peer k)
        ∧ t.mem.home = s.mem.home ∧ t.me = s.me)
    ∧ (∀ r, remoteAt s i = some r → r.arrived = true → ∃ t, exec (.remoteStoreAck i) s = .next t ∧ remoteAt t i = none ∧ t.mem = s.mem
        ∧ ∀ k, k ≠ i → remoteAt t k = remoteAt s k)
    ∧ (∀ f, flagAt s i = some f → f.sent = false → (∀ k ∈ f.after, remoteAt s k = none) → ∃ t y, exec (.releaseFlagSend i) s = .next t
        ∧ flagAt t i = some y ∧ y.sent = true ∧ y.seq = f.seq ∧ t.mem = s.mem)
    ∧ (∀ f, flagAt s i = some f → f.sender = 0 → f.sent = true → f.applied = false → carries s f.tenant f.window f.port = true →
      let x := windowEntry s f.tenant f.window
      let a := peerAddr x (x.size - 4096 + 8 * f.slot)
      let last := lastFlag s.fabric (65536 + x.peer) f.slot
      ∃ t y, exec (.releaseFlagApply i) s = .next t ∧ flagAt t i = some y ∧ y.applied = true ∧ t.mem.home = s.mem.home
        ∧ (if 1 ≤ (f.seq + 2 ^ 32 - last) % 2 ^ 32 ∧ (f.seq + 2 ^ 32 - last) % 2 ^ 32 < 2 ^ 31 then
             memNat t.mem.peer a 8 = Config.senderId.toNat % 65536 * 2 ^ 48 + f.seq % 2 ^ 32 ∧ lastFlag t.fabric (65536 + x.peer) f.slot = f.seq
           else t.mem = s.mem ∧ t.fabric.last = s.fabric.last))
    ∧ (∀ f, flagAt s i = some f → f.applied = true → ∃ t, exec (.releaseFlagAck i) s = .next t ∧ flagAt t i = none ∧ t.mem = s.mem)
    ∧ (i < 8 → ∃ t, exec (.linkFailure i) s = .next t ∧ t.fabric.portsDown.getLsbD i = true ∧ t.mem = s.mem ∧ t.me = s.me)
    ∧ (i < 8 → portOut s i = false → ∃ t, exec (.linkRecovery i) s = .next t ∧ t.fabric.portsDown.getLsbD i = false ∧ t.mem = s.mem
        ∧ ∀ k, k ≠ i → t.fabric.portsDown.getLsbD k = s.fabric.portsDown.getLsbD k)
namespace Sys2Proof.Claim
open Sys2Proof.Machine

/-! ### The tier manager, the scheduler, gangs -/

/-- The pending hand-over of the body on the unit in focus, which stands stopped with its record written. -/
def Stopped (s : State) (u : Nat) (b : Body) (h : Handover) : Prop :=
  OnUnit s u ∧ s.nd.body = some b ∧ b.state = .climbed ∧ handoverOf s b.kick.id = some h ∧ h.kick = b.kick.id ∧ h.tierM = s.nd.tierM
    ∧ h.unit = s.nd.unit
/-- A hand-over that fails before its flip (R308, R320): no request stands, and the body goes on from its climb point; where its pick was lost it
waits for the repair instead, off its unit. -/
def FailsOver (s t : State) (b : Body) (h : Handover) : Prop :=
  handoverOf t b.kick.id = none ∧ (h.marked = [] → t.mem = s.mem) ∧
  if h.lost then t.nd.body = none ∧ ∃ p, (b, Away.repair p) ∈ t.away
  else t.nd.body = some { b with state := .running, phase := 1, wordStart := b.regs, wordFlags := b.kick.flags } ∧ t.away = s.away

/-- An entry is the next one due of a launch's schedules (R322): its lead has passed, no entry of its tensor stands before it, and of the entries
before it none that is the first of its tensor is due. -/
def NextDue (now : Nat) (l : Launch) (x : SchedEnt) : Prop :=
  ∃ before after, l.sched = before ++ x :: after ∧ l.startTick + x.lead ≤ now ∧ (∀ y ∈ before, y.tmap ≠ x.tmap)
    ∧ ∀ (i : Nat) y, before[i]? = some y → (∀ j < i, ∀ z, before[j]? = some z → z.tmap ≠ y.tmap) → now < l.startTick + y.lead

/-- No tile of a range of picks has a seal that is stalled (R330). -/
def NoStall (s : State) (m : TMap) (first count : Nat) : Prop :=
  ∀ p, first ≤ p → p < first + count → ∀ T ∈ pickTiles s m p, T ∉ s.mem.stalled

/-- A gang was asked to stop at its safe points (R398), for good or not. -/
def Asked (g : Gang) (stop : Bool) (t : State) : Prop :=
  ∃ x ∈ t.loom.gangs, x.team = g.team ∧ x.state = .stopping ∧ x.stop = (g.stop || stop) ∧ x.places = g.places

/-- A team of a launch has started (R7, R33, R396): its gang runs at the places chosen, and every shuttle there at the head of the kernel's
SEQ chain. -/
def TeamStarted (s t : State) (l : Launch) : Prop :=
  ∃ g ∈ t.loom.gangs, g.team = s.loom.nextTeam ∧ g.launch = l.id ∧ g.index = l.nextTeam ∧ g.state = .running ∧ t.loom.nextTeam = s.loom.nextTeam + 1
    ∧ ∀ p ∈ g.places ++ g.places1, (shuttleAt t p).life = .running ∧ (shuttleAt t p).team = g.team ∧ (shuttleAt t p).launch = l.id
        ∧ (shuttleAt t p).pc = codeAddr l.kern.seqHead 0 ∧ (shuttleAt t p).priv = l.priv ∧ ∀ r, getG (shuttleAt t p) r = 0

/-- What a save leaves (R398, R400, R401): each shuttle's landed state kept, and, unless the gang has not issued since it was resumed (R399), its
block, its KEEP regions and images and then the header written, a launch that is stopped for good with STATE 2. -/
def SavedAs (s t : State) (g : Gang) (l : Launch) (x : Gang) (state : Nat) : Prop :=
  let d := drainGang s g
  let idle := g.resumed && (g.places ++ g.places1).all fun p => !(shuttleAt d p).issued
  x.saved = g.places.map (saveShuttle d)
  ∧ (idle = true → t.mem = (if state = 2 then writeState d l 2 else d).mem)
  ∧ (idle = false → t.mem = (writeHeader (((List.range g.places.length).zip g.places).foldl (fun st y => writeShuttle st l 0 y.2 y.1) d) l 0 state).mem)

/-- A shuttle's block holds its state (R400, R401): pc, mode, g, b, p, FPFLAGS, SHAPE, tokens, TAGREADY and the TRAP registers. -/
def BlockHolds (bs : List Byte) (h : Shuttle) : Prop :=
  partWord bs 0 = h.pc ∧ decide (partNat bs 8 1 % 2 = 1) = h.priv ∧ (∀ r (_ : r < 32), partWord bs (64 + 8 * r) = h.g[r])
  ∧ (∀ r (_ : r < 4), partWord bs (320 + 8 * r) = h.b[r].addr) ∧ partNat bs 368 8 = (h.p &&& 0xFFFE).toNat ∧ partWord bs 352 = h.fpflags
  ∧ partNat bs 360 4 = h.rows % 2 ^ 32 ∧ partNat bs 364 4 = h.cols % 2 ^ 32 ∧ (∀ k, 1 ≤ k → k ≤ 12 → partNat bs (375 + k) 1 = tokCount h k)
  ∧ partWord bs 392 = h.tagReady ∧ partWord bs 408 = h.trapPc ∧ partWord bs 416 = h.trapCode ∧ partWord bs 424 = h.trapVa ∧ partWord bs 432 = h.trapVec

/-- A shuttle runs again at a place, with what its block holds, read in a state that differs from `s` in no memory and in no context but for the
overflow table that a block also restores (R399, R402, R408). -/
def RunsAgain (s t : State) (l : Launch) (v : SavedShuttle) (p : Place) : Prop :=
  ∃ st : State, st.mem = s.mem ∧ (∀ n, { ctxOf st n with ovf := 0 } = { ctxOf s n with ovf := 0 })
    ∧ let h := shuttleAt t p
      h = resumed st l v p ∧ h.place = p ∧ h.ordinal = v.shuttle.ordinal ∧ (v.shuttle.life ≠ .exited → h.life = .running)
      ∧ ∀ a bs, savedBlock st l 0 v = some (a, bs) →
        h.pc = partWord bs 0 ∧ h.priv = decide (partNat bs 8 1 % 2 = 1) ∧ getG h 0 = 0 ∧ (∀ r : BitVec 5, r ≠ 0 → getG h r = partWord bs (64 + 8 * r.toNat))
        ∧ h.p = BitVec.ofNat 16 (partNat bs 368 8) &&& 0xFFFE ∧ h.fpflags = partWord bs 352 ∧ h.rows = partNat bs 360 4 ∧ h.cols = partNat bs 364 4
        ∧ (∀ k, 1 ≤ k → k ≤ 12 → tokCount h k = Nat.min 15 (partNat bs (375 + k) 1)) ∧ h.tagReady = partWord bs 392
        ∧ h.trapPc = partWord bs 408 ∧ h.trapCode = partWord bs 416 ∧ h.trapVa = partWord bs 424 ∧ h.trapVec = partWord bs 432

/-- A shuttle of a pair rolled back (R406): it runs with the registers, the predicates and the pc of its checkpoint, its held writes gone, the values
that its atomics were given since then logged for its second run, and its next compare not yet passed. -/
def RolledBack (s t : State) (l : Launch) (third : Nat) (c : SavedShuttle) (p : Place) : Prop :=
  ∃ st : State, st.mem = s.mem ∧ (∀ n, { ctxOf st n with ovf := 0 } = { ctxOf s n with ovf := 0 })
    ∧ let h := shuttleAt t p
      let v := readShuttle st l third c p
      h.g = v.g ∧ h.p = v.p ∧ h.pc = v.pc ∧ h.b = v.b ∧ h.tok = v.tok ∧ h.vp = v.vp ∧ h.v = v.v ∧ h.s = v.s ∧ h.copies = v.copies
      ∧ h.life = .running ∧ h.retried = true ∧ h.holdBuf = [] ∧ h.replay = (shuttleAt s p).atomLog ∧ h.compareDue = false ∧ h.fresh = false

/-- The launch and the state a gang is saved under, and the shuttles of its places quiet (R398). -/
def SaveReady (s : State) (g : Gang) (l : Launch) (stop : Bool) : Prop :=
  gangOf s g.team = some g ∧ g.fromRecord = false ∧ launchOf s g.launch = some l ∧ g.state = .stopping ∧ g.stop = stop
    ∧ ∀ p ∈ g.places ++ g.places1, shuttleQuiet s (shuttleAt s p) = true

end Sys2Proof.Claim
open Sys2Proof Sys2Proof.Machine Sys2Proof.Claim

/-- R306 to R308, R318 to R322, R326, R327: a promotion whose pick is ready and whose tiles fill adds a copy of the pick, moves its heddle where no body
holds it, and counts as done; a schedule entry that is the next of its tensor asks for its promotion once its lead has passed; a written record is accepted at tier M where
a unit has room and the body starts there again, at tier C as a team of one shuttle after the climb point, with the record's fields in its g registers;
a hand-over that is stale or out of time fails; a repair starts the bodies that wait for it. That a body which passed no climb point starts afresh, at a
near-data tier that holds its pick, is the model's choice (log entry 55). -/
def Obligations.TierManagerActs : Prop :=
  ∀ (s : State),
    (∀ i x m e s1 e1 s2 bytes stream, s.promos[i]? = some x → x.done = false → tmapOf s x.tenant x.tmap = some m →
      tierEnt s m x.pick = some e → Tier.state e = 0 → (x.target = 2 → Tier.copy e 1 = true ∨ Tier.copy e 2 = true) →
      fillTiles s x.tenant (Tier.copy e 1 || x.target = 2) (pickTiles s m x.pick) = (s1, true) → tierEnt s1 m x.pick = some e1 →
      Tier.state e1 = 0 → chargePromo s1 m x (Tier.copy e 1) (pickTiles s m x.pick) = some (s2, bytes, stream) →
      pickHeld s2 x.tenant x.tmap x.pick = false →
      ∃ t y, exec (.promotionComplete i) s = .next t
        ∧ t.mem = (putTierHome s2 m x.pick (Tier.moved (Tier.withCopy e1 x.target true) (Nat.max (Tier.res e1) x.target) x.target 0)).mem
        ∧ t.promos[i]? = some y ∧ y.done = true ∧ y.pick = x.pick ∧ y.fromRes = Tier.res e ∧ y.fromHed = Tier.hed e)
    ∧ (∀ n l x m e, launchOf s n = some l → NextDue (tstampOf s) l x →
      (s.promos.filter fun p => p.tenant = l.tenant && !p.done).length < 8 → tmapOf s l.tenant x.tmap = some m → tierEnt s m x.pick = some e →
      Tier.state e = 0 → Tier.hed e < x.target → x.flag = false →
      ∃ t p k, exec (.scheduleEntryDue n) s = .next t ∧ t.promos = s.promos ++ [p] ∧ p.tenant = l.tenant ∧ p.tmap = x.tmap ∧ p.pick = x.pick
        ∧ p.target = x.target ∧ p.launch = n ∧ p.done = false ∧ launchOf t n = some k
        ∧ k.sched = l.sched.erase x ∧ t.mem = s.mem)
    ∧ (∀ u b h m r e, Stopped s u b h → tmapOf s b.kick.tenant b.kick.desc.tmap = some m → readRecord s b.kick = some r →
      tierEnt s m r.pickFirst = some e → Tier.seq e = r.seq → r.kobj = b.kick.kobj → NoStall s m r.pickFirst r.pickCount →
      (∀ w s1, h.target = 1 → climbWord s b.kick true r.cpid = some w →
        chargeAccept s b.kick m 1 ((List.range r.pickCount).map (· + r.pickFirst)) = some s1 →
        climbWord s1 b.kick true r.cpid = some w → (ndOf s1 true (homeUnit s1 b.kick true r.pickFirst)).queue.length < 64 →
        ∃ t, exec (.handoverAccept u) s = .next t ∧ handoverOf t b.kick.id = none
          ∧ { b.kick with start := some (recordRegs b.kick r w), ran := b.kick.ran + b.spent } ∈ t.nd.queue ∧ t.nd.tierM = true)
      ∧ (∀ a s1 l p, h.target = 2 → (kickKernel s b.kick).bind (fun x => afterClimbpt s b.kick.tenant x.1 r.cpid) = some a →
        chargeAccept s b.kick m 2 ((List.range r.pickCount).map (· + r.pickFirst)) = some s1 → recordLaunch s1 b.kick = some l →
        placeRecord s1 l = some p →
        ∃ t, exec (.handoverAccept u) s = .next t ∧ handoverOf t b.kick.id = none ∧ (b, Away.tileC s1.loom.nextTeam) ∈ t.away
          ∧ (shuttleAt t p).life = .running ∧ (shuttleAt t p).pc = a ∧ getG (shuttleAt t p) 1 = BitVec.ofNat 64 b.kick.crecVa
          ∧ getG (shuttleAt t p) 2 = BitVec.ofNat 64 r.pickFirst ∧ getG (shuttleAt t p) 3 = BitVec.ofNat 64 r.pickCount))
    ∧ (∀ u b h m r e, Stopped s u b h → tmapOf s b.kick.tenant b.kick.desc.tmap = some m → readRecord s b.kick = some r →
      tierEnt s m r.pickFirst = some e → Tier.seq e ≠ r.seq → ∃ t, exec (.handoverAccept u) s = .next t ∧ FailsOver s t b h)
    ∧ (∀ u b h, Stopped s u b h → h.since + (if h.target = 2 then 4000 else 30000) ≤ tstampOf s →
      ∃ t, exec (.handoverAcceptTimeout u) s = .next t ∧ FailsOver s t b h)
    ∧ (∀ tenant tmap pick m e b r w, tmapOf s tenant tmap = some m → tierEnt s m pick = some e → Tier.state e = 0 →
      s.away = [(b, .repair pick)] → b.kick.tenant = tenant → b.kick.desc.tmap = tmap →
      let tm := decide (Tier.hed e = 1)
      (b.climbAt ≠ none → Tier.hed e ≤ 1 → readRecord s b.kick = some r → climbWord s b.kick tm r.cpid = some w →
        (ndOf s tm (homeUnit s b.kick tm r.pickFirst)).queue.length < 64 →
        ∃ t, exec (.repairObserved tenant tmap pick) s = .next t ∧ t.away = [] ∧ t.nd.tierM = tm
          ∧ { b.kick with start := some (recordRegs b.kick r w), ran := b.kick.ran + b.spent } ∈ t.nd.queue ∧ t.mem = s.mem)
      ∧ (let m0 := decide (Tier.hed e = 1 ∨ Tier.hed e = 2 ∧ Tier.copy e 1 = true)
        b.climbAt = none → (ndOf s m0 (homeUnit s b.kick m0 b.kick.desc.pickFirst)).queue.length < 64 →
        ∃ t, exec (.repairObserved tenant tmap pick) s = .next t ∧ t.away = [] ∧ t.nd.tierM = m0
          ∧ { b.kick with start := some {}, ran := b.kick.ran + b.spent } ∈ t.nd.queue ∧ t.mem = s.mem))

/-- R324, R387, R391 to R395: a doorbell whose value lies from TAIL to HEAD + DEPTH becomes TAIL, and another writes a BOUNDS record; an eligible head that
passes its checks becomes a launch, and one that fails them is consumed with a record; a head whose counters have reached their thresholds is eligible
from then on, and one that has waited for its band's threshold is served a band up. That a head fails at once, with no wait for its launch's turn, and that
the threshold is that of the band in which the head is served at the time, are the model's choices (log entries 29 and 30). -/
def Obligations.QueuesAdmit : Prop :=
  ∀ (fn q : Nat) (s : State) (x : LQueue), queueOf s fn q = some x → x.fn = fn → x.q = q →
    (∀ (v : Word) d h t0, fnStopped s fn = false → q < 64 → queueHeader s x = some (d, h, t0) →
      let new := v.toNat % 2 ^ 32
      let ok := (t0 + 2 ^ 32 - h) % 2 ^ 32 ≤ (new + 2 ^ 32 - h) % 2 ^ 32 ∧ (new + 2 ^ 32 - h) % 2 ^ 32 ≤ d
      (ok → ∃ t, exec (.doorbellWrite fn q v) s = .next t ∧ t.mem = (fnPut s fn (x.base + 8) 4 new).mem ∧ t.me = (fnPut s fn (x.base + 8) 4 new).me)
      ∧ (¬ ok → ∃ t, exec (.doorbellWrite fn q v) s = .next t
          ∧ t = (postRec s (decide (fn = 0)) (fn - 1) { code := .bounds, eng := 7, tenant := fn - 1, obj := 0xFFFF,
                                                        aux := q % 64 * 2 ^ 32 + new % 2 ^ 32 }).1))
    ∧ (∀ r ix, headLaunch s fn q = none → headRecord s x = some (r, ix) →
      (∀ l s1, q < 64 → r.band = q / 16 → makeLaunch s fn q ix false r = some l → x.eligible = true → chargeReservation s l = some s1 →
        ∃ t, exec (.launchAdmit fn q) s = .next t ∧ t.loom.launches = s.loom.launches ++ [l] ∧ t.loom.firstAdmitted = true
          ∧ t.mem = (consumeHead s1 x).mem)
      ∧ (q < 64 → (r.band ≠ q / 16 ∨ makeLaunch s fn q ix false r = none) →
        ∃ t, exec (.launchAdmit fn q) s = .next t ∧ t.loom.launches = s.loom.launches ∧ t = loomRecord (consumeHead s x) fn r.kobj (queueAux q ix))
      ∧ (∀ tenant band l s1, fn = tenant + 1 → q = 64 + band → makeLaunch s fn q ix true r = some l → x.eligible = true →
          chargeReservation s l = some s1 →
        ∃ t, exec (.taskAdmit tenant band) s = .next t ∧ t.loom.launches = s.loom.launches ++ [l] ∧ t.ctxs = (consumeHead s1 x).ctxs)
      ∧ (x.eligible = false → depsMet s r.tenant r.deps = true →
        ∃ t, exec (.dependenceRecheck fn q) s = .next t ∧ queueOf t fn q = some { x with eligible := true, since := tstampOf s, aged := 0 })
      ∧ (x.eligible = false → depsMet s r.tenant r.deps = false → exec (.dependenceRecheck fn q) s = .next s))
    ∧ (∀ n, ageLimit s (servedBand x) = some n → x.eligible = true → x.since + n ≤ tstampOf s →
      ∃ t, exec (.headAging fn q) s = .next t ∧ queueOf t fn q = some { x with aged := x.aged + 1, since := tstampOf s })

/-- R13, R306, R324, R394, R396, R397: the highest band in which anything waits is served: an RT head by the earliest deadline, another band's queue
once its deficit covers the team's tiles; an RT head without room has the victims chosen asked to stop and their tiles held; a launch whose every
part has ended leaves, with its completion counter raised by its increment. -/
def Obligations.TeamsPlaced : Prop :=
  ∀ (s : State),
    (∀ x l u, servedNow s = some 0 → gangWaits s 0 = false → earliestHead (bandHeads s 0) = some (x, l) → startTeam s l 0 = some u →
      ∃ t, exec .teamPlace s = .next t ∧ t = u ∧ TeamStarted s t l)
    ∧ (∀ band x l u, servedNow s = some band → band ≠ 0 → gangWaits s band = false →
      roundFrom (bandRound s band) ((s.loom.visit.find? fun v => v.1 = band).map (·.2)) = [x] → headLaunch s x.fn x.q = some l →
      let d := x.deficit + queueWeight s x
      let s2 := modLoom (modQueue s x.fn x.q (fun y => { y with deficit := d })) (fun m => { m with
        visit := (band, x.fn, x.q) :: m.visit.filter fun v => v.1 ≠ band })
      teamTiles l.levels ≤ d → startTeam s2 l band = some u →
      ∃ t, exec .teamPlace s = .next t ∧ TeamStarted s2 t l ∧ ∀ y, queueOf t x.fn x.q = some y → y.deficit = d - teamTiles l.levels)
    ∧ (∀ x l g c, earliestHead (bandHeads s 0) = some (x, l) → s.loom.holds.any (fun h => h.2 = l.id) = false →
      chooseVictims s l = some (g :: c) →
      ∃ t, exec .rtPreempt s = .next t ∧ (∀ y ∈ g :: c, Asked y false t)
        ∧ ∀ y ∈ g :: c, ∀ p ∈ y.places, (p.tile, l.id) ∈ t.loom.holds)
    ∧ (∀ n l, launchOf s n = some l → launchDone s l = true →
      ∃ t, exec (.completionIncrement n) s = .next t ∧ launchOf t n = none
        ∧ (∀ e, l.deadline = 0 → let s1 := returnReservation (restorePromos s l) l
            counterObj s1 l.tenant l.compl = some e →
            t.mem = (devicePut s1 7 l.tenant (Obj.base e) (bytesOf 8 (((homeNat s1 l.tenant (Obj.base e) 8).getD 0 + l.incr) % 2 ^ 64)) false .atomic).mem))

/-- R398 to R404: a request asks a running gang to stop; a gang whose shuttles have all stopped and drained is saved, or stopped for good: each
shuttle is kept with its landed state, its block is written at R401's offsets unless the gang has not issued since it was resumed, and the tiles are
left; the saved gang whose turn it is runs again at the places found for it, each shuttle with what its block holds. The layout inside a block is the
model's choice where R401 gives none (log entry 33). -/
def Obligations.GangsStopAndResume : Prop :=
  ∀ (s : State) (g : Gang),
    (gangOf s g.team = some g → g.state = .running → ∃ t, exec (.preemptRequest g.team) s = .next t ∧ Asked g false t ∧ t.mem = s.mem)
    ∧ (∀ l, SaveReady s g l false → ∃ t x, exec (.gangDrainSave g.team) s = .next t ∧ x ∈ t.loom.gangs ∧ x.team = g.team ∧ x.state = .saved
        ∧ x.places = [] ∧ x.places1 = [] ∧ SavedAs s t g l x 1)
    ∧ (∀ l, SaveReady s g l true → ∃ t x, exec (.gangStop g.team) s = .next t ∧ x ∈ t.loom.gangs ∧ x.team = g.team ∧ x.state = .stopped
        ∧ x.places = [] ∧ x.places1 = [] ∧ SavedAs s t g l x 2 ∧ ∀ k ∈ t.loom.launches, k.id = l.id → k.stopped = true)
    ∧ (∀ (st : State) (h : Shuttle) (v : SavedShuttle) (x : Tile) (bs : List Byte), (∀ k, tokCount h k < 256) → bs.length = 7680 →
      (∀ y ∈ fixedParts st h v x, (bs.drop y.1).take y.2.length = y.2) → BlockHolds bs h)
    ∧ (∀ l a b, gangOf s g.team = some g → launchOf s g.launch = some l → g.fromRecord = false → gangTurn s g = true →
      placeSides s { fitOf l [] with launch := g.launch } (savedGroups s l g) g.domain g.nTiles l.paired = some (a, b) →
      ∃ t x, exec (.gangResume g.team) s = .next t ∧ x ∈ t.loom.gangs ∧ x.team = g.team ∧ x.state = .running ∧ x.places = placesOf a
        ∧ x.places1 = placesOf b ∧ x.saved = [] ∧ t.mem = s.mem
        ∧ (b = [] → (placesOf a).Nodup → ∀ (i : Nat) p v, (placesOf a)[i]? = some p → g.saved[i]? = some v → RunsAgain s t l v p))

/-- R406, R407: of two sides that agree at a safe point side 0 performs its held writes, side 1 discards its own, and both write their checkpoints
into their thirds; two that differ run again with the registers and the pc of their checkpoints and their logged values; two that differ again post one
MISMATCH record and halt, and their gang is stopped for good. How an address stands in what the digest covers is the model's choice, and the hash is
the one FIPS 202 names SHAKE256 (log entry 34); the compare of a `bar.wait`, `waitany` or `waitall` comes when the wait completes, which every one of a
paired shuttle does as a stalled one (log entry 126). -/
def Obligations.PairsCompare : Prop :=
  ∀ (s : State) (q p0 p1 : Place) (g : Gang) (l : Launch), gangOf s (shuttleAt s q).team = some g → launchOf s g.launch = some l → g ∈ s.loom.gangs →
    (∀ x ∈ s.loom.gangs, x.team = g.team → x = g) → p0 ≠ p1 →
    g.places[(shuttleAt s q).ordinal]? = some p0 → g.places1[(shuttleAt s q).ordinal]? = some p1 →
    (shuttleAt s p0).compareDue = true → (shuttleAt s p1).compareDue = true → entriesDone (shuttleAt s p0) = true → entriesDone (shuttleAt s p1) = true →
    let n := (shuttleAt s q).ordinal
    (sidesAgree g (shuttleAt s p0) (shuttleAt s p1) = true → ∃ t u x, exec (.pairedCompare q) s = .next t
      ∧ (∀ p, p = p0 ∨ p = p1 → (shuttleAt t p).holdBuf = [] ∧ (shuttleAt t p).compareDue = false ∧ (shuttleAt t p).compareOk = true
          ∧ (shuttleAt t p).atomLog = [])
      ∧ u.mem = (performHeld (focus s p0)).mem
      ∧ t.mem = (writeHeader (checkpoint (writeHeader (checkpoint u l g.team 1 p0 n) l 1 1) l g.team 2 p1 n) l 2 1).mem
      ∧ x ∈ t.loom.gangs ∧ x.team = g.team ∧ (checkOf x 1 n).isSome ∧ (checkOf x 2 n).isSome)
    ∧ (∀ c0 c1, sidesAgree g (shuttleAt s p0) (shuttleAt s p1) = false → (shuttleAt s p0).retried = false →
        checkOf g 1 n = some c0 → checkOf g 2 n = some c1 →
        ∃ t, exec (.pairedCompare q) s = .next t ∧ t.mem = s.mem ∧ RolledBack s t l 1 c0 p0 ∧ RolledBack s t l 2 c1 p1)
    ∧ (sidesAgree g (shuttleAt s p0) (shuttleAt s p1) = false → (shuttleAt s p0).retried = true → g.state = .running →
        ∃ t, exec (.pairedCompare q) s = .next t ∧ Asked g true t
          ∧ (∀ p, p = p0 ∨ p = p1 → (shuttleAt t p).life = .halted ∧ (shuttleAt t p).holdBuf = [] ∧ (shuttleAt t p).compareDue = false)
          ∧ ∀ base slot, QueueHasRoom (focus s p0) base slot → RecordWritten base slot { trapRecord (focus s p0) .mismatch 0 with codepos := 0 } s t)
namespace Sys2Proof.Claim
open Sys2Proof.Machine

/-! ### The host and the management function -/

/-- One request of a code stands in the ring, the last one written, its reserved bytes 0 (R411); its reading leaves `u`, which differs from `s`
in the caches alone, and no copy holds a buffer to be sealed first (R367). -/
def Request (code : Nat) (s u : State) (r : List Byte) : Prop :=
  curReq s = some r ∧ (r.headD 0).toNat = code ∧ zeroBytes r 2 8 = true ∧ (s.module.reqHead + 1) % 2 ^ 32 = s.module.reqTail
    ∧ (∃ bs, devRead s 0 true (reqAddr s) 64 {} = (u, bs, false)) ∧ u = { s with mem := u.mem } ∧ u.mem.home = s.mem.home
    ∧ ∀ h ∈ allShuttles s, ∀ c ∈ h.copies, c.buffered = []
/-- Its operands from byte 8 are these, and every byte after them is 0. -/
def Operands0 (r : List Byte) (l : List Nat) : Prop :=
  (∀ i < l.length, operand r (i + 1) = l.getD i 0) ∧ zeroBytes r (8 + 8 * l.length) 64 = true
/-- The request has completed with a status, and REQHEAD stands past it (R411). -/
def Done (s t : State) (status : Nat) : Prop :=
  t.module.reqHead = s.module.reqTail ∧ memNat t.mem.home (reqAddr s + 1) 1 = status ∧ t.me = s.me
/-- Bytes clear of the status byte of the request at REQHEAD. -/
def Clear (s : State) (a n : Nat) : Prop := a + n ≤ reqAddr s + 1 ∨ reqAddr s + 2 ≤ a
/-- A reply to the host: how a read ended, and its bytes (R229, R302). -/
def Replied (t : State) (status : Nat) (bs : List Byte) : Prop := t.module.hostStatus = status ∧ t.module.hostReply = bs

end Sys2Proof.Claim
open Sys2Proof Sys2Proof.Machine Sys2Proof.Claim

/-- R228, R229, R302, R365, R375, R403, R410, R412, R414: waiting records are written in order as there is room; a PRG Response frees its request, a Success makes
the page present; an invalidation drops the page once nothing uses it; an aperture read gives the weight as BF16; an aperture write is dropped with
CODEDWRITE; a host read gives the bytes at their homes and a host write puts them there; the registers take what they take. That a Success makes the
page present is the model's reading (log entry 58), and the reply's status numbers are the model's own (log entry 59). -/
def Obligations.HostActs : Prop :=
  ∀ (s : State),
    (∀ fn r base slot, let m := decide (fn = 0)
      fqBase s m (fn - 1) = some base → fqSlot s m (fn - 1) base = some slot → fqWaiting s m (fn - 1) = [r] → fqRoom s base = true →
      buffersTile s base = false → buffersTile s slot = false → (slot + 64 ≤ base + 4 ∨ base + 8 ≤ slot) →
      ∃ t, exec (.faultQueueRoom fn) s = .next t ∧ fqWaiting t m (fn - 1) = [] ∧ RecordWritten base slot r s t)
    ∧ (∀ fn ix q, (ctxOf s (fn - 1)).prq.find? (fun q => q.sent && decide (q.idx = ix)) = some q →
      (∃ t, exec (.prgResponse fn ix true) s = .next t ∧ (q.addr / 4096, true, (q.write || ((ctxOf s (fn - 1)).hostPages.any fun x =>
          decide (x.1 = q.addr / 4096) && x.2.2))) ∈ (ctxOf t (fn - 1)).hostPages ∧ t.mem = s.mem ∧ t.me = s.me)
      ∧ (∃ t, exec (.prgResponse fn ix false) s = .next t ∧ (ctxOf t (fn - 1)).hostPages = (ctxOf s (fn - 1)).hostPages ∧ t.mem = s.mem))
    ∧ (∀ fn page, (∀ h ∈ allShuttles s, h.tenant = fn - 1 → usesHostPage h page = false) →
      ∃ t, exec (.atsInvalidation fn page) s = .next t ∧ (∀ x ∈ (ctxOf t (fn - 1)).atc, x.1 ≠ page)
        ∧ (∀ x ∈ (ctxOf s (fn - 1)).atc, x.1 ≠ page → x ∈ (ctxOf t (fn - 1)).atc) ∧ t.mem = s.mem)
    ∧ (∀ fn off len e u v bs bad, fn ≠ 0 → fnStopped s fn = false → let a := apertureOff s fn off
      objEntry s (fn - 1) (bitsOf a 63 48) = (u, some e) → Obj.usable e = true → useOk e .streamTw = true → len = 2 → a % 2 = 0 →
      apertureWeight u { tenant := fn - 1, shuttle := false, coded := true } e (bitsOf a 47 10) (bitsOf a 9 1) = (v, .ok (bs, bad)) →
      ∃ t, exec (.apertureRead fn off len) s = .next t ∧ Replied t (if bad then 2 else 0) bs ∧ t.mem = v.mem)
    ∧ (∀ fn off u e, fn ≠ 0 → fnStopped s fn = false → objEntry s (fn - 1) (bitsOf (apertureOff s fn off) 63 48) = (u, e) →
      exec (.apertureWrite fn off) s = .next (postRec u false (fn - 1)
        { code := .codedwrite, eng := 5, tenant := fn - 1, obj := bitsOf (apertureOff s fn off) 63 48, va := apertureOff s fn off,
          aux := e.elim 0 Obj.rowlen }).1)
    ∧ (∀ fn va n op, fnStopped s fn = true → exec (.hostBarAccess fn va op) s = .next (reply s 3 [])
        ∧ (fn ≠ 0 → exec (.apertureRead fn va n) s = .next (reply s 3 [])))
    ∧ (∀ fn va n u l pol v bs bad, fnStopped s fn = false → let q : Asker := { tenant := fn - 1, shuttle := false, own := decide (fn = 0) }
      barPieces s fn q .load va n = (u, .ok [(l, pol, n)]) → readAt u { q with home := true } l pol n = (v, bs, bad) →
      ∃ t, exec (.hostBarAccess fn va (.read n)) s = .next t ∧ Replied t (if bad then 2 else 0) bs ∧ t.mem = v.mem ∧ t.me = v.me)
    ∧ (∀ fn va bs u l pol, fnStopped s fn = false → let q : Asker := { tenant := fn - 1, shuttle := false, own := decide (fn = 0) }
      barPieces s fn q .store va bs.length = (u, .ok [(l, pol, bs.length)]) →
      exec (.hostBarAccess fn va (.write bs)) s = .next (writeAt u q l pol bs false))
    ∧ (s.module.presented = true →
      (∀ v, s.loom.firstAdmitted = false → ∃ t, exec (.acceptWrite v) s = .next t ∧ t.module.accept = v.setWidth 4 &&& s.module.features ∧ t.mem = s.mem)
      ∧ (∀ v, s.loom.firstAdmitted = true → exec (.acceptWrite v) s = .next s)
      ∧ (∀ v, ∃ t, exec (.registerWrite .mgmtfq v) s = .next t ∧ t.module.mgmtFq = v)
      ∧ (∀ v, ∃ t, exec (.registerWrite .reqbase v) s = .next t ∧ t.module.reqBase = v)
      ∧ (∀ v : Word, ∃ t, exec (.registerWrite .reqtail v) s = .next t ∧ t.module.reqTail = v.toNat % 2 ^ 32)
      ∧ (∀ (v : Word) fn, fn ≠ 0 → fn ≤ 256 → fnStopped s fn = false →
          ∃ t, exec (.registerWrite (.apwin fn) v) s = .next t ∧ (ctxOf t (fn - 1)).apwin = v.toNat % 2 ^ 24)
      ∧ (∀ (v : Word) fn, fnStopped s fn = true → exec (.registerWrite (.apwin fn) v) s = .next s))
    ∧ (∀ fn run, fn ≠ 0 → fn ≤ 256 → ∃ t, exec (.tdispStateChange fn run) s = .next t ∧ (ctxOf t (fn - 1)).tdispRun = run ∧ t.mem = s.mem ∧ t.me = s.me)

/-- R284, R323, R332, R377, R379, R386, R392, R395, R411, R413, R418: the requests that set something up: each, in range and naming what exists, completes
with status 0 and with its change made: a microcode slot loaded or freed, seal tiles assigned, a generation armed or rolled to, a quota read or written, a
queue or the aging thresholds set, the stock deck copied, a fabric window written, a report produced; a request to arm waits while OLD exists,
which is the model's reading (log entry 57). -/
def Obligations.RequestsConfigure : Prop :=
  ∀ (s u : State) (r : List Byte),
    (∀ kobj ten slot l, Request 1 s u r → Operands0 r [kobj, ten, slot] → kobj < 65536 → ten < 256 → slot < 256 →
      (s.module.loading = some l ∨ (s.module.loading = none ∧ loadBodies u ten kobj slot = some l)) → tablesHold s slot l = true →
      (slotBusy s slot = false →
        ∃ t, exec .loadMicrocodeSlot s = .next t ∧ Done s t 0 ∧ t.slots = l ++ s.slots.filter (fun x => x.slot ≠ slot) ∧ t.module.loading = none)
      ∧ (slotBusy s slot = true →
        ∃ t, exec .loadMicrocodeSlot s = .next t ∧ t.module.loading = some l ∧ t.module.reqHead = s.module.reqHead ∧ t.mem = u.mem
          ∧ ∀ x ∈ t.slots, x.slot = slot → x.closing = true))
    ∧ (∀ ten slot, Request 2 s u r → Operands0 r [0, ten, slot] → (∃ x ∈ s.slots, x.slot = slot ∧ x.tenant = ten) → slotBusy s slot = false →
      ∃ t, exec .freeMicrocodeSlot s = .next t ∧ Done s t 0 ∧ t.slots = s.slots.filter (fun x => x.slot ≠ slot))
    ∧ (∀ first n ten, Request 3 s u r → Operands0 r [first, n, ten] → first + n ≤ Config.physTiles → ten < 256 →
      ∃ t, exec .assignSealTiles s = .next t ∧ Done s t 0
        ∧ ∀ T, sealMeta t.mem T = if first ≤ T ∧ T < first + n then { sealMeta u.mem T with state := 0, owner := ten } else sealMeta u.mem T)
    ∧ (∀ ten region roll, Request 4 s u r → Operands0 r [ten, region, roll] → ten < 256 → region < 510 → roll < 2 →
      ((pairOf u.mem ten region).old = none → ∃ t, exec .armNextGeneration s = .next t ∧ Done s t 0 ∧
        let p := pairOf u.mem ten region
        let q := pairOf t.mem ten region
        if roll = 1 then q.cur = (p.cur + 1) % 16 ∧ q.old = some p.cur ∧ q.armed = false else q.cur = p.cur ∧ q.old = none ∧ q.armed = true)
      ∧ ((pairOf u.mem ten region).old.isSome = true → exec .armNextGeneration s = .next u))
    ∧ (∀ ten j, Request 5 s u r → operand r 1 = ten → operand r 2 = j → zeroBytes r 40 64 = true → ten < 256 → j < 5 →
      ∃ t, exec .readQuotaRecord s = .next t ∧ Done s t 0 ∧ memNat t.mem.home (reqAddr s + 24) 8 = (quotaOf s ten j).limit % 2 ^ 64
        ∧ memNat t.mem.home (reqAddr s + 32) 8 = (quotaOf s ten j).charged % 2 ^ 64)
    ∧ (∀ ten j lim, Request 6 s u r → Operands0 r [ten, j, lim] → ten < 256 → j < 5 →
      ∃ t, exec .writeQuotaRecord s = .next t ∧ Done s t 0 ∧ (quotaOf t ten j).limit = lim ∧ (quotaOf t ten j).charged = (quotaOf s ten j).charged)
    ∧ (∀ fn q base depth, Request 7 s u r → Operands0 r [fn, q, base, depth] → fn ≤ 256 → base % 64 = 0 →
      (q < 64 → depth = 0 → (fn = 0 → inDevice base 64 = true) →
        ∃ t x, exec .setQueue s = .next t ∧ Done s t 0 ∧ queueOf t fn q = some x ∧ x.base = base)
      ∧ (q = 64 → fn ≠ 0 → 256 ≤ depth → depth ≤ 65536 →
        ∃ t, exec .setQueue s = .next t ∧ Done s t 0 ∧ (ctxOf t (fn - 1)).taskBase = base ∧ (ctxOf t (fn - 1)).taskDepth = depth))
    ∧ (∀ n b, Request 8 s u r → Operands0 r [n, b] →
      ∃ t, exec .setAgingThresholds s = .next t ∧ Done s t 0 ∧ t.loom.ageNormal = n ∧ t.loom.ageBulk = b)
    ∧ (∀ a, Request 13 s u r → Operands0 r [a] → a % 64 = 0 → inDevice a 320 = true → Clear s a 320 →
      ∃ t, exec .copyStockDeck s = .next t ∧ Done s t 0 ∧ memRead t.mem.home a 320 = stockCards.flatMap (fun c => bytesOf 64 c.toNat))
    ∧ (∀ ten w, Request 14 s u r → operand r 1 = ten → operand r 2 = w → ten < 256 → w < 64 → zeroBytes r 28 32 = true → zeroBytes r 48 64 = true →
      (r.getD 27 0).toNat < 2 → operand r 4 < 2 ^ 56 → operand r 5 ≤ 2 ^ 40 →
      ∃ t, exec .writeFabricWindow s = .next t ∧ Done s t 0 ∧ windowEntry t ten w =
        { peer := natOfBytes ((r.drop 24).take 2), ports := natOfBytes ((r.drop 26).take 1), zone := decide (natOfBytes ((r.drop 27).take 1) = 1),
          base := operand r 4, size := operand r 5 })
    ∧ (∀ a, Request 15 s u r → operand r 1 = a → zeroBytes r 48 64 = true → a % 8 = 0 → inDevice a (256 + Config.signatureSize) = true → Clear s a 256 →
      let sig := Config.attestationSignature (natOfBytes (reportBytes s ((r.drop 16).take 32)))
      ((a + 256 + sig.length ≤ reqAddr s + 1) ∨ reqAddr s + 2 ≤ a) →
      ∃ t, exec .attestationReport s = .next t ∧ Done s t 0 ∧ memRead t.mem.home a 256 = reportBytes s ((r.drop 16).take 32)
        ∧ memRead t.mem.home (a + 256) sig.length = sig)

/-- R398, R404, R411: the requests about gangs and launches: a running gang of the tenant named is asked to stop, or to stop for good, and the request
completes once it has; a pre-empted one is stopped where it is; a stopped one is queued again; an ended launch leaves with its gangs; a request that
names no gang or launch that exists is refused. A request whose gang ends before it stops completes with status 0, which is the model's choice
(log entry 61). -/
def Obligations.RequestsOnGangs : Prop :=
  ∀ (s u : State) (r : List Byte) (ten team : Nat),
    (∀ g, gangNamed s ten team = some g → Operands0 r [ten, team] →
      (∀ stop, Request (if stop then 10 else 9) s u r → let ask := exec (if stop then Instr.stopGang else .preemptGang) s
        (g.state = .running → s.module.asked = false →
          ∃ t, ask = .next t ∧ t.module.reqHead = s.module.reqHead ∧ t.module.asked = true ∧ Asked g stop t ∧ t.mem = u.mem)
        ∧ (g.state = .stopping → s.module.asked = true → ask = .next u)
        ∧ (g.state = .stopped → ∃ t, ask = .next t ∧ Done s t 0 ∧ t.module.asked = false ∧ t.loom = s.loom))
      ∧ (Request 9 s u r → g.state = .saved → ∃ t, exec .preemptGang s = .next t ∧ Done s t 0 ∧ t.module.asked = false ∧ t.loom = s.loom)
      ∧ (Request 10 s u r → g.state = .saved → ∃ t x, exec .stopGang s = .next t ∧ t.module.reqHead = s.module.reqTail ∧ x ∈ t.loom.gangs
          ∧ x.team = team ∧ x.state = .stopped)
      ∧ (Request 11 s u r → g.state = .stopped → ∃ t x, exec .resumeStoppedGang s = .next t ∧ t.module.reqHead = s.module.reqTail ∧ x ∈ t.loom.gangs
          ∧ x.team = team ∧ x.state = .saved))
    ∧ (gangNamed s ten team = none → Operands0 r [ten, team] → ten < 256 →
      (Request 9 s u r → ∃ t, exec .preemptGang s = .next t ∧ Done s t (if s.module.asked then 0 else 1) ∧ t.loom = s.loom)
      ∧ (Request 10 s u r → ∃ t, exec .stopGang s = .next t ∧ Done s t (if s.module.asked then 0 else 1) ∧ t.loom = s.loom)
      ∧ (Request 11 s u r → ∃ t, exec .resumeStoppedGang s = .next t ∧ Done s t 1 ∧ t.loom = s.loom))
    ∧ (∀ fn q ix, Request 12 s u r → Operands0 r [fn, q, ix] → q < 64 → ix < 2 ^ 32 →
      (∀ l, s.loom.launches.find? (fun l => !l.task && decide (l.fn = fn ∧ l.q = q ∧ l.index = ix)) = some l →
        ∃ t, exec .endLaunch s = .next t ∧ t.module.reqHead = s.module.reqTail ∧ launchOf t l.id = none ∧ ∀ g ∈ t.loom.gangs, g.launch ≠ l.id)
      ∧ (s.loom.launches.find? (fun l => !l.task && decide (l.fn = fn ∧ l.q = q ∧ l.index = ix)) = none →
        ∃ t, exec .endLaunch s = .next t ∧ Done s t 1 ∧ t.loom = s.loom))
namespace Sys2Proof.Claim
open Sys2Proof.Machine

/-! ### Memory and storage below the tiles, power -/

/-- No copy of any shuttle holds sectors in a buffer (R367). -/
def NoBuffers (s : State) : Prop := ∀ h ∈ allShuttles s, ∀ c ∈ h.copies, c.buffered = []
/-- A tile has a way in the MSC of its stack, or one of the 16 ways of its set is free; the sets hold 64 MiB (R356). -/
def MscWay (s : State) (T : Nat) : Prop :=
  s.mem.msc.any (fun y => decide (y.tile = T)) = true ∨ (s.mem.msc.filter fun y => decide (mscSetOf y.tile = mscSetOf T)).length < 16
/-- A tile of policy keep that the MSC holds while its stack holds another tile (R356). -/
def KeptLast (s : State) (x : MscTile) : Prop :=
  x.keep = true ∧ s.mem.msc.any (fun y => decide (y.tile % 8 = x.tile % 8) && !y.keep) = true
/-- A tile whose seal stands and verifies: neither it nor the metadata over it altered, its pseudo-channel in service (R362, R377, R378, R381). -/
def Verifies (s : State) (T : Nat) : Prop :=
  s.mem.tampered.find? (fun q => q.1 = T) = none ∧ (∀ x ∈ s.mem.badMeta, ¬ (x.1 ≤ T ∧ T < x.1 + x.2.1)) ∧ (sealMeta s.mem T).state ≤ 2
    ∧ unitOut s true (unitOfTileM T) = false
/-- A tile whose fill brings what its home shows: none left to read as zeros since its assignment, none to be delivered poisoned (R377, R382). -/
def FillsPlain (s : State) (T : Nat) : Prop := refreshed s.mem T = s.mem

end Sys2Proof.Claim
open Sys2Proof Sys2Proof.Machine Sys2Proof.Claim

/-- R291, R356, R367, R377, R379, R380: a tile that verifies is filled whole into the MSC; one evicted leaves it, sealed first where it has dirty sectors,
but one of policy keep stays while its stack holds another; a line of an L1 is dropped; a dirty L2 line becomes the MSC's, in its 64-byte
sectors; a stalled seal that succeeds is no longer stalled; a sweep step seals a tile at
the current generation, and with the last one, a tile that no seal is listed for counted with tenant 0's, OLD ceases. No byte of memory changes by a
fill of a tile that reads as its home shows, by a writeback or by an L1 eviction. How the tiles still at OLD are found, and that a 48-byte sector
marks each 64-byte sector of the MSC that it touches, are the model's readings (log entries 65 and 96). -/
def Obligations.CachesAndSeals : Prop :=
  ∀ (s : State),
    (∀ T, T < Config.physTiles → Verifies s T → ∃ t, exec (.mscFill T) s = .next t ∧ mscHas t.mem T = true
        ∧ (MscWay s T → FillsPlain s T → t.mem.home = s.mem.home ∧ t.mem.poison = s.mem.poison ∧ t.mem.seals = s.mem.seals ∧ t.me = s.me)
        ∧ (MscWay s T → mscHas s.mem T = false → (sealMeta s.mem T).state = 2 → ∀ k, k / 128 = T → k ∉ heldIn s.mem T → k ∈ t.mem.poison))
    ∧ (∀ T x, s.mem.msc.find? (fun x => x.tile = T) = some x → KeptLast s x → exec (.mscEvict T) s = .next s)
    ∧ (∀ T x, s.mem.msc.find? (fun x => x.tile = T) = some x → ¬ KeptLast s x →
      (x.dirty = [] → ∃ t, exec (.mscEvict T) s = .next t ∧ (∀ y ∈ t.mem.msc, y.tile ≠ T) ∧ t.mem.home = s.mem.home)
      ∧ (∀ u, x.dirty ≠ [] → mscFull x = true → sealTile s T (mscDirty x) = (u, true) →
          ∃ t, exec (.mscEvict T) s = .next t ∧ (∀ y ∈ t.mem.msc, y.tile ≠ T) ∧ t.mem.seals = u.mem.seals))
    ∧ (∀ T n, ∃ t, exec (.l1Evict T n) s = .next t ∧ (tileOf t T).l1 = (tileOf s T).l1.filter (fun l => l.line ≠ n) ∧ t.mem = s.mem ∧ t.me = s.me
        ∧ (tileOf t T).scratch = (tileOf s T).scratch)
    ∧ (∀ n x, NoBuffers s → n / 32 ∉ s.mem.stalled → s.mem.l2.find? (fun x => x.line = n) = some x → x.dirty ≠ [] → MscWay s (n / 32) →
      (x.msc = 1 → s.mem.msc.any (fun y => decide (y.tile = n / 32)) = true) →
      ∃ t, exec (.l2Writeback n) s = .next t ∧ (∀ y ∈ t.mem.l2, y.line = n → y.dirty = []) ∧ t.mem.home = s.mem.home
        ∧ ∃ y ∈ t.mem.msc, y.tile = n / 32 ∧ ∀ k ∈ x.dirty, ∀ j ∈ unitsOf (48 * k) 48 64, j ∈ y.dirty)
    ∧ (∀ T u, NoBuffers s → T ∈ s.mem.stalled → sealTile s T ((s.mem.msc.filter fun x => x.tile = T).flatMap mscDirty) = (u, true) →
      ∃ t, exec (.sealRetry T) s = .next t ∧ t.mem.stalled = u.mem.stalled ∧ t.mem.seals = u.mem.seals ∧ ∀ y ∈ t.mem.msc, y.tile = T → y.dirty = [])
    ∧ (∀ ten region T o u, (pairOf s.mem ten region).old = some o → o ≠ (pairOf s.mem ten region).cur → tileAt s.mem ten region o T = true →
      verifyTile s ten true T = (s, true) → sealUnder s T = (u, true) →
      ∃ t, exec (.resealSweepStep ten region T) s = .next t ∧ (sealMeta t.mem T).gen = (pairOf s.mem ten region).cur ∧ (sealMeta t.mem T).version = 0
        ∧ (anyAt u.mem ten region o = false → (pairOf t.mem ten region).old = none) ∧ (anyAt u.mem ten region o = true → t = u))

/-- A bank of a pseudo-channel owes a ninth refresh (R357). -/
def Sys2Proof.Claim.Ninth (s : State) (pc : Nat) : Prop := ∃ x ∈ s.module.owed, x.1 = pc ∧ 9 ≤ x.2.2
/-- Every refresh that a pseudo-channel owed is paid by one all-bank refresh, and no other channel's (R357). -/
def Sys2Proof.Claim.AllPaid (s t : State) (pc : Nat) : Prop :=
  (∀ b, owedOf t pc b = 0) ∧ (∀ p b, p ≠ pc → owedOf t p b = owedOf s p b) ∧ t.module.allBank = s.module.allBank + 1

/-- R357 to R362: a refresh that falls due is issued or owed, and an owed one is paid back; a ninth owed one forces an all-bank refresh before anything
else is done in its pseudo-channel; a back-off takes its commands; a frame that decodes is delivered, with an event of its block for each of its twelve
codewords that took more than hard decision; one that is lost, or that needs a rebuild from a stripe with another lost frame, is recorded as lost; the 65th event
of a unit within one window makes it lasting-faulty, repaired with its counter closed or fenced, and an earlier one counts; a port whose
retraining is done carries traffic where nothing else keeps it out. -/
def Sys2Proof.Claim.StorageKeeps : Prop :=
  ∀ (s : State) (pc bank : Nat),
    (pc < 512 → bank < 32 → ¬ Ninth s pc → ∃ t, exec (.perBankRefreshDue pc bank) s = .next t
        ∧ (owedOf t pc bank = owedOf s pc bank ∨ owedOf t pc bank = owedOf s pc bank + 1) ∧ (∀ p b, (p ≠ pc ∨ b ≠ bank) → owedOf t p b = owedOf s p b)
        ∧ t.mem = s.mem ∧ t.me = s.me)
    ∧ (¬ Ninth s pc → ∃ t, exec (.refreshPayback pc bank) s = .next t ∧ owedOf t pc bank = owedOf s pc bank - 1
        ∧ (∀ p b, (p ≠ pc ∨ b ≠ bank) → owedOf t p b = owedOf s p b) ∧ t.mem = s.mem)
    ∧ (Ninth s pc → (∃ t, exec (.forcedAllBankRefresh pc) s = .next t ∧ AllPaid s t pc) ∧ (∃ t, exec (.refreshPayback pc bank) s = .next t ∧ AllPaid s t pc)
        ∧ (pc < 512 → bank < 32 → ∃ t, exec (.perBankRefreshDue pc bank) s = .next t ∧ owedOf t pc bank ≤ 1 ∧ (∀ b, b ≠ bank → owedOf t pc b = 0)
            ∧ t.module.allBank = s.module.allBank + 1))
    ∧ (∀ n, pc < 512 → bank < 32 → 1 ≤ n → n ≤ 4 → ∃ t, exec (.alertBackoff pc bank n) s = .next t ∧ t.module.rfm = s.module.rfm + n
        ∧ ((Ninth s pc ∨ owedOf s pc bank = 8) → AllPaid s t pc) ∧ (¬ Ninth s pc → owedOf s pc bank ≠ 8 → t.module.owed = s.module.owed))
    ∧ (∀ f, f < Config.physTiles / 8 → f ∉ s.module.nandLost → let out := unitOut s false (frameUnit f)
        (∃ t, exec (.nandFrameRead f .lost) s = .next t ∧ t.module.nandLost = f :: s.module.nandLost)
        ∧ (∀ o, (o = .rebuilt ∨ out = true) → stripeBroken s f = true →
            ∃ t, exec (.nandFrameRead f o) s = .next t ∧ t.module.nandLost = f :: s.module.nandLost)
        ∧ (∀ o, o ≠ .lost → ¬ ((o = .rebuilt ∨ out = true) ∧ stripeBroken s f = true) → (∀ T ∈ frameTiles f, Verifies s T ∧ FillsPlain s T) →
            ∃ n, exec (.nandFrameRead f o) s = .next ((List.range n).foldl (fun st _ => countEvent st (frameBlock s f)) (bump s))
              ∧ (o = .hard ∧ out = false → n = 0) ∧ (o ≠ .hard ∨ out = true → 1 ≤ n ∧ n ≤ 12) ∧ (out = true → n = 12)))
    ∧ (∀ u, s.module.errors.find? (fun c => c.unit = u) = none → ∃ t c, exec (.errorEvent u) s = .next t
        ∧ t.module.errors = s.module.errors ++ [c] ∧ c.unit = u ∧ c.count = 1 ∧ c.faulty = false)
    ∧ (∀ u c, s.module.errors.find? (fun c => c.unit = u) = some c → c.faulty = false →
        (c.start + errorWindow ≤ tstampOf s → ∃ t d, exec (.errorEvent u) s = .next t ∧ t.module.errors.find? (fun c => c.unit = u) = some d
          ∧ d.count = 1 ∧ d.start = tstampOf s ∧ d.faulty = false)
        ∧ (tstampOf s < c.start + errorWindow → c.count ≠ 64 → ∃ t d, exec (.errorEvent u) s = .next t
          ∧ t.module.errors.find? (fun c => c.unit = u) = some d ∧ d.count = c.count + 1 ∧ d.start = c.start ∧ d.faulty = false)
        ∧ (tstampOf s < c.start + errorWindow → c.count = 64 → ∃ t, exec (.errorEvent u) s = .next t
          ∧ ((u ∈ t.module.repairs ∧ t.module.errors.find? (fun c => c.unit = u) = none)
            ∨ ∃ d, t.module.errors.find? (fun c => c.unit = u) = some d ∧ d.faulty = true ∧ d.fenced = true)))
    ∧ (∀ port, port < 8 → port ∈ s.module.retraining → ∃ t, exec (.laneRetrainDone port) s = .next t ∧ port ∉ t.module.retraining
        ∧ ((∀ c ∈ s.module.errors, c.fenced = true → ∀ n, c.unit ≠ .linkLane port n) → t.fabric.portsDown.getLsbD port = false) ∧ t.mem = s.mem)

/-- R7, R94, R377, R410, R414 to R416: a droop alarm takes six cycles from CYCLES of its band but not from the clock, and starts a response, which ends;
one within 1,024 cycles of the last is counted and reported; the throttle starts and ends, TSTAMP meanwhile faster against the tile clock and never set back;
power-on puts the reset values back, with no shuttle, no context, no launch and no byte in device memory, the recorded fencing applied. -/
def Sys2Proof.Claim.PowerEvents : Prop :=
  ∀ (s : State) (band : Nat), band < 24 →
    (let early : Bool := (droopOf s band).elim false fun x => decide (s.cycles < x.1 + 1024)
      ∃ t, exec (.droopAlarm band) s = .next t ∧ t.cycles = s.cycles + 6 ∧ assoc t.lost band 0 = assoc s.lost band 0 + 6
        ∧ droopOf t band = some (s.cycles, true) ∧ (∀ b, b ≠ band → assoc t.lost b 0 = assoc s.lost b 0) ∧ t.mem = s.mem ∧ t.me.g = s.me.g
        ∧ assoc t.module.alarms band 0 = assoc s.module.alarms band 0 + (if early then 1 else 0)
        ∧ t.module.alarmReports = s.module.alarmReports ++ (if early then [band] else []))
    ∧ (∀ c, droopOf s band = some (c, true) → ∃ t, exec (.droopResponseEnd band) s = .next t ∧ droopOf t band = some (c, false) ∧ t.mem = s.mem)
    ∧ (∃ t, exec .thermalThrottle s = .next t ∧ t = { s with module := { s.module with throttled := some (s.module.throttled.getD s.cycles) } }
        ∧ tstampOf t = tstampOf s ∧ ∀ n, s.module.throttled = none → tstampOf { t with cycles := s.cycles + n }
            = tstampOf { s with cycles := s.cycles + n } + n * 2 * Config.slowdown / 5000)
    ∧ (∃ t, exec .thermalThrottleEnd s = .next t ∧ t = { s with module := t.module } ∧ t.module.throttled = none ∧ tstampOf t = tstampOf s)
    ∧ (∃ t, exec .powerOn s = .next t ∧ t.me = State.reset.me ∧ t.others = [] ∧ t.tile = Tile.reset 0 ∧ t.otherTiles = [] ∧ t.ctxs = []
        ∧ t.loom = State.reset.loom ∧ t.cycles = 0 ∧ t.lost = [] ∧ t.mem.home = [] ∧ (∀ T, sealMeta t.mem T = {}) ∧ t.module.accept = 0
        ∧ t.module.reqHead = 0 ∧ t.module.reqTail = 0 ∧ t.module.nandLost = s.module.nandLost ∧ t.module.repairs = s.module.repairs
        ∧ t.module.features &&& ~~~Config.features = 0
        ∧ ∀ p < 8, (∃ c ∈ s.module.errors, c.fenced = true ∧ ∃ n, c.unit = .linkLane p n) → t.fabric.portsDown.getLsbD p = true)

/-- R357 to R362, R414 to R416: refresh, frames, errors, droop, temperature and power-on. That lost frames stay lost over a power-on, that a frame on a
channel out of service needs its stripe, and the figure by which the throttle slows the tile clock are the model's readings (log entries 66, 99
and 130). -/
def Obligations.StorageAndPower : Prop := Claim.StorageKeeps ∧ Claim.PowerEvents
namespace Sys2Proof.Claim
open Sys2Proof.Machine

/-! ### The step, the encoding, reset, invariants -/

/-- Whose turn it is: the agent at the head of the agenda, which leaves it, or the current agent where the agenda is empty. -/
def Turn (s : State) (a : Agent) (u : State) : Prop :=
  (s.agenda = [] ∧ s.cur = a ∧ u = s) ∨ ∃ rest, s.agenda = .issue a :: rest ∧ u = { s with agenda := rest }

/-- A sequencer that is to issue: it runs, with no trap, compare or wait, and not stopping at a safe point (R24, R28, R92). -/
def SeqReady (s : State) : Prop :=
  s.me.life = .running ∧ s.me.dueTrap = none ∧ s.me.compareDue = false ∧ s.me.wait = none ∧ ¬ (s.me.fresh = true ∧ s.me.stopReq = true)

/-- A line that the sequencer may issue from at its pc: of its engine and within its rules, its slot there, with no mode crossing to wait for
(R24, R40, R41). -/
def SeqLineOk (s : State) (h : Shuttle) (l : BitVec 512) : Prop :=
  (h.priv = true → h.pc ≠ h.trapVec) ∧ (h.lastInter ≠ some (!Link.inter l) ∨ outstanding h = false) ∧ breach l 0 = false
    ∧ lineOf h.pc < h.kern.lines ∧ h.pc.toNat < 2 ^ 25 ∧ slotOf s.me.pc < Link.slots l

/-- The bits that DESC of a shuttle's pair gives every slot of a tile at reset: the default layout of R36, region by region. -/
def DefaultLayout (x : Tile) : Prop :=
  ∀ slot < 4, ∀ role < 4, let q := (x.qcw.toList.getD (4 * slot + role) 0).toNat
    bitsOf q 15 0 = 16384 - 560 * (slot + 1) + 16 * role ∧ bitsOf q 27 16 = (if role = 3 then 512 else 16) ∧ bitsOf q 63 28 = 3

/-- g0 of a shuttle reads 0 (R7, R89). -/
def ZeroG0 (h : Shuttle) : Prop := getG h 0 = 0
/-- g0 reads 0 in every shuttle, and in every shuttle's state that a save or a checkpoint keeps. -/
def ZeroRegister (s : State) : Prop :=
  (∀ h ∈ allShuttles s, ZeroG0 h) ∧ ∀ g ∈ s.loom.gangs, (∀ v ∈ g.saved, ZeroG0 v.shuttle) ∧ ∀ c ∈ g.checks, ZeroG0 c.2.shuttle

end Sys2Proof.Claim
open Sys2Proof Sys2Proof.Machine Sys2Proof.Claim

/-- R8, R16, R17, R41, R42, R337: a step runs the instruction that its agent decodes, once what releases have performed for that agent is at its home
(R294): the sequencer's at the slot of the pc in the line in hand or fetched, what it reads of results of variable latency landed (R91); an engine's in
its entry's line, or the rewrite group that it begins, for the shuttle whose turn it is and not before the cycle after the engine's last issue; a
near-data unit's slot of its word; a happening at the head of the agenda is run as it stands, a rewrite group's issue at its engine's turn, and what is no
happening is a fault. -/
def Obligations.StepRunsDecoded : Prop :=
  ∀ (s w : State),
    (∀ q v l i, Turn s (.seq q) w → let u := surface w q false
      At u q → SeqReady u → seqLine u = (v, .ok l) → SeqLineOk v u.me l →
      decodeOn .seq (slotWord l (slotOf v.me.pc)) = .ok i →
      let t := { v with me := { v.me with lastInter := some (Link.inter l), crossing := 0, fresh := false, issued := true,
                                          hand := some (lineOf v.me.pc, l) } }
      let op := (unpack (slotWord l (slotOf v.me.pc))).op
      (privOp op = true → v.me.priv = true) → featureOk t op.toNat = true → step s = exec i { t with me := landReads i t.me })
    ∧ (∀ u l, u.me.hand = some (lineOf u.me.pc, l) → seqLine u = (u, .ok l))
    ∧ (∀ u x, u.me.hand = none → u.mem.lines.find? (fun x => x.tenant = u.me.tenant && x.va = lineVa u.me (lineOf u.me.pc)) = some x →
        peekLine u u.me (lineOf u.me.pc) = some x.bits → seqLine u = (u, .ok x.bits))
    ∧ (∀ u q b, (∀ h ∈ allShuttles u, h.stores = []) → surface u q b = u)
    ∧ (∀ q e c l i, Turn s (.eng q e) w → let p := chosenWith exec w q e
      let u := surface w p true
      At u p → u.me.life = .running → (engOf u.me e).cur = some c → c.aborting = none →
      fifoCount u.me e < 16 → parkedBehind u.me c = false → c.hand = some l → breach l (engCode e) = false → c.line < u.me.kern.lines → Link.inter l = c.inter →
      c.slot < Link.slots l → decodeOn (engUnit e) (slotWord l c.slot) = .ok i → (privOp (unpack (slotWord l c.slot)).op = true → c.entry.priv = true) →
      featureOk u (unpack (slotWord l c.slot)).op.toNat = true →
      step s = exec (if (findGroup u e).isSome then .rewriteGroupIssue p e else i) (meetTurn u e))
    ∧ (∀ q e, (∀ j, j ≠ q.slot → (shuttleAt w ⟨q.tile, j⟩).life = .idle) → chosenWith exec w q e = q)
    ∧ (∀ n b i, Turn s (.nd n) w → OnUnit w n → w.nd.body = some b → b.state = .running →
      let x := slotsOf ((bodyWords w b.kick).getD b.regs.word 0)
      (b.phase = 2 → decodeArith x.2.1 = .ok i → step s = exec i w) ∧ (b.phase = 3 → decodeWb x.2.2 = .ok i → step s = exec i w)
      ∧ (∀ a k, b.phase = 1 → decodeFetch x.1 = .ok i → decodeArith x.2.1 = .ok a → decodeWb x.2.2 = .ok k →
          w.module.accept.getLsbD 0 = true →
          step s = exec i { w with nd := { w.nd with body := some { b with phase := 1, wordStart := b.regs, wordFlags := b.kick.flags } } }))
    ∧ (∀ i rest, s.agenda = .event i :: rest → let u : State := { s with agenda := rest }
        (isHappening i = true → (∀ q e, i ≠ .rewriteGroupIssue q e) → step s = exec i (beforeHappening u i))
        ∧ (happeningPlace i = none → beforeHappening u i = u) ∧ (∀ q, happeningPlace i = some q → beforeHappening u i = surface u q true)
        ∧ (∀ q e t, i = .rewriteGroupIssue q e → readyAgent exec u (.eng q e) = .run t i → step s = exec i t)
        ∧ (isHappening i = false → step s = .fault .notAHappening))

/-- R43, R46, R47, R50, R58 to R60: words written out from the encoding, one a family, read as the instructions they stand for. -/
def Obligations.WordsDecode : Prop :=
  (decodeWord 0x0A000000000C04003F000000).toOption = some (.ldi {} 4 (.imm40 0x3F000000))
    ∧ (decodeWord 0x26800000000B830100000006).toOption = some (.run {} .vec 3 4 6)
    ∧ (decodeWord 0x40C00001000182E000000000).toOption = some (.sunbind { pop := 8 } 2 0)
    ∧ (decodeArith 0x28010000).toOption = some (.dot 1 0 0)

/-- R43 to R60: every well-formed instruction of a tile engine, and every well-formed near-data operation in its slot, has a word, and that word
decodes to it, whatever its operands and its control fields. -/
def Obligations.EncodingsDecode : Prop :=
  ∀ i : Instr, i.wf = true → isHappening i = false →
    (∃ r, encodeRaw i = some r ∧ unpack (pack r) = r ∧ decodeOn (unitOf r.op) (pack r) = .ok i)
    ∨ (∃ k r, slotKind i = some k ∧ encodeSlotRaw i = some r ∧ decodeSlotAs k (packSlot r) = .ok i)

/-- R48, R58: a word that decodes is the word of the one instruction it decodes to, which is well formed: no other word has that meaning, and
no operand outside its limits is accepted. -/
def Obligations.DecodedWordsEncode : Prop :=
  (∀ (w : IWord) (i : Instr), decodeWord w = .ok i → i.wf = true ∧ (encodeRaw i).map pack = some w)
    ∧ ∀ (k : NdSlot) (w : BitVec 32) (i : Instr), decodeSlotAs k w = .ok i → i.wf = true ∧ (encodeSlotRaw i).map packSlot = some w

/-- R7, R36, R94, R236, R377, R410, R414: what reset leaves where the spec gives a value: no trap state, no ready tag, the flags and the clocks 0, SHAPE
16 × 16, QCW in the default layout, every seal tile unsealed and the management tenant's, the registers of the functions 0. Two clauses are the model's
choices: the g registers hold 0 before a start (log entry 40), and memory is in canonical form (log entry 41). -/
def Obligations.ResetState : Prop :=
  let s := State.reset
  s.me.tagReady = 0 ∧ (∀ n : Fin 64, s.me.tagBytes[n] = 0) ∧ s.me.fpflags = 0 ∧ s.me.trapPc = 0 ∧ s.me.trapCode = 0 ∧ s.me.trapVa = 0
    ∧ s.me.trapVec = 0 ∧ s.me.rows = 16 ∧ s.me.cols = 16 ∧ (∀ r, getG s.me r = 0) ∧ DefaultLayout s.tile ∧ cyclesOf s 0 = 0 ∧ tstampOf s = 0
    ∧ (∀ t, (ctxOf s t).ovfTbl = 0 ∧ (ctxOf s t).cardBase = 0 ∧ (ctxOf s t).apwin = 0) ∧ (∀ T, (sealMeta s.mem T).state = 0 ∧ (sealMeta s.mem T).owner = 0)
    ∧ s.module.accept = 0 ∧ s.module.mgmtFq = 0 ∧ s.module.reqBase = 0 ∧ s.module.reqTail = 0 ∧ s.module.reqHead = 0
    ∧ (10 ≤ s.module.droopThr.toNat ∧ s.module.droopThr.toNat ≤ 80) ∧ MemoryCanonical s ∧ ZeroRegister s

/-- Every step keeps every memory in canonical form: addresses strictly rising, no entry equal to what an unlisted address reads as.
The form, and that unlisted bytes read 0, are the model's (log entry 41). -/
def Obligations.StepKeepsMemoryCanonical : Prop :=
  ∀ s t : State, MemoryCanonical s → step s = .next t → MemoryCanonical t

/-- R7, R89: g0 reads 0 after every step that starts where it does, in every shuttle, running or saved. -/
def Obligations.StepKeepsZeroRegister : Prop :=
  ∀ s t : State, ZeroRegister s → step s = .next t → ZeroRegister t

/-- Every instruction and every happening answers a next state in every state: none stops the machine. A step stops only where the agenda, the
model's own field, names as a happening what is none. -/
def Obligations.NothingStops : Prop :=
  (∀ (i : Instr) (s : State), ∃ t, exec i s = .next t)
    ∧ ∀ s : State, (∀ i rest, s.agenda = .event i :: rest → isHappening i = true) → CanStep s

/-- R15, R19, R89, R94, R104, R115: whatever a SEQ instruction other than `exit` does, trapping and waiting included, it leaves VEC's registers, SHAPE, the
accumulator store and the panels, the shuttle's place and launch, and the entries in progress; the b registers change by `ptg` alone, FPFLAGS by
`amo.fadd.f32` and `setsr` alone, QCW and TRAPVEC by `setsr` alone. -/
def Obligations.SequencerFrame : Prop :=
  ∀ (i : Instr) (c : Ctl) (s t : State), seqControl i s = some c → (∀ k, i ≠ .exit k) → s.tile.id = s.me.place.tile → exec i s = .next t →
    t.me.v = s.me.v ∧ t.me.vp = s.me.vp ∧ t.me.ring = s.me.ring ∧ t.me.vpend = s.me.vpend ∧ t.me.ppend = s.me.ppend ∧ t.me.rpend = s.me.rpend
      ∧ t.me.rows = s.me.rows ∧ t.me.cols = s.me.cols ∧ t.me.vInuse = s.me.vInuse ∧ t.me.vDirty = s.me.vDirty ∧ t.me.pInuse = s.me.pInuse
      ∧ t.tile.groups = s.tile.groups ∧ t.tile.cnt = s.tile.cnt ∧ t.tile.panels = s.tile.panels
      ∧ t.me.place = s.me.place ∧ t.me.tenant = s.me.tenant ∧ t.me.team = s.me.team ∧ t.me.vtile = s.me.vtile ∧ t.me.kern = s.me.kern
      ∧ t.me.argBase = s.me.argBase ∧ t.me.teamWin = s.me.teamWin ∧ (∀ e, (engOf t.me e).cur = (engOf s.me e).cur)
      ∧ ((∀ k b a, i ≠ .ptgLabel k b a) → (∀ k b g, i ≠ .ptgReg k b g) → t.me.b = s.me.b)
      ∧ ((∀ k a b x e, i ≠ .amoFaddF32 k a b x e) → (∀ k sr x, i ≠ .setsr k sr x) → t.me.fpflags = s.me.fpflags)
      ∧ ((∀ k sr x, i ≠ .setsr k sr x) → t.tile.qcw = s.tile.qcw ∧ t.me.trapVec = s.me.trapVec)
end

