-- ==== Sys2Proof/Laws/Memory.lean ====
section
/-! SUPPORT. Byte memories: every operation keeps the canonical form, and a byte reads as it was last written. -/
namespace Sys2Proof.Machine

/-! ### The canonical form -/

theorem memWfFrom_mono {lo k : Nat} {m : Mem} (h : memWfFrom lo m = true) (le : k ≤ lo) : memWfFrom k m = true := by
  cases m with
  | nil => rfl
  | cons c cs =>
    simp only [memWfFrom, Bool.and_eq_true, decide_eq_true_eq] at h ⊢
    exact ⟨⟨by omega, h.1.2⟩, h.2⟩

theorem memWfFrom_cons {lo : Nat} {c : Host.Cell} {m : Mem} :
    memWfFrom lo (c :: m) = true ↔ lo ≤ c.1 ∧ c.2 ≠ 0 ∧ memWfFrom (c.1 + 1) m = true := by
  simp [memWfFrom, and_assoc]

/-- An address below every listed one reads 0. -/
theorem memGet_below {lo a : Nat} {m : Mem} (h : memWfFrom lo m = true) (lt : a < lo) : memGet m a = 0 := by
  cases m with
  | nil => rfl
  | cons c cs =>
    have := (memWfFrom_cons.mp h).1
    have n : c.1 ≠ a := by omega
    have l : a < c.1 := by omega
    simp [memGet, n, l]

/-- A byte written keeps the canonical form. -/
theorem memSet_wfFrom {lo a : Nat} {m : Mem} (b : Byte) (h : memWfFrom lo m = true) (le : lo ≤ a) : memWfFrom lo (memSet m a b) = true := by
  induction m generalizing lo with
  | nil =>
    by_cases z : b = 0
    · simp [memSet, z, memWfFrom]
    · rw [memSet, if_neg z]; exact memWfFrom_cons.mpr ⟨le, z, rfl⟩
  | cons c cs ih =>
    obtain ⟨h1, h2, h3⟩ := memWfFrom_cons.mp h
    unfold memSet
    split
    · next l =>
      split
      · exact h
      · next z => exact memWfFrom_cons.mpr ⟨le, z, memWfFrom_cons.mpr ⟨l, h2, h3⟩⟩
    · split
      · next e =>
        split
        · exact memWfFrom_mono h3 (by omega)
        · next z => exact memWfFrom_cons.mpr ⟨le, z, e ▸ h3⟩
      · exact memWfFrom_cons.mpr ⟨h1, h2, ih h3 (by omega)⟩

theorem memSet_wf {m : Mem} (a : Nat) (b : Byte) (h : Memory.wf m = true) : Memory.wf (memSet m a b) = true :=
  memSet_wfFrom b h (Nat.zero_le a)

/-- Bytes written keep the canonical form. -/
theorem memWrite_wf {m : Mem} (a : Nat) (bs : List Byte) (h : Memory.wf m = true) : Memory.wf (memWrite m a bs) = true := by
  induction bs generalizing m a with
  | nil => exact h
  | cons b bs ih => exact ih _ (memSet_wf a b h)

/-- A part of a canonical memory is canonical. -/
theorem filter_wfFrom {lo : Nat} {m : Mem} (p : Host.Cell → Bool) (h : memWfFrom lo m = true) : memWfFrom lo (m.filter p) = true := by
  induction m generalizing lo with
  | nil => exact h
  | cons c cs ih =>
    obtain ⟨h1, h2, h3⟩ := memWfFrom_cons.mp h
    rw [List.filter_cons]
    split
    · exact memWfFrom_cons.mpr ⟨h1, h2, ih h3⟩
    · exact memWfFrom_mono (ih h3) (by omega)

theorem memZero_wf {m : Mem} (a n : Nat) (h : Memory.wf m = true) : Memory.wf (memZero m a n) = true := filter_wfFrom _ h
theorem memSlice_wf {m : Mem} (a n : Nat) (h : Memory.wf m = true) : Memory.wf (memSlice m a n) = true := filter_wfFrom _ h

/-- Bytes written at their home keep it canonical (R382). -/
theorem homeWrite_wf {m : MemSys} (pa : Nat) (bs : List Byte) (poisoned : Bool) (h : Memory.wf m.home = true) :
    Memory.wf (homeWrite m pa bs poisoned).home = true := memWrite_wf pa bs h

/-- Every memory of reset is canonical. -/
theorem reset_memory_wf :
    Memory.wf State.reset.mem.home = true ∧ Memory.wf State.reset.mem.host = true ∧ Memory.wf State.reset.mem.peer = true
      ∧ Memory.wf State.reset.tile.scratch = true := ⟨rfl, rfl, rfl, rfl⟩

/-! ### Reading what was written -/

theorem memGet_memSet_from {lo a : Nat} {m : Mem} (b : Byte) (x : Nat) (h : memWfFrom lo m = true) :
    memGet (memSet m a b) x = if x = a then b else memGet m x := by
  induction m generalizing lo with
  | nil =>
    by_cases z : b = 0
    · simp [memSet, z, memGet]
    · rw [memSet, if_neg z]
      by_cases e : a = x
      · simp [memGet, e]
      · simp [memGet, e, Ne.symm e]
  | cons c cs ih =>
    obtain ⟨h1, h2, h3⟩ := memWfFrom_cons.mp h
    unfold memSet
    split
    · next l =>
      split
      · next z =>
        by_cases e : x = a
        · subst e; rw [if_pos rfl, z]; exact memGet_below (lo := c.1) (memWfFrom_cons.mpr ⟨Nat.le_refl _, h2, h3⟩) l
        · rw [if_neg e]
      · next z =>
        by_cases e : x = a
        · subst e; simp [memGet]
        · rw [if_neg e]
          by_cases g : x < a
          · have : x < c.1 := by omega
            have n : c.1 ≠ x := by omega
            simp [memGet, Ne.symm e, g, this, n]
          · simp [memGet, Ne.symm e, g]
    · split
      · next e0 =>
        split
        · next z =>
          by_cases e : x = a
          · subst e; rw [if_pos rfl, z]; exact memGet_below h3 (by omega)
          · rw [if_neg e]
            have n : c.1 ≠ x := by omega
            by_cases g : x < c.1
            · simp only [memGet, n, g, if_true, if_false]; exact memGet_below h3 (by omega)
            · simp [memGet, n, g]
        · next z =>
          by_cases e : x = a
          · subst e; simp [memGet]
          · rw [if_neg e]
            have n : c.1 ≠ x := by omega
            simp [memGet, n, e0]
      · next l e0 =>
        by_cases e1 : c.1 = x
        · have : x ≠ a := by omega
          simp [memGet, e1, this]
        · by_cases g : x < c.1
          · have : x ≠ a := by omega
            simp [memGet, e1, g, this]
          · simp only [memGet, e1, g, if_false]; exact ih h3

/-- A byte reads as it was last written, and every other byte as before. -/
theorem memGet_memSet {m : Mem} (h : Memory.wf m = true) (a x : Nat) (b : Byte) :
    memGet (memSet m a b) x = if x = a then b else memGet m x := memGet_memSet_from b x h

/-- A run of bytes reads as it was last written, and every byte outside it as before. -/
theorem memGet_memWrite {m : Mem} (h : Memory.wf m = true) (a x : Nat) (bs : List Byte) :
    memGet (memWrite m a bs) x = if a ≤ x ∧ x < a + bs.length then bs.getD (x - a) 0 else memGet m x := by
  induction bs generalizing m a with
  | nil =>
    have : ¬ (a ≤ x ∧ x < a + ([] : List Byte).length) := by simp
    rw [if_neg this]; rfl
  | cons b bs ih =>
    rw [show memWrite m a (b :: bs) = memWrite (memSet m a b) (a + 1) bs from rfl, ih (memSet_wf a b h), memGet_memSet h]
    simp only [List.length_cons]
    by_cases e : x = a
    · subst e
      rw [if_neg (by omega), if_pos rfl, if_pos (by omega)]
      simp
    · by_cases i : a + 1 ≤ x ∧ x < a + 1 + bs.length
      · rw [if_pos i, if_pos (by omega)]
        have : x - a = (x - (a + 1)) + 1 := by omega
        rw [this]; simp
      · rw [if_neg i, if_neg e, if_neg (by omega)]

theorem memRead_length (m : Mem) (a n : Nat) : (memRead m a n).length = n := by
  induction n generalizing a with
  | zero => rfl
  | succ n ih => simp [memRead, ih]

theorem memRead_congr {m k : Mem} (a n : Nat) (h : ∀ x, a ≤ x → x < a + n → memGet m x = memGet k x) : memRead m a n = memRead k a n := by
  induction n generalizing a with
  | zero => rfl
  | succ n ih =>
    rw [memRead, memRead, h a (Nat.le_refl _) (by omega), ih (a + 1) (fun x l r => h x (by omega) (by omega))]

/-- A run of bytes reads back whole. -/
theorem memRead_memWrite {m : Mem} (h : Memory.wf m = true) (a : Nat) (bs : List Byte) : memRead (memWrite m a bs) a bs.length = bs := by
  induction bs generalizing m a with
  | nil => rfl
  | cons b bs ih =>
    have wf := memSet_wf a b h
    rw [show memWrite m a (b :: bs) = memWrite (memSet m a b) (a + 1) bs from rfl, List.length_cons, memRead, ih wf,
      memGet_memWrite wf, if_neg (by omega), memGet_memSet h, if_pos rfl]

/-- A run of bytes beside a write reads as before. -/
theorem memRead_memWrite_apart {m : Mem} (h : Memory.wf m = true) (a : Nat) (bs : List Byte) (x n : Nat)
    (apart : x + n ≤ a ∨ a + bs.length ≤ x) : memRead (memWrite m a bs) x n = memRead m x n :=
  memRead_congr x n fun y l r => by rw [memGet_memWrite h, if_neg (by omega)]

end Sys2Proof.Machine
end

