-- ==== Sys2Proof/Laws/PerInstr.lean ====
section
/-! SUPPORT. What holds of every instruction as syntax, one lemma a constructor, so that a claim over all instructions is a case split
into them. -/
namespace Sys2Proof.Laws.HasWord
open Sys2Proof.Machine

/-- An instruction of a stream has a word, and a happening has none (R43, R58). -/
def Statement (i : Instr) : Prop := (encode i).isSome = !isHappening i

theorem nop (c : Ctl) : Statement (.nop c) := rfl
theorem trap (c : Ctl) (n : BitVec 7) : Statement (.trap c n) := rfl
theorem safept (c : Ctl) : Statement (.safept c) := rfl
theorem climbpt (c : Ctl) (id : BitVec 20) : Statement (.climbpt c id) := rfl
theorem exit (c : Ctl) : Statement (.exit c) := rfl
theorem add (c : Ctl) (a b : BitVec 5) (x : GSrc) : Statement (.add c a b x) := rfl
theorem sub (c : Ctl) (a b : BitVec 5) (x : GSrc) : Statement (.sub c a b x) := rfl
theorem mul (c : Ctl) (a b : BitVec 5) (x : GSrc) : Statement (.mul c a b x) := rfl
theorem mulh (c : Ctl) (a b : BitVec 5) (x : GSrc) : Statement (.mulh c a b x) := rfl
theorem div (c : Ctl) (a b : BitVec 5) (x : GSrc) : Statement (.div c a b x) := rfl
theorem divu (c : Ctl) (a b : BitVec 5) (x : GSrc) : Statement (.divu c a b x) := rfl
theorem rem (c : Ctl) (a b : BitVec 5) (x : GSrc) : Statement (.rem c a b x) := rfl
theorem remu (c : Ctl) (a b : BitVec 5) (x : GSrc) : Statement (.remu c a b x) := rfl
theorem and (c : Ctl) (a b : BitVec 5) (x : GSrc) : Statement (.and c a b x) := rfl
theorem or (c : Ctl) (a b : BitVec 5) (x : GSrc) : Statement (.or c a b x) := rfl
theorem xor (c : Ctl) (a b : BitVec 5) (x : GSrc) : Statement (.xor c a b x) := rfl
theorem andn (c : Ctl) (a b : BitVec 5) (x : GSrc) : Statement (.andn c a b x) := rfl
theorem shl (c : Ctl) (a b : BitVec 5) (x : GSrc) : Statement (.shl c a b x) := rfl
theorem shr (c : Ctl) (a b : BitVec 5) (x : GSrc) : Statement (.shr c a b x) := rfl
theorem sra (c : Ctl) (a b : BitVec 5) (x : GSrc) : Statement (.sra c a b x) := rfl
theorem rotl (c : Ctl) (a b : BitVec 5) (x : GSrc) : Statement (.rotl c a b x) := rfl
theorem min (c : Ctl) (a b : BitVec 5) (x : GSrc) : Statement (.min c a b x) := rfl
theorem max (c : Ctl) (a b : BitVec 5) (x : GSrc) : Statement (.max c a b x) := rfl
theorem minu (c : Ctl) (a b : BitVec 5) (x : GSrc) : Statement (.minu c a b x) := rfl
theorem maxu (c : Ctl) (a b : BitVec 5) (x : GSrc) : Statement (.maxu c a b x) := rfl
theorem clz (c : Ctl) (a b : BitVec 5) : Statement (.clz c a b) := rfl
theorem popc (c : Ctl) (a b : BitVec 5) : Statement (.popc c a b) := rfl
theorem extZ (c : Ctl) (a b : BitVec 5) (n : BitVec 7) : Statement (.extZ c a b n) := rfl
theorem extS (c : Ctl) (a b : BitVec 5) (n : BitVec 7) : Statement (.extS c a b n) := rfl
theorem ldi (c : Ctl) (a : BitVec 5) (i : LdiImm) : Statement (.ldi c a i) := by cases i <;> rfl
theorem mov (c : Ctl) (a : BitVec 5) (x : GOrB) : Statement (.mov c a x) := rfl
theorem cmp (c : Ctl) (cc : SeqCc) (p : BitVec 6) (b : BitVec 5) (x : GSrc) : Statement (.cmp c cc p b x) := rfl
theorem pand (c : Ctl) (a b p : BitVec 6) : Statement (.pand c a b p) := rfl
theorem por (c : Ctl) (a b p : BitVec 6) : Statement (.por c a b p) := rfl
theorem pxor (c : Ctl) (a b p : BitVec 6) : Statement (.pxor c a b p) := rfl
theorem pnot (c : Ctl) (a b : BitVec 6) : Statement (.pnot c a b) := rfl
theorem pmov (c : Ctl) (a b : BitVec 6) : Statement (.pmov c a b) := rfl
theorem ptgLabel (c : Ctl) (b : BitVec 2) (addr : BitVec 30) : Statement (.ptgLabel c b addr) := rfl
theorem ptgReg (c : Ctl) (b : BitVec 2) (g : BitVec 5) : Statement (.ptgReg c b g) := rfl
theorem br (c : Ctl) (b : BitVec 2) (p : BitVec 6) (d : BitVec 7) : Statement (.br c b p d) := rfl
theorem brl (c : Ctl) (b : BitVec 2) (p : BitVec 6) (d : BitVec 7) : Statement (.brl c b p d) := rfl
theorem ld (c : Ctl) (w : Width) (a : BitVec 5) (addr : Addr) : Statement (.ld c w a addr) := rfl
theorem st (c : Ctl) (w : Width) (a : BitVec 5) (addr : Addr) : Statement (.st c w a addr) := rfl
theorem cas (c : Ctl) (w : Width) (a b x y : BitVec 5) (scope : BitVec 7) : Statement (.cas c w a b x y scope) := rfl
theorem amoAdd (c : Ctl) (w : Width) (a b x : BitVec 5) (scope : BitVec 7) : Statement (.amoAdd c w a b x scope) := rfl
theorem amoAnd (c : Ctl) (w : Width) (a b x : BitVec 5) (scope : BitVec 7) : Statement (.amoAnd c w a b x scope) := rfl
theorem amoOr (c : Ctl) (w : Width) (a b x : BitVec 5) (scope : BitVec 7) : Statement (.amoOr c w a b x scope) := rfl
theorem amoXor (c : Ctl) (w : Width) (a b x : BitVec 5) (scope : BitVec 7) : Statement (.amoXor c w a b x scope) := rfl
theorem amoMin (c : Ctl) (w : Width) (a b x : BitVec 5) (scope : BitVec 7) : Statement (.amoMin c w a b x scope) := rfl
theorem amoMax (c : Ctl) (w : Width) (a b x : BitVec 5) (scope : BitVec 7) : Statement (.amoMax c w a b x scope) := rfl
theorem amoMinu (c : Ctl) (w : Width) (a b x : BitVec 5) (scope : BitVec 7) : Statement (.amoMinu c w a b x scope) := rfl
theorem amoMaxu (c : Ctl) (w : Width) (a b x : BitVec 5) (scope : BitVec 7) : Statement (.amoMaxu c w a b x scope) := rfl
theorem amoSwap (c : Ctl) (w : Width) (a b x : BitVec 5) (scope : BitVec 7) : Statement (.amoSwap c w a b x scope) := rfl
theorem amoFaddF32 (c : Ctl) (a b x : BitVec 5) (scope : BitVec 7) : Statement (.amoFaddF32 c a b x scope) := rfl
theorem fence (c : Ctl) (order : BitVec 7) (scope : BitVec 7) (mask : BitVec 20) : Statement (.fence c order scope mask) := rfl
theorem barInit (c : Ctl) (a : BitVec 5) (x : GOrImm) (scope : BitVec 7) : Statement (.barInit c a x scope) := rfl
theorem barArrive (c : Ctl) (a b x : BitVec 5) (scope : BitVec 7) : Statement (.barArrive c a b x scope) := rfl
theorem barWait (c : Ctl) (a b : BitVec 5) (scope : BitVec 7) : Statement (.barWait c a b scope) := rfl
theorem barWaitReturn (q : Place) : Statement (.barWaitReturn q) := rfl
theorem waitany (c : Ctl) (a : BitVec 5) (m : GOrImm) : Statement (.waitany c a m) := rfl
theorem waitall (c : Ctl) (m : GOrImm) : Statement (.waitall c m) := rfl
theorem tagWaitReturn (q : Place) : Statement (.tagWaitReturn q) := rfl
theorem ffready (c : Ctl) (a : BitVec 5) (m : GOrImm) : Statement (.ffready c a m) := rfl
theorem tagclr (c : Ctl) (m : GOrImm) : Statement (.tagclr c m) := rfl
theorem run (c : Ctl) (e : Eng) (n : BitVec 7) (g : BitVec 5) (head : BitVec 30) : Statement (.run c e n g head) := rfl
theorem runLoop (c : Ctl) (e : Eng) (n : BitVec 7) (g : BitVec 5) (head : BitVec 20) (x : BitVec 7) : Statement (.runLoop c e n g head x) := rfl
theorem commandQueueRoom (q : Place) : Statement (.commandQueueRoom q) := rfl
theorem popEng (c : Ctl) (e : Eng) (a : BitVec 5) : Statement (.popEng c e a) := rfl
theorem popP (c : Ctl) (p : BitVec 6) : Statement (.popP c p) := rfl
theorem fifoElementArrival (q : Place) : Statement (.fifoElementArrival q) := rfl
theorem tokPush (c : Ctl) (q : BitVec 7) (n : BitVec 7) : Statement (.tokPush c q n) := rfl
theorem tokPop (c : Ctl) (q : BitVec 7) (n : BitVec 7) : Statement (.tokPop c q n) := rfl
theorem tokenAvailable (q : Place) (w : Who) : Statement (.tokenAvailable q w) := rfl
theorem spawn (c : Ctl) (a b : BitVec 5) : Statement (.spawn c a b) := rfl
theorem kick (c : Ctl) (a b : BitVec 5) : Statement (.kick c a b) := rfl
theorem getsr (c : Ctl) (a : BitVec 5) (sr : BitVec 7) (tag : Option (BitVec 5)) : Statement (.getsr c a sr tag) := rfl
theorem setsr (c : Ctl) (sr : BitVec 7) (x : GOrImm) : Statement (.setsr c sr x) := rfl
theorem tstamp (c : Ctl) (a : BitVec 5) : Statement (.tstamp c a) := rfl
theorem ovfLoad (c : Ctl) (a : BitVec 5) : Statement (.ovfLoad c a) := rfl
theorem cardLoad (c : Ctl) (a b : BitVec 5) : Statement (.cardLoad c a b) := rfl
theorem objsync (c : Ctl) : Statement (.objsync c) := rfl
theorem xlinv (c : Ctl) (a : BitVec 5) (m : BitVec 7) : Statement (.xlinv c a m) := rfl
theorem sysret (c : Ctl) : Statement (.sysret c) := rfl
theorem ctxFence (c : Ctl) : Statement (.ctxFence c) := rfl
theorem entryStart (q : Place) (e : Eng) : Statement (.entryStart q e) := rfl
theorem resultLands (q : Place) (w : Who) : Statement (.resultLands q w) := rfl
theorem modeCrossingDeadlock (q : Place) : Statement (.modeCrossingDeadlock q) := rfl
theorem entryWatchdog (q : Place) (e : Eng) : Statement (.entryWatchdog q e) := rfl
theorem sbind (c : Ctl) (s : BitVec 4) (d : BitVec 7) (kc kd : Option (BitVec 2)) : Statement (.sbind c s d kc kd) := rfl
theorem sbindTw (c : Ctl) (s : BitVec 4) (d : BitVec 7) (kc kd : Option (BitVec 2)) : Statement (.sbindTw c s d kc kd) := rfl
theorem sbindB16 (c : Ctl) (s : BitVec 4) (d : BitVec 7) (kc kd : Option (BitVec 2)) : Statement (.sbindB16 c s d kc kd) := rfl
theorem sunbind (c : Ctl) (s : BitVec 4) (tag : BitVec 7) : Statement (.sunbind c s tag) := rfl
theorem sseek (c : Ctl) (s : BitVec 4) (x : KOrImm) : Statement (.sseek c s x) := rfl
theorem scopy (c : Ctl) (tag : BitVec 7) (kd ks : BitVec 2) (n : KOrImm) : Statement (.scopy c tag kd ks n) := rfl
theorem scopy2d (c : Ctl) (tag : BitVec 7) (kd ks kg kh : BitVec 2) : Statement (.scopy2d c tag kd ks kg kh) := rfl
theorem sfill (c : Ctl) (tag : BitVec 7) (kd : BitVec 2) (n : KOrImm) (kv : BitVec 2) : Statement (.sfill c tag kd n kv) := rfl
theorem sgather (c : Ctl) (tag : BitVec 7) (kd ks ki kg : BitVec 2) : Statement (.sgather c tag kd ks ki kg) := rfl
theorem sscatter (c : Ctl) (tag : BitVec 7) (kd ks ki kg : BitVec 2) : Statement (.sscatter c tag kd ks ki kg) := rfl
theorem sprefetch (c : Ctl) (k : BitVec 2) (n : KOrImm) : Statement (.sprefetch c k n) := rfl
theorem spromote (c : Ctl) (tag : BitVec 7) (kt kc : BitVec 2) : Statement (.spromote c tag kt kc) := rfl
theorem spin (c : Ctl) (k : BitVec 2) (n : KOrImm) : Statement (.spin c k n) := rfl
theorem sunpin (c : Ctl) (k : BitVec 2) (n : KOrImm) : Statement (.sunpin c k n) := rfl
theorem stwenc (c : Ctl) (tag : BitVec 7) (kd ks kp kq : BitVec 2) : Statement (.stwenc c tag kd ks kp kq) := rfl
theorem sscale (c : Ctl) (k : BitVec 2) (n : KOrImm) : Statement (.sscale c k n) := rfl
theorem slzput (c : Ctl) (tag : BitVec 7) (kl ks : BitVec 2) (n : KOrImm) (kc : BitVec 2) : Statement (.slzput c tag kl ks n kc) := rfl
theorem sresume (c : Ctl) (k : BitVec 2) : Statement (.sresume c k) := rfl
theorem streamFetch (q : Place) (s : BitVec 4) : Statement (.streamFetch q s) := rfl
theorem streamBlockFetched (q : Place) (s : BitVec 4) : Statement (.streamBlockFetched q s) := rfl
theorem outputBlockWrite (q : Place) (s : BitVec 4) : Statement (.outputBlockWrite q s) := rfl
theorem outputWritePerformed (q : Place) (s : BitVec 4) : Statement (.outputWritePerformed q s) := rfl
theorem copySectorIssue (q : Place) (tag : BitVec 6) : Statement (.copySectorIssue q tag) := rfl
theorem copySectorDone (q : Place) (tag : BitVec 6) (i : Nat) : Statement (.copySectorDone q tag i) := rfl
theorem stwencEncodeDone (q : Place) (tag : BitVec 6) : Statement (.stwencEncodeDone q tag) := rfl
theorem promotionComplete (i : Nat) : Statement (.promotionComplete i) := rfl
theorem mma (c : Ctl) (f : MFmt) (m n : BitVec 2) (a : BitVec 4) (sa : BitVec 4) (sb : BSrc) (d : BitVec 7) : Statement (.mma c f m n a sa sb d) := rfl
theorem mmaCoop (c : Ctl) (f : MFmt) (m : BitVec 2) (n : BitVec 1) (sa : BitVec 4) (sb : BSrc) (d : BitVec 7) (q : KOrImm) : Statement (.mmaCoop c f m n sa sb d q) := rfl
theorem coopMatch (q : Place) : Statement (.coopMatch q) := rfl
theorem coopPartnerTimeout (q : Place) : Statement (.coopPartnerTimeout q) := rfl
theorem mmaReed (c : Ctl) (f : MFmt) (m : BitVec 2) (sa : BitVec 4) (sb : BSrc) (d : BitVec 7) : Statement (.mmaReed c f m sa sb d) := rfl
theorem accZero (c : Ctl) (a : BitVec 4) (n m : BitVec 7) : Statement (.accZero c a n m) := rfl
theorem accScale (c : Ctl) (a : BitVec 4) (n b r : BitVec 7) (k : BitVec 2) : Statement (.accScale c a n b r k) := rfl
theorem accRd (c : Ctl) (v : BitVec 3) (a : BitVec 4) (b : BitVec 7) : Statement (.accRd c v a b) := rfl
theorem accWr (c : Ctl) (a : BitVec 4) (v : BitVec 3) (b : BitVec 7) : Statement (.accWr c a v b) := rfl
theorem accFlush (c : Ctl) (b r : BitVec 7) : Statement (.accFlush c b r) := rfl
theorem mpre (c : Ctl) (s : BitVec 4) (f nc : BitVec 7) : Statement (.mpre c s f nc) := rfl
theorem msync (c : Ctl) : Statement (.msync c) := rfl
theorem vadd (c : Ctl) (t : VType) (a : VDest) (b x : VSrc) : Statement (.vadd c t a b x) := rfl
theorem vsub (c : Ctl) (t : VType) (a : VDest) (b x : VSrc) : Statement (.vsub c t a b x) := rfl
theorem vmul (c : Ctl) (t : VType) (a : VDest) (b x : VSrc) : Statement (.vmul c t a b x) := rfl
theorem vfma (c : Ctl) (t : VType) (a : VDest) (b x y : VSrc) : Statement (.vfma c t a b x y) := rfl
theorem vfms (c : Ctl) (t : VType) (a : VDest) (b x y : VSrc) : Statement (.vfms c t a b x y) := rfl
theorem vnfma (c : Ctl) (t : VType) (a : VDest) (b x y : VSrc) : Statement (.vnfma c t a b x y) := rfl
theorem vmin (c : Ctl) (t : VType) (a : VDest) (b x : VSrc) : Statement (.vmin c t a b x) := rfl
theorem vmax (c : Ctl) (t : VType) (a : VDest) (b x : VSrc) : Statement (.vmax c t a b x) := rfl
theorem vabs (c : Ctl) (t : VType) (a : VDest) (b : VSrc) : Statement (.vabs c t a b) := rfl
theorem vneg (c : Ctl) (t : VType) (a : VDest) (b : VSrc) : Statement (.vneg c t a b) := rfl
theorem vcopysign (c : Ctl) (t : VType) (a : VDest) (b x : VSrc) : Statement (.vcopysign c t a b x) := rfl
theorem viadd (c : Ctl) (t : VType) (a : VDest) (b x : VSrc) : Statement (.viadd c t a b x) := rfl
theorem visub (c : Ctl) (t : VType) (a : VDest) (b x : VSrc) : Statement (.visub c t a b x) := rfl
theorem vimul (c : Ctl) (t : VType) (a : VDest) (b x : VSrc) : Statement (.vimul c t a b x) := rfl
theorem vand (c : Ctl) (t : VType) (a : VDest) (b x : VSrc) : Statement (.vand c t a b x) := rfl
theorem vor (c : Ctl) (t : VType) (a : VDest) (b x : VSrc) : Statement (.vor c t a b x) := rfl
theorem vxor (c : Ctl) (t : VType) (a : VDest) (b x : VSrc) : Statement (.vxor c t a b x) := rfl
theorem vshl (c : Ctl) (t : VType) (a : VDest) (b x : VSrc) : Statement (.vshl c t a b x) := rfl
theorem vshr (c : Ctl) (t : VType) (a : VDest) (b x : VSrc) : Statement (.vshr c t a b x) := rfl
theorem vsra (c : Ctl) (t : VType) (a : VDest) (b x : VSrc) : Statement (.vsra c t a b x) := rfl
theorem vimin (c : Ctl) (t : VType) (a : VDest) (b x : VSrc) : Statement (.vimin c t a b x) := rfl
theorem vimax (c : Ctl) (t : VType) (a : VDest) (b x : VSrc) : Statement (.vimax c t a b x) := rfl
theorem vcmp (c : Ctl) (cc : VecCc) (t : VType) (p : BitVec 6) (b x : VSrc) : Statement (.vcmp c cc t p b x) := rfl
theorem vsel (c : Ctl) (t : VType) (a : VDest) (p : BitVec 6) (x y : VSrc) : Statement (.vsel c t a p x y) := rfl
theorem vexp2 (c : Ctl) (t : VType) (a : VDest) (b : VSrc) : Statement (.vexp2 c t a b) := rfl
theorem vexp (c : Ctl) (t : VType) (a : VDest) (b : VSrc) : Statement (.vexp c t a b) := rfl
theorem vlog2 (c : Ctl) (t : VType) (a : VDest) (b : VSrc) : Statement (.vlog2 c t a b) := rfl
theorem vrcp (c : Ctl) (t : VType) (a : VDest) (b : VSrc) : Statement (.vrcp c t a b) := rfl
theorem vrsqrt (c : Ctl) (t : VType) (a : VDest) (b : VSrc) : Statement (.vrsqrt c t a b) := rfl
theorem vsqrt (c : Ctl) (t : VType) (a : VDest) (b : VSrc) : Statement (.vsqrt c t a b) := rfl
theorem vtanh (c : Ctl) (t : VType) (a : VDest) (b : VSrc) : Statement (.vtanh c t a b) := rfl
theorem vredSumRow (c : Ctl) (t : VType) (a : VDest) (b : VSrc) : Statement (.vredSumRow c t a b) := rfl
theorem vredSumCol (c : Ctl) (t : VType) (a : VDest) (b : VSrc) : Statement (.vredSumCol c t a b) := rfl
theorem vredMaxRow (c : Ctl) (t : VType) (a : VDest) (b : VSrc) : Statement (.vredMaxRow c t a b) := rfl
theorem vredMaxCol (c : Ctl) (t : VType) (a : VDest) (b : VSrc) : Statement (.vredMaxCol c t a b) := rfl
theorem vredMaxsumRow (c : Ctl) (t : VType) (a b : BitVec 3) (x y : VSrc) : Statement (.vredMaxsumRow c t a b x y) := rfl
theorem vredMaxsumCol (c : Ctl) (t : VType) (a b : BitVec 3) (x y : VSrc) : Statement (.vredMaxsumCol c t a b x y) := rfl
theorem vcvt (c : Ctl) (src dst : CvtFmt) (rnd : Rnd) (a : VDest) (b : VSrc) : Statement (.vcvt c src dst rnd a b) := rfl
theorem vmov (c : Ctl) (a : VDest) (b : VSrc) : Statement (.vmov c a b) := rfl
theorem vld (c : Ctl) (a : VDest) (s : BitVec 4) : Statement (.vld c a s) := rfl
theorem vst (c : Ctl) (s : BitVec 4) (b : VReg) : Statement (.vst c s b) := rfl
theorem vshapeImm (c : Ctl) (imm : BitVec 20) : Statement (.vshapeImm c imm) := rfl
theorem vshapeK (c : Ctl) (k : BitVec 2) : Statement (.vshapeK c k) := rfl
theorem vbcast (c : Ctl) (x : XWidth) (a : VDest) (b : VSrc) (m : BitVec 7) : Statement (.vbcast c x a b m) := rfl
theorem vtrn (c : Ctl) (x : XWidth) (a : VDest) (b : VSrc) : Statement (.vtrn c x a b) := rfl
theorem vperm (c : Ctl) (x : XWidth) (a : VDest) (b y : VSrc) : Statement (.vperm c x a b y) := rfl
theorem vpand (c : Ctl) (a b p : BitVec 6) : Statement (.vpand c a b p) := rfl
theorem vpor (c : Ctl) (a b p : BitVec 6) : Statement (.vpor c a b p) := rfl
theorem vpxor (c : Ctl) (a b p : BitVec 6) : Statement (.vpxor c a b p) := rfl
theorem vpnot (c : Ctl) (a b : BitVec 6) : Statement (.vpnot c a b) := rfl
theorem vpcount (c : Ctl) (a : BitVec 6) : Statement (.vpcount c a) := rfl
theorem voteAny (c : Ctl) (a : BitVec 6) : Statement (.voteAny c a) := rfl
theorem voteAll (c : Ctl) (a : BitVec 6) : Statement (.voteAll c a) := rfl
theorem vext (c : Ctl) (a : VReg) (r x : KOrImm) : Statement (.vext c a r x) := rfl
theorem rewriteGroupIssue (q : Place) (e : Eng) : Statement (.rewriteGroupIssue q e) := rfl
theorem fnop : Statement (.fnop) := rfl
theorem fld (x y : BitVec 8) : Statement (.fld x y) := rfl
theorem fldp (x y : BitVec 8) : Statement (.fldp x y) := rfl
theorem fnext (y : BitVec 8) : Statement (.fnext y) := rfl
theorem frec (x y : BitVec 8) : Statement (.frec x y) := rfl
theorem ndNop : Statement (.ndNop) := rfl
theorem ndMov (x y : BitVec 8) : Statement (.ndMov x y) := rfl
theorem imm (x y z : BitVec 8) : Statement (.imm x y z) := rfl
theorem abs (x y : BitVec 8) : Statement (.abs x y) := rfl
theorem neg (x y : BitVec 8) : Statement (.neg x y) := rfl
theorem ndAdd (x y z : BitVec 8) : Statement (.ndAdd x y z) := rfl
theorem ndSub (x y z : BitVec 8) : Statement (.ndSub x y z) := rfl
theorem ndMul (x y z : BitVec 8) : Statement (.ndMul x y z) := rfl
theorem fma (x y z : BitVec 8) : Statement (.fma x y z) := rfl
theorem ndMax (x y z : BitVec 8) : Statement (.ndMax x y z) := rfl
theorem ndMin (x y z : BitVec 8) : Statement (.ndMin x y z) := rfl
theorem ndCmp (cc : VecCc) (x : BitVec 5) (y z : BitVec 8) : Statement (.ndCmp cc x y z) := rfl
theorem sel (x y z : BitVec 8) : Statement (.sel x y z) := rfl
theorem cvt (x y : BitVec 8) (m : BitVec 2) (k : BitVec 4) : Statement (.cvt x y m k) := rfl
theorem iadd (x y z : BitVec 8) : Statement (.iadd x y z) := rfl
theorem exp2 (x y : BitVec 8) : Statement (.exp2 x y) := rfl
theorem rcp (x y : BitVec 8) : Statement (.rcp x y) := rfl
theorem dot (x y z : BitVec 8) : Statement (.dot x y z) := rfl
theorem twd (x y z : BitVec 8) : Statement (.twd x y z) := rfl
theorem b16x (x y z : BitVec 8) : Statement (.b16x x y z) := rfl
theorem reed (x : BitVec 8) : Statement (.reed x) := rfl
theorem rflush (x y : BitVec 8) : Statement (.rflush x y) := rfl
theorem wnop : Statement (.wnop) := rfl
theorem wst (x y : BitVec 8) : Statement (.wst x y) := rfl
theorem wacc (x y z : BitVec 8) : Statement (.wacc x y z) := rfl
theorem wmb (x y : BitVec 8) : Statement (.wmb x y) := rfl
theorem wrec (x y : BitVec 8) : Statement (.wrec x y) := rfl
theorem kickBodyStart (u : Nat) : Statement (.kickBodyStart u) := rfl
theorem climbCheck (u : Nat) : Statement (.climbCheck u) := rfl
theorem bodyComplete (u : Nat) : Statement (.bodyComplete u) := rfl
theorem zoneContribution (i : Nat) : Statement (.zoneContribution i) := rfl
theorem remoteStoreArrival (i : Nat) : Statement (.remoteStoreArrival i) := rfl
theorem remoteStoreAck (i : Nat) : Statement (.remoteStoreAck i) := rfl
theorem releaseFlagSend (i : Nat) : Statement (.releaseFlagSend i) := rfl
theorem releaseFlagApply (i : Nat) : Statement (.releaseFlagApply i) := rfl
theorem linkFailure (port : Nat) : Statement (.linkFailure port) := rfl
theorem scheduleEntryDue (launch : Nat) : Statement (.scheduleEntryDue launch) := rfl
theorem handoverAccept (u : Nat) : Statement (.handoverAccept u) := rfl
theorem handoverAcceptTimeout (u : Nat) : Statement (.handoverAcceptTimeout u) := rfl
theorem repairObserved (tenant tmap pick : Nat) : Statement (.repairObserved tenant tmap pick) := rfl
theorem doorbellWrite (fn q : Nat) (v : Word) : Statement (.doorbellWrite fn q v) := rfl
theorem launchAdmit (fn q : Nat) : Statement (.launchAdmit fn q) := rfl
theorem taskAdmit (tenant band : Nat) : Statement (.taskAdmit tenant band) := rfl
theorem dependenceRecheck (fn q : Nat) : Statement (.dependenceRecheck fn q) := rfl
theorem headAging (fn q : Nat) : Statement (.headAging fn q) := rfl
theorem teamPlace : Statement (.teamPlace) := rfl
theorem rtPreempt : Statement (.rtPreempt) := rfl
theorem completionIncrement (launch : Nat) : Statement (.completionIncrement launch) := rfl
theorem preemptRequest (gang : Nat) : Statement (.preemptRequest gang) := rfl
theorem gangDrainSave (gang : Nat) : Statement (.gangDrainSave gang) := rfl
theorem gangResume (gang : Nat) : Statement (.gangResume gang) := rfl
theorem gangStop (gang : Nat) : Statement (.gangStop gang) := rfl
theorem pairedCompare (q : Place) : Statement (.pairedCompare q) := rfl
theorem faultQueueRoom (fn : Nat) : Statement (.faultQueueRoom fn) := rfl
theorem prgResponse (fn idx : Nat) (ok : Bool) : Statement (.prgResponse fn idx ok) := rfl
theorem atsTranslationComplete (q : Place) (tag : BitVec 6) : Statement (.atsTranslationComplete q tag) := rfl
theorem atsInvalidation (fn : Nat) (page : Nat) : Statement (.atsInvalidation fn page) := rfl
theorem apertureRead (fn : Nat) (off : Nat) (len : Nat) : Statement (.apertureRead fn off len) := rfl
theorem apertureWrite (fn : Nat) (off : Nat) : Statement (.apertureWrite fn off) := rfl
theorem hostBarAccess (fn : Nat) (va : Nat) (op : HostOp) : Statement (.hostBarAccess fn va op) := rfl
theorem acceptWrite (v : Word) : Statement (.acceptWrite v) := rfl
theorem registerWrite (r : ModReg) (v : Word) : Statement (.registerWrite r v) := rfl
theorem loadMicrocodeSlot : Statement (.loadMicrocodeSlot) := rfl
theorem freeMicrocodeSlot : Statement (.freeMicrocodeSlot) := rfl
theorem assignSealTiles : Statement (.assignSealTiles) := rfl
theorem armNextGeneration : Statement (.armNextGeneration) := rfl
theorem readQuotaRecord : Statement (.readQuotaRecord) := rfl
theorem writeQuotaRecord : Statement (.writeQuotaRecord) := rfl
theorem setQueue : Statement (.setQueue) := rfl
theorem setAgingThresholds : Statement (.setAgingThresholds) := rfl
theorem preemptGang : Statement (.preemptGang) := rfl
theorem stopGang : Statement (.stopGang) := rfl
theorem resumeStoppedGang : Statement (.resumeStoppedGang) := rfl
theorem endLaunch : Statement (.endLaunch) := rfl
theorem copyStockDeck : Statement (.copyStockDeck) := rfl
theorem writeFabricWindow : Statement (.writeFabricWindow) := rfl
theorem attestationReport : Statement (.attestationReport) := rfl
theorem mscFill (tile : Nat) : Statement (.mscFill tile) := rfl
theorem mscEvict (tile : Nat) : Statement (.mscEvict tile) := rfl
theorem sealRetry (tile : Nat) : Statement (.sealRetry tile) := rfl
theorem resealSweepStep (tenant region tile : Nat) : Statement (.resealSweepStep tenant region tile) := rfl
theorem refreshPayback (pc bank : Nat) : Statement (.refreshPayback pc bank) := rfl
theorem forcedAllBankRefresh (pc : Nat) : Statement (.forcedAllBankRefresh pc) := rfl
theorem alertBackoff (pc bank : Nat) (commands : Nat) : Statement (.alertBackoff pc bank commands) := rfl
theorem nandFrameRead (frame : Nat) (o : NandOutcome) : Statement (.nandFrameRead frame o) := rfl
theorem errorEvent (u : ErrUnit) : Statement (.errorEvent u) := rfl
theorem laneRetrainDone (port : Nat) : Statement (.laneRetrainDone port) := rfl
theorem l1Evict (tile : Nat) (line : Nat) : Statement (.l1Evict tile line) := rfl
theorem droopAlarm (band : Nat) : Statement (.droopAlarm band) := rfl
theorem droopResponseEnd (band : Nat) : Statement (.droopResponseEnd band) := rfl
theorem thermalThrottle : Statement (.thermalThrottle) := rfl
theorem powerOn : Statement (.powerOn) := rfl
theorem seqAccessPerformed (q : Place) (i : Nat) : Statement (.seqAccessPerformed q i) := rfl
theorem l2Writeback (line : Nat) : Statement (.l2Writeback line) := rfl
theorem perBankRefreshDue (pc bank : Nat) : Statement (.perBankRefreshDue pc bank) := rfl
theorem releaseFlagAck (i : Nat) : Statement (.releaseFlagAck i) := rfl
theorem linkRecovery (port : Nat) : Statement (.linkRecovery port) := rfl
theorem tdispStateChange (fn : Nat) (run : Bool) : Statement (.tdispStateChange fn run) := rfl
theorem thermalThrottleEnd : Statement (.thermalThrottleEnd) := rfl

end Sys2Proof.Laws.HasWord
end

