-- ==== Sys2Proof/Laws/State.lean ====
section
/-! SUPPORT. The state's updates, one lemma a field, so that no proof unfolds a record update; the registers read after they are
written. -/
namespace Sys2Proof.Machine

/-! ### bump -/

@[simp] theorem bump_agenda (s : State) : (bump s).agenda = s.agenda := rfl
@[simp] theorem bump_cur (s : State) : (bump s).cur = s.cur := rfl
@[simp] theorem bump_fresh (s : State) : (bump s).fresh = s.fresh + 1 := rfl
@[simp] theorem bump_me (s : State) : (bump s).me = s.me := rfl
@[simp] theorem bump_others (s : State) : (bump s).others = s.others := rfl
@[simp] theorem bump_tile (s : State) : (bump s).tile = s.tile := rfl
@[simp] theorem bump_otherTiles (s : State) : (bump s).otherTiles = s.otherTiles := rfl
@[simp] theorem bump_ctxs (s : State) : (bump s).ctxs = s.ctxs := rfl
@[simp] theorem bump_mem (s : State) : (bump s).mem = s.mem := rfl
@[simp] theorem bump_nd (s : State) : (bump s).nd = s.nd := rfl
@[simp] theorem bump_otherNd (s : State) : (bump s).otherNd = s.otherNd := rfl
@[simp] theorem bump_slots (s : State) : (bump s).slots = s.slots := rfl
@[simp] theorem bump_nextKick (s : State) : (bump s).nextKick = s.nextKick := rfl
@[simp] theorem bump_away (s : State) : (bump s).away = s.away := rfl
@[simp] theorem bump_zones (s : State) : (bump s).zones = s.zones := rfl
@[simp] theorem bump_fabric (s : State) : (bump s).fabric = s.fabric := rfl
@[simp] theorem bump_promos (s : State) : (bump s).promos = s.promos := rfl
@[simp] theorem bump_handovers (s : State) : (bump s).handovers = s.handovers := rfl
@[simp] theorem bump_hbm (s : State) : (bump s).hbm = s.hbm := rfl
@[simp] theorem bump_loom (s : State) : (bump s).loom = s.loom := rfl
@[simp] theorem bump_module (s : State) : (bump s).module = s.module := rfl
@[simp] theorem bump_cycles (s : State) : (bump s).cycles = s.cycles := rfl
@[simp] theorem bump_lost (s : State) : (bump s).lost = s.lost := rfl

/-! ### modMe -/

@[simp] theorem modMe_agenda (s : State) (f : Shuttle → Shuttle) : (modMe s f).agenda = s.agenda := rfl
@[simp] theorem modMe_cur (s : State) (f : Shuttle → Shuttle) : (modMe s f).cur = s.cur := rfl
@[simp] theorem modMe_fresh (s : State) (f : Shuttle → Shuttle) : (modMe s f).fresh = s.fresh := rfl
@[simp] theorem modMe_me (s : State) (f : Shuttle → Shuttle) : (modMe s f).me = f s.me := rfl
@[simp] theorem modMe_others (s : State) (f : Shuttle → Shuttle) : (modMe s f).others = s.others := rfl
@[simp] theorem modMe_tile (s : State) (f : Shuttle → Shuttle) : (modMe s f).tile = s.tile := rfl
@[simp] theorem modMe_otherTiles (s : State) (f : Shuttle → Shuttle) : (modMe s f).otherTiles = s.otherTiles := rfl
@[simp] theorem modMe_ctxs (s : State) (f : Shuttle → Shuttle) : (modMe s f).ctxs = s.ctxs := rfl
@[simp] theorem modMe_mem (s : State) (f : Shuttle → Shuttle) : (modMe s f).mem = s.mem := rfl
@[simp] theorem modMe_nd (s : State) (f : Shuttle → Shuttle) : (modMe s f).nd = s.nd := rfl
@[simp] theorem modMe_otherNd (s : State) (f : Shuttle → Shuttle) : (modMe s f).otherNd = s.otherNd := rfl
@[simp] theorem modMe_slots (s : State) (f : Shuttle → Shuttle) : (modMe s f).slots = s.slots := rfl
@[simp] theorem modMe_nextKick (s : State) (f : Shuttle → Shuttle) : (modMe s f).nextKick = s.nextKick := rfl
@[simp] theorem modMe_away (s : State) (f : Shuttle → Shuttle) : (modMe s f).away = s.away := rfl
@[simp] theorem modMe_zones (s : State) (f : Shuttle → Shuttle) : (modMe s f).zones = s.zones := rfl
@[simp] theorem modMe_fabric (s : State) (f : Shuttle → Shuttle) : (modMe s f).fabric = s.fabric := rfl
@[simp] theorem modMe_promos (s : State) (f : Shuttle → Shuttle) : (modMe s f).promos = s.promos := rfl
@[simp] theorem modMe_handovers (s : State) (f : Shuttle → Shuttle) : (modMe s f).handovers = s.handovers := rfl
@[simp] theorem modMe_hbm (s : State) (f : Shuttle → Shuttle) : (modMe s f).hbm = s.hbm := rfl
@[simp] theorem modMe_loom (s : State) (f : Shuttle → Shuttle) : (modMe s f).loom = s.loom := rfl
@[simp] theorem modMe_module (s : State) (f : Shuttle → Shuttle) : (modMe s f).module = s.module := rfl
@[simp] theorem modMe_cycles (s : State) (f : Shuttle → Shuttle) : (modMe s f).cycles = s.cycles := rfl
@[simp] theorem modMe_lost (s : State) (f : Shuttle → Shuttle) : (modMe s f).lost = s.lost := rfl

/-! ### modTile -/

@[simp] theorem modTile_agenda (s : State) (f : Tile → Tile) : (modTile s f).agenda = s.agenda := rfl
@[simp] theorem modTile_cur (s : State) (f : Tile → Tile) : (modTile s f).cur = s.cur := rfl
@[simp] theorem modTile_fresh (s : State) (f : Tile → Tile) : (modTile s f).fresh = s.fresh := rfl
@[simp] theorem modTile_me (s : State) (f : Tile → Tile) : (modTile s f).me = s.me := rfl
@[simp] theorem modTile_others (s : State) (f : Tile → Tile) : (modTile s f).others = s.others := rfl
@[simp] theorem modTile_tile (s : State) (f : Tile → Tile) : (modTile s f).tile = f s.tile := rfl
@[simp] theorem modTile_otherTiles (s : State) (f : Tile → Tile) : (modTile s f).otherTiles = s.otherTiles := rfl
@[simp] theorem modTile_ctxs (s : State) (f : Tile → Tile) : (modTile s f).ctxs = s.ctxs := rfl
@[simp] theorem modTile_mem (s : State) (f : Tile → Tile) : (modTile s f).mem = s.mem := rfl
@[simp] theorem modTile_nd (s : State) (f : Tile → Tile) : (modTile s f).nd = s.nd := rfl
@[simp] theorem modTile_otherNd (s : State) (f : Tile → Tile) : (modTile s f).otherNd = s.otherNd := rfl
@[simp] theorem modTile_slots (s : State) (f : Tile → Tile) : (modTile s f).slots = s.slots := rfl
@[simp] theorem modTile_nextKick (s : State) (f : Tile → Tile) : (modTile s f).nextKick = s.nextKick := rfl
@[simp] theorem modTile_away (s : State) (f : Tile → Tile) : (modTile s f).away = s.away := rfl
@[simp] theorem modTile_zones (s : State) (f : Tile → Tile) : (modTile s f).zones = s.zones := rfl
@[simp] theorem modTile_fabric (s : State) (f : Tile → Tile) : (modTile s f).fabric = s.fabric := rfl
@[simp] theorem modTile_promos (s : State) (f : Tile → Tile) : (modTile s f).promos = s.promos := rfl
@[simp] theorem modTile_handovers (s : State) (f : Tile → Tile) : (modTile s f).handovers = s.handovers := rfl
@[simp] theorem modTile_hbm (s : State) (f : Tile → Tile) : (modTile s f).hbm = s.hbm := rfl
@[simp] theorem modTile_loom (s : State) (f : Tile → Tile) : (modTile s f).loom = s.loom := rfl
@[simp] theorem modTile_module (s : State) (f : Tile → Tile) : (modTile s f).module = s.module := rfl
@[simp] theorem modTile_cycles (s : State) (f : Tile → Tile) : (modTile s f).cycles = s.cycles := rfl
@[simp] theorem modTile_lost (s : State) (f : Tile → Tile) : (modTile s f).lost = s.lost := rfl

/-! ### modMem -/

@[simp] theorem modMem_agenda (s : State) (f : MemSys → MemSys) : (modMem s f).agenda = s.agenda := rfl
@[simp] theorem modMem_cur (s : State) (f : MemSys → MemSys) : (modMem s f).cur = s.cur := rfl
@[simp] theorem modMem_fresh (s : State) (f : MemSys → MemSys) : (modMem s f).fresh = s.fresh := rfl
@[simp] theorem modMem_me (s : State) (f : MemSys → MemSys) : (modMem s f).me = s.me := rfl
@[simp] theorem modMem_others (s : State) (f : MemSys → MemSys) : (modMem s f).others = s.others := rfl
@[simp] theorem modMem_tile (s : State) (f : MemSys → MemSys) : (modMem s f).tile = s.tile := rfl
@[simp] theorem modMem_otherTiles (s : State) (f : MemSys → MemSys) : (modMem s f).otherTiles = s.otherTiles := rfl
@[simp] theorem modMem_ctxs (s : State) (f : MemSys → MemSys) : (modMem s f).ctxs = s.ctxs := rfl
@[simp] theorem modMem_mem (s : State) (f : MemSys → MemSys) : (modMem s f).mem = f s.mem := rfl
@[simp] theorem modMem_nd (s : State) (f : MemSys → MemSys) : (modMem s f).nd = s.nd := rfl
@[simp] theorem modMem_otherNd (s : State) (f : MemSys → MemSys) : (modMem s f).otherNd = s.otherNd := rfl
@[simp] theorem modMem_slots (s : State) (f : MemSys → MemSys) : (modMem s f).slots = s.slots := rfl
@[simp] theorem modMem_nextKick (s : State) (f : MemSys → MemSys) : (modMem s f).nextKick = s.nextKick := rfl
@[simp] theorem modMem_away (s : State) (f : MemSys → MemSys) : (modMem s f).away = s.away := rfl
@[simp] theorem modMem_zones (s : State) (f : MemSys → MemSys) : (modMem s f).zones = s.zones := rfl
@[simp] theorem modMem_fabric (s : State) (f : MemSys → MemSys) : (modMem s f).fabric = s.fabric := rfl
@[simp] theorem modMem_promos (s : State) (f : MemSys → MemSys) : (modMem s f).promos = s.promos := rfl
@[simp] theorem modMem_handovers (s : State) (f : MemSys → MemSys) : (modMem s f).handovers = s.handovers := rfl
@[simp] theorem modMem_hbm (s : State) (f : MemSys → MemSys) : (modMem s f).hbm = s.hbm := rfl
@[simp] theorem modMem_loom (s : State) (f : MemSys → MemSys) : (modMem s f).loom = s.loom := rfl
@[simp] theorem modMem_module (s : State) (f : MemSys → MemSys) : (modMem s f).module = s.module := rfl
@[simp] theorem modMem_cycles (s : State) (f : MemSys → MemSys) : (modMem s f).cycles = s.cycles := rfl
@[simp] theorem modMem_lost (s : State) (f : MemSys → MemSys) : (modMem s f).lost = s.lost := rfl

/-! ### modModule -/

@[simp] theorem modModule_agenda (s : State) (f : Module → Module) : (modModule s f).agenda = s.agenda := rfl
@[simp] theorem modModule_cur (s : State) (f : Module → Module) : (modModule s f).cur = s.cur := rfl
@[simp] theorem modModule_fresh (s : State) (f : Module → Module) : (modModule s f).fresh = s.fresh := rfl
@[simp] theorem modModule_me (s : State) (f : Module → Module) : (modModule s f).me = s.me := rfl
@[simp] theorem modModule_others (s : State) (f : Module → Module) : (modModule s f).others = s.others := rfl
@[simp] theorem modModule_tile (s : State) (f : Module → Module) : (modModule s f).tile = s.tile := rfl
@[simp] theorem modModule_otherTiles (s : State) (f : Module → Module) : (modModule s f).otherTiles = s.otherTiles := rfl
@[simp] theorem modModule_ctxs (s : State) (f : Module → Module) : (modModule s f).ctxs = s.ctxs := rfl
@[simp] theorem modModule_mem (s : State) (f : Module → Module) : (modModule s f).mem = s.mem := rfl
@[simp] theorem modModule_nd (s : State) (f : Module → Module) : (modModule s f).nd = s.nd := rfl
@[simp] theorem modModule_otherNd (s : State) (f : Module → Module) : (modModule s f).otherNd = s.otherNd := rfl
@[simp] theorem modModule_slots (s : State) (f : Module → Module) : (modModule s f).slots = s.slots := rfl
@[simp] theorem modModule_nextKick (s : State) (f : Module → Module) : (modModule s f).nextKick = s.nextKick := rfl
@[simp] theorem modModule_away (s : State) (f : Module → Module) : (modModule s f).away = s.away := rfl
@[simp] theorem modModule_zones (s : State) (f : Module → Module) : (modModule s f).zones = s.zones := rfl
@[simp] theorem modModule_fabric (s : State) (f : Module → Module) : (modModule s f).fabric = s.fabric := rfl
@[simp] theorem modModule_promos (s : State) (f : Module → Module) : (modModule s f).promos = s.promos := rfl
@[simp] theorem modModule_handovers (s : State) (f : Module → Module) : (modModule s f).handovers = s.handovers := rfl
@[simp] theorem modModule_hbm (s : State) (f : Module → Module) : (modModule s f).hbm = s.hbm := rfl
@[simp] theorem modModule_loom (s : State) (f : Module → Module) : (modModule s f).loom = s.loom := rfl
@[simp] theorem modModule_module (s : State) (f : Module → Module) : (modModule s f).module = f s.module := rfl
@[simp] theorem modModule_cycles (s : State) (f : Module → Module) : (modModule s f).cycles = s.cycles := rfl
@[simp] theorem modModule_lost (s : State) (f : Module → Module) : (modModule s f).lost = s.lost := rfl

/-! ### modLoom -/

@[simp] theorem modLoom_agenda (s : State) (f : Loom → Loom) : (modLoom s f).agenda = s.agenda := rfl
@[simp] theorem modLoom_cur (s : State) (f : Loom → Loom) : (modLoom s f).cur = s.cur := rfl
@[simp] theorem modLoom_fresh (s : State) (f : Loom → Loom) : (modLoom s f).fresh = s.fresh := rfl
@[simp] theorem modLoom_me (s : State) (f : Loom → Loom) : (modLoom s f).me = s.me := rfl
@[simp] theorem modLoom_others (s : State) (f : Loom → Loom) : (modLoom s f).others = s.others := rfl
@[simp] theorem modLoom_tile (s : State) (f : Loom → Loom) : (modLoom s f).tile = s.tile := rfl
@[simp] theorem modLoom_otherTiles (s : State) (f : Loom → Loom) : (modLoom s f).otherTiles = s.otherTiles := rfl
@[simp] theorem modLoom_ctxs (s : State) (f : Loom → Loom) : (modLoom s f).ctxs = s.ctxs := rfl
@[simp] theorem modLoom_mem (s : State) (f : Loom → Loom) : (modLoom s f).mem = s.mem := rfl
@[simp] theorem modLoom_nd (s : State) (f : Loom → Loom) : (modLoom s f).nd = s.nd := rfl
@[simp] theorem modLoom_otherNd (s : State) (f : Loom → Loom) : (modLoom s f).otherNd = s.otherNd := rfl
@[simp] theorem modLoom_slots (s : State) (f : Loom → Loom) : (modLoom s f).slots = s.slots := rfl
@[simp] theorem modLoom_nextKick (s : State) (f : Loom → Loom) : (modLoom s f).nextKick = s.nextKick := rfl
@[simp] theorem modLoom_away (s : State) (f : Loom → Loom) : (modLoom s f).away = s.away := rfl
@[simp] theorem modLoom_zones (s : State) (f : Loom → Loom) : (modLoom s f).zones = s.zones := rfl
@[simp] theorem modLoom_fabric (s : State) (f : Loom → Loom) : (modLoom s f).fabric = s.fabric := rfl
@[simp] theorem modLoom_promos (s : State) (f : Loom → Loom) : (modLoom s f).promos = s.promos := rfl
@[simp] theorem modLoom_handovers (s : State) (f : Loom → Loom) : (modLoom s f).handovers = s.handovers := rfl
@[simp] theorem modLoom_hbm (s : State) (f : Loom → Loom) : (modLoom s f).hbm = s.hbm := rfl
@[simp] theorem modLoom_loom (s : State) (f : Loom → Loom) : (modLoom s f).loom = f s.loom := rfl
@[simp] theorem modLoom_module (s : State) (f : Loom → Loom) : (modLoom s f).module = s.module := rfl
@[simp] theorem modLoom_cycles (s : State) (f : Loom → Loom) : (modLoom s f).cycles = s.cycles := rfl
@[simp] theorem modLoom_lost (s : State) (f : Loom → Loom) : (modLoom s f).lost = s.lost := rfl

/-! ### modCtx -/

@[simp] theorem modCtx_agenda (s : State) (t : Nat) (f : Ctx → Ctx) : (modCtx s t f).agenda = s.agenda := rfl
@[simp] theorem modCtx_cur (s : State) (t : Nat) (f : Ctx → Ctx) : (modCtx s t f).cur = s.cur := rfl
@[simp] theorem modCtx_fresh (s : State) (t : Nat) (f : Ctx → Ctx) : (modCtx s t f).fresh = s.fresh := rfl
@[simp] theorem modCtx_me (s : State) (t : Nat) (f : Ctx → Ctx) : (modCtx s t f).me = s.me := rfl
@[simp] theorem modCtx_others (s : State) (t : Nat) (f : Ctx → Ctx) : (modCtx s t f).others = s.others := rfl
@[simp] theorem modCtx_tile (s : State) (t : Nat) (f : Ctx → Ctx) : (modCtx s t f).tile = s.tile := rfl
@[simp] theorem modCtx_otherTiles (s : State) (t : Nat) (f : Ctx → Ctx) : (modCtx s t f).otherTiles = s.otherTiles := rfl
@[simp] theorem modCtx_mem (s : State) (t : Nat) (f : Ctx → Ctx) : (modCtx s t f).mem = s.mem := rfl
@[simp] theorem modCtx_nd (s : State) (t : Nat) (f : Ctx → Ctx) : (modCtx s t f).nd = s.nd := rfl
@[simp] theorem modCtx_otherNd (s : State) (t : Nat) (f : Ctx → Ctx) : (modCtx s t f).otherNd = s.otherNd := rfl
@[simp] theorem modCtx_slots (s : State) (t : Nat) (f : Ctx → Ctx) : (modCtx s t f).slots = s.slots := rfl
@[simp] theorem modCtx_nextKick (s : State) (t : Nat) (f : Ctx → Ctx) : (modCtx s t f).nextKick = s.nextKick := rfl
@[simp] theorem modCtx_away (s : State) (t : Nat) (f : Ctx → Ctx) : (modCtx s t f).away = s.away := rfl
@[simp] theorem modCtx_zones (s : State) (t : Nat) (f : Ctx → Ctx) : (modCtx s t f).zones = s.zones := rfl
@[simp] theorem modCtx_fabric (s : State) (t : Nat) (f : Ctx → Ctx) : (modCtx s t f).fabric = s.fabric := rfl
@[simp] theorem modCtx_promos (s : State) (t : Nat) (f : Ctx → Ctx) : (modCtx s t f).promos = s.promos := rfl
@[simp] theorem modCtx_handovers (s : State) (t : Nat) (f : Ctx → Ctx) : (modCtx s t f).handovers = s.handovers := rfl
@[simp] theorem modCtx_hbm (s : State) (t : Nat) (f : Ctx → Ctx) : (modCtx s t f).hbm = s.hbm := rfl
@[simp] theorem modCtx_loom (s : State) (t : Nat) (f : Ctx → Ctx) : (modCtx s t f).loom = s.loom := rfl
@[simp] theorem modCtx_module (s : State) (t : Nat) (f : Ctx → Ctx) : (modCtx s t f).module = s.module := rfl
@[simp] theorem modCtx_cycles (s : State) (t : Nat) (f : Ctx → Ctx) : (modCtx s t f).cycles = s.cycles := rfl
@[simp] theorem modCtx_lost (s : State) (t : Nat) (f : Ctx → Ctx) : (modCtx s t f).lost = s.lost := rfl

/-! ### raise -/

@[simp] theorem raise_agenda (s : State) (f : FpFlags) : (raise s f).agenda = s.agenda := rfl
@[simp] theorem raise_cur (s : State) (f : FpFlags) : (raise s f).cur = s.cur := rfl
@[simp] theorem raise_fresh (s : State) (f : FpFlags) : (raise s f).fresh = s.fresh := rfl
@[simp] theorem raise_others (s : State) (f : FpFlags) : (raise s f).others = s.others := rfl
@[simp] theorem raise_tile (s : State) (f : FpFlags) : (raise s f).tile = s.tile := rfl
@[simp] theorem raise_otherTiles (s : State) (f : FpFlags) : (raise s f).otherTiles = s.otherTiles := rfl
@[simp] theorem raise_ctxs (s : State) (f : FpFlags) : (raise s f).ctxs = s.ctxs := rfl
@[simp] theorem raise_mem (s : State) (f : FpFlags) : (raise s f).mem = s.mem := rfl
@[simp] theorem raise_nd (s : State) (f : FpFlags) : (raise s f).nd = s.nd := rfl
@[simp] theorem raise_otherNd (s : State) (f : FpFlags) : (raise s f).otherNd = s.otherNd := rfl
@[simp] theorem raise_slots (s : State) (f : FpFlags) : (raise s f).slots = s.slots := rfl
@[simp] theorem raise_nextKick (s : State) (f : FpFlags) : (raise s f).nextKick = s.nextKick := rfl
@[simp] theorem raise_away (s : State) (f : FpFlags) : (raise s f).away = s.away := rfl
@[simp] theorem raise_zones (s : State) (f : FpFlags) : (raise s f).zones = s.zones := rfl
@[simp] theorem raise_fabric (s : State) (f : FpFlags) : (raise s f).fabric = s.fabric := rfl
@[simp] theorem raise_promos (s : State) (f : FpFlags) : (raise s f).promos = s.promos := rfl
@[simp] theorem raise_handovers (s : State) (f : FpFlags) : (raise s f).handovers = s.handovers := rfl
@[simp] theorem raise_hbm (s : State) (f : FpFlags) : (raise s f).hbm = s.hbm := rfl
@[simp] theorem raise_loom (s : State) (f : FpFlags) : (raise s f).loom = s.loom := rfl
@[simp] theorem raise_module (s : State) (f : FpFlags) : (raise s f).module = s.module := rfl
@[simp] theorem raise_cycles (s : State) (f : FpFlags) : (raise s f).cycles = s.cycles := rfl
@[simp] theorem raise_lost (s : State) (f : FpFlags) : (raise s f).lost = s.lost := rfl

/-! ### tickTo -/

@[simp] theorem tickTo_agenda (s : State) (c : Nat) : (tickTo s c).agenda = s.agenda := rfl
@[simp] theorem tickTo_cur (s : State) (c : Nat) : (tickTo s c).cur = s.cur := rfl
@[simp] theorem tickTo_fresh (s : State) (c : Nat) : (tickTo s c).fresh = s.fresh := rfl
@[simp] theorem tickTo_me (s : State) (c : Nat) : (tickTo s c).me = s.me := rfl
@[simp] theorem tickTo_others (s : State) (c : Nat) : (tickTo s c).others = s.others := rfl
@[simp] theorem tickTo_tile (s : State) (c : Nat) : (tickTo s c).tile = s.tile := rfl
@[simp] theorem tickTo_otherTiles (s : State) (c : Nat) : (tickTo s c).otherTiles = s.otherTiles := rfl
@[simp] theorem tickTo_ctxs (s : State) (c : Nat) : (tickTo s c).ctxs = s.ctxs := rfl
@[simp] theorem tickTo_mem (s : State) (c : Nat) : (tickTo s c).mem = s.mem := rfl
@[simp] theorem tickTo_nd (s : State) (c : Nat) : (tickTo s c).nd = s.nd := rfl
@[simp] theorem tickTo_otherNd (s : State) (c : Nat) : (tickTo s c).otherNd = s.otherNd := rfl
@[simp] theorem tickTo_slots (s : State) (c : Nat) : (tickTo s c).slots = s.slots := rfl
@[simp] theorem tickTo_nextKick (s : State) (c : Nat) : (tickTo s c).nextKick = s.nextKick := rfl
@[simp] theorem tickTo_away (s : State) (c : Nat) : (tickTo s c).away = s.away := rfl
@[simp] theorem tickTo_zones (s : State) (c : Nat) : (tickTo s c).zones = s.zones := rfl
@[simp] theorem tickTo_fabric (s : State) (c : Nat) : (tickTo s c).fabric = s.fabric := rfl
@[simp] theorem tickTo_promos (s : State) (c : Nat) : (tickTo s c).promos = s.promos := rfl
@[simp] theorem tickTo_handovers (s : State) (c : Nat) : (tickTo s c).handovers = s.handovers := rfl
@[simp] theorem tickTo_hbm (s : State) (c : Nat) : (tickTo s c).hbm = s.hbm := rfl
@[simp] theorem tickTo_loom (s : State) (c : Nat) : (tickTo s c).loom = s.loom := rfl
@[simp] theorem tickTo_module (s : State) (c : Nat) : (tickTo s c).module = s.module := rfl
@[simp] theorem tickTo_cycles (s : State) (c : Nat) : (tickTo s c).cycles = Nat.max s.cycles c := rfl
@[simp] theorem tickTo_lost (s : State) (c : Nat) : (tickTo s c).lost = s.lost := rfl

/-! ### Composition -/

@[simp] theorem modMe_modMe (s : State) (f g : Shuttle → Shuttle) : modMe (modMe s f) g = modMe s (fun h => g (f h)) := rfl
@[simp] theorem modTile_modTile (s : State) (f g : Tile → Tile) : modTile (modTile s f) g = modTile s (fun x => g (f x)) := rfl
@[simp] theorem modMem_modMem (s : State) (f g : MemSys → MemSys) : modMem (modMem s f) g = modMem s (fun x => g (f x)) := rfl
@[simp] theorem modMe_id (s : State) : modMe s (fun h => h) = s := rfl

/-! ### The registers of a shuttle (R44, R89, R103) -/

@[simp] theorem setG_place (h : Shuttle) (r : BitVec 5) (x : Word) : (setG h r x).place = h.place := by unfold setG; split <;> rfl
@[simp] theorem setG_life (h : Shuttle) (r : BitVec 5) (x : Word) : (setG h r x).life = h.life := by unfold setG; split <;> rfl
@[simp] theorem setG_priv (h : Shuttle) (r : BitVec 5) (x : Word) : (setG h r x).priv = h.priv := by unfold setG; split <;> rfl
@[simp] theorem setG_tenant (h : Shuttle) (r : BitVec 5) (x : Word) : (setG h r x).tenant = h.tenant := by unfold setG; split <;> rfl
@[simp] theorem setG_team (h : Shuttle) (r : BitVec 5) (x : Word) : (setG h r x).team = h.team := by unfold setG; split <;> rfl
@[simp] theorem setG_ordinal (h : Shuttle) (r : BitVec 5) (x : Word) : (setG h r x).ordinal = h.ordinal := by unfold setG; split <;> rfl
@[simp] theorem setG_vtile (h : Shuttle) (r : BitVec 5) (x : Word) : (setG h r x).vtile = h.vtile := by unfold setG; split <;> rfl
@[simp] theorem setG_kern (h : Shuttle) (r : BitVec 5) (x : Word) : (setG h r x).kern = h.kern := by unfold setG; split <;> rfl
@[simp] theorem setG_argBase (h : Shuttle) (r : BitVec 5) (x : Word) : (setG h r x).argBase = h.argBase := by unfold setG; split <;> rfl
@[simp] theorem setG_teamWin (h : Shuttle) (r : BitVec 5) (x : Word) : (setG h r x).teamWin = h.teamWin := by unfold setG; split <;> rfl
@[simp] theorem setG_lvlIdx (h : Shuttle) (r : BitVec 5) (x : Word) : (setG h r x).lvlIdx = h.lvlIdx := by unfold setG; split <;> rfl
@[simp] theorem setG_lvlExt (h : Shuttle) (r : BitVec 5) (x : Word) : (setG h r x).lvlExt = h.lvlExt := by unfold setG; split <;> rfl
@[simp] theorem setG_climb (h : Shuttle) (r : BitVec 5) (x : Word) : (setG h r x).climb = h.climb := by unfold setG; split <;> rfl
@[simp] theorem setG_paired (h : Shuttle) (r : BitVec 5) (x : Word) : (setG h r x).paired = h.paired := by unfold setG; split <;> rfl
@[simp] theorem setG_band (h : Shuttle) (r : BitVec 5) (x : Word) : (setG h r x).band = h.band := by unfold setG; split <;> rfl
@[simp] theorem setG_launch (h : Shuttle) (r : BitVec 5) (x : Word) : (setG h r x).launch = h.launch := by unfold setG; split <;> rfl
@[simp] theorem setG_pc (h : Shuttle) (r : BitVec 5) (x : Word) : (setG h r x).pc = h.pc := by unfold setG; split <;> rfl
@[simp] theorem setG_hand (h : Shuttle) (r : BitVec 5) (x : Word) : (setG h r x).hand = h.hand := by unfold setG; split <;> rfl
@[simp] theorem setG_delay (h : Shuttle) (r : BitVec 5) (x : Word) : (setG h r x).delay = h.delay := by unfold setG; split <;> rfl
@[simp] theorem setG_b (h : Shuttle) (r : BitVec 5) (x : Word) : (setG h r x).b = h.b := by unfold setG; split <;> rfl
@[simp] theorem setG_p (h : Shuttle) (r : BitVec 5) (x : Word) : (setG h r x).p = h.p := by unfold setG; split <;> rfl
@[simp] theorem setG_vp (h : Shuttle) (r : BitVec 5) (x : Word) : (setG h r x).vp = h.vp := by unfold setG; split <;> rfl
@[simp] theorem setG_v (h : Shuttle) (r : BitVec 5) (x : Word) : (setG h r x).v = h.v := by unfold setG; split <;> rfl
@[simp] theorem setG_vOld (h : Shuttle) (r : BitVec 5) (x : Word) : (setG h r x).vOld = h.vOld := by unfold setG; split <;> rfl
@[simp] theorem setG_vInuse (h : Shuttle) (r : BitVec 5) (x : Word) : (setG h r x).vInuse = h.vInuse := by unfold setG; split <;> rfl
@[simp] theorem setG_vDirty (h : Shuttle) (r : BitVec 5) (x : Word) : (setG h r x).vDirty = h.vDirty := by unfold setG; split <;> rfl
@[simp] theorem setG_pInuse (h : Shuttle) (r : BitVec 5) (x : Word) : (setG h r x).pInuse = h.pInuse := by unfold setG; split <;> rfl
@[simp] theorem setG_ring (h : Shuttle) (r : BitVec 5) (x : Word) : (setG h r x).ring = h.ring := by unfold setG; split <;> rfl
@[simp] theorem setG_rows (h : Shuttle) (r : BitVec 5) (x : Word) : (setG h r x).rows = h.rows := by unfold setG; split <;> rfl
@[simp] theorem setG_cols (h : Shuttle) (r : BitVec 5) (x : Word) : (setG h r x).cols = h.cols := by unfold setG; split <;> rfl
@[simp] theorem setG_vpend (h : Shuttle) (r : BitVec 5) (x : Word) : (setG h r x).vpend = h.vpend := by unfold setG; split <;> rfl
@[simp] theorem setG_ppend (h : Shuttle) (r : BitVec 5) (x : Word) : (setG h r x).ppend = h.ppend := by unfold setG; split <;> rfl
@[simp] theorem setG_rpend (h : Shuttle) (r : BitVec 5) (x : Word) : (setG h r x).rpend = h.rpend := by unfold setG; split <;> rfl
@[simp] theorem setG_reserved (h : Shuttle) (r : BitVec 5) (x : Word) : (setG h r x).reserved = h.reserved := by unfold setG; split <;> rfl
@[simp] theorem setG_s (h : Shuttle) (r : BitVec 5) (x : Word) : (setG h r x).s = h.s := by unfold setG; split <;> rfl
@[simp] theorem setG_tok (h : Shuttle) (r : BitVec 5) (x : Word) : (setG h r x).tok = h.tok := by unfold setG; split <;> rfl
@[simp] theorem setG_str (h : Shuttle) (r : BitVec 5) (x : Word) : (setG h r x).str = h.str := by unfold setG; split <;> rfl
@[simp] theorem setG_vec (h : Shuttle) (r : BitVec 5) (x : Word) : (setG h r x).vec = h.vec := by unfold setG; split <;> rfl
@[simp] theorem setG_mtx (h : Shuttle) (r : BitVec 5) (x : Word) : (setG h r x).mtx = h.mtx := by unfold setG; split <;> rfl
@[simp] theorem setG_tagReady (h : Shuttle) (r : BitVec 5) (x : Word) : (setG h r x).tagReady = h.tagReady := by unfold setG; split <;> rfl
@[simp] theorem setG_tagBytes (h : Shuttle) (r : BitVec 5) (x : Word) : (setG h r x).tagBytes = h.tagBytes := by unfold setG; split <;> rfl
@[simp] theorem setG_copies (h : Shuttle) (r : BitVec 5) (x : Word) : (setG h r x).copies = h.copies := by unfold setG; split <;> rfl
@[simp] theorem setG_fpflags (h : Shuttle) (r : BitVec 5) (x : Word) : (setG h r x).fpflags = h.fpflags := by unfold setG; split <;> rfl
@[simp] theorem setG_trapPc (h : Shuttle) (r : BitVec 5) (x : Word) : (setG h r x).trapPc = h.trapPc := by unfold setG; split <;> rfl
@[simp] theorem setG_trapCode (h : Shuttle) (r : BitVec 5) (x : Word) : (setG h r x).trapCode = h.trapCode := by unfold setG; split <;> rfl
@[simp] theorem setG_trapVa (h : Shuttle) (r : BitVec 5) (x : Word) : (setG h r x).trapVa = h.trapVa := by unfold setG; split <;> rfl
@[simp] theorem setG_trapVec (h : Shuttle) (r : BitVec 5) (x : Word) : (setG h r x).trapVec = h.trapVec := by unfold setG; split <;> rfl
@[simp] theorem setG_dueTrap (h : Shuttle) (r : BitVec 5) (x : Word) : (setG h r x).dueTrap = h.dueTrap := by unfold setG; split <;> rfl
@[simp] theorem setG_held (h : Shuttle) (r : BitVec 5) (x : Word) : (setG h r x).held = h.held := by unfold setG; split <;> rfl
@[simp] theorem setG_wait (h : Shuttle) (r : BitVec 5) (x : Word) : (setG h r x).wait = h.wait := by unfold setG; split <;> rfl
@[simp] theorem setG_popped (h : Shuttle) (r : BitVec 5) (x : Word) : (setG h r x).popped = h.popped := by unfold setG; split <;> rfl
@[simp] theorem setG_ctl (h : Shuttle) (r : BitVec 5) (x : Word) : (setG h r x).ctl = h.ctl := by unfold setG; split <;> rfl
@[simp] theorem setG_lastInter (h : Shuttle) (r : BitVec 5) (x : Word) : (setG h r x).lastInter = h.lastInter := by unfold setG; split <;> rfl
@[simp] theorem setG_crossing (h : Shuttle) (r : BitVec 5) (x : Word) : (setG h r x).crossing = h.crossing := by unfold setG; split <;> rfl
@[simp] theorem setG_pend (h : Shuttle) (r : BitVec 5) (x : Word) : (setG h r x).pend = h.pend := by unfold setG; split <;> rfl
@[simp] theorem setG_late (h : Shuttle) (r : BitVec 5) (x : Word) : (setG h r x).late = h.late := by unfold setG; split <;> rfl
@[simp] theorem setG_stores (h : Shuttle) (r : BitVec 5) (x : Word) : (setG h r x).stores = h.stores := by unfold setG; split <;> rfl
@[simp] theorem setG_clock (h : Shuttle) (r : BitVec 5) (x : Word) : (setG h r x).clock = h.clock := by unfold setG; split <;> rfl
@[simp] theorem setG_stopReq (h : Shuttle) (r : BitVec 5) (x : Word) : (setG h r x).stopReq = h.stopReq := by unfold setG; split <;> rfl
@[simp] theorem setG_fresh (h : Shuttle) (r : BitVec 5) (x : Word) : (setG h r x).fresh = h.fresh := by unfold setG; split <;> rfl
@[simp] theorem setG_issued (h : Shuttle) (r : BitVec 5) (x : Word) : (setG h r x).issued = h.issued := by unfold setG; split <;> rfl
@[simp] theorem setG_exiting (h : Shuttle) (r : BitVec 5) (x : Word) : (setG h r x).exiting = h.exiting := by unfold setG; split <;> rfl
@[simp] theorem setG_holdBuf (h : Shuttle) (r : BitVec 5) (x : Word) : (setG h r x).holdBuf = h.holdBuf := by unfold setG; split <;> rfl
@[simp] theorem setG_atomLog (h : Shuttle) (r : BitVec 5) (x : Word) : (setG h r x).atomLog = h.atomLog := by unfold setG; split <;> rfl
@[simp] theorem setG_replay (h : Shuttle) (r : BitVec 5) (x : Word) : (setG h r x).replay = h.replay := by unfold setG; split <;> rfl
@[simp] theorem setG_shared (h : Shuttle) (r : BitVec 5) (x : Word) : (setG h r x).shared = h.shared := by unfold setG; split <;> rfl
@[simp] theorem setG_retried (h : Shuttle) (r : BitVec 5) (x : Word) : (setG h r x).retried = h.retried := by unfold setG; split <;> rfl
@[simp] theorem setG_compareDue (h : Shuttle) (r : BitVec 5) (x : Word) : (setG h r x).compareDue = h.compareDue := by unfold setG; split <;> rfl
@[simp] theorem setG_compareOk (h : Shuttle) (r : BitVec 5) (x : Word) : (setG h r x).compareOk = h.compareOk := by unfold setG; split <;> rfl
@[simp] theorem setG_fetched (h : Shuttle) (r : BitVec 5) (x : Word) : (setG h r x).fetched = h.fetched := by unfold setG; split <;> rfl
@[simp] theorem setG_vdue (h : Shuttle) (r : BitVec 5) (x : Word) : (setG h r x).vdue = h.vdue := by unfold setG; split <;> rfl

@[simp] theorem setP_place (h : Shuttle) (r : BitVec 6) (x : Bool) : (setP h r x).place = h.place := by unfold setP; split <;> rfl
@[simp] theorem setP_life (h : Shuttle) (r : BitVec 6) (x : Bool) : (setP h r x).life = h.life := by unfold setP; split <;> rfl
@[simp] theorem setP_priv (h : Shuttle) (r : BitVec 6) (x : Bool) : (setP h r x).priv = h.priv := by unfold setP; split <;> rfl
@[simp] theorem setP_tenant (h : Shuttle) (r : BitVec 6) (x : Bool) : (setP h r x).tenant = h.tenant := by unfold setP; split <;> rfl
@[simp] theorem setP_team (h : Shuttle) (r : BitVec 6) (x : Bool) : (setP h r x).team = h.team := by unfold setP; split <;> rfl
@[simp] theorem setP_ordinal (h : Shuttle) (r : BitVec 6) (x : Bool) : (setP h r x).ordinal = h.ordinal := by unfold setP; split <;> rfl
@[simp] theorem setP_vtile (h : Shuttle) (r : BitVec 6) (x : Bool) : (setP h r x).vtile = h.vtile := by unfold setP; split <;> rfl
@[simp] theorem setP_kern (h : Shuttle) (r : BitVec 6) (x : Bool) : (setP h r x).kern = h.kern := by unfold setP; split <;> rfl
@[simp] theorem setP_argBase (h : Shuttle) (r : BitVec 6) (x : Bool) : (setP h r x).argBase = h.argBase := by unfold setP; split <;> rfl
@[simp] theorem setP_teamWin (h : Shuttle) (r : BitVec 6) (x : Bool) : (setP h r x).teamWin = h.teamWin := by unfold setP; split <;> rfl
@[simp] theorem setP_lvlIdx (h : Shuttle) (r : BitVec 6) (x : Bool) : (setP h r x).lvlIdx = h.lvlIdx := by unfold setP; split <;> rfl
@[simp] theorem setP_lvlExt (h : Shuttle) (r : BitVec 6) (x : Bool) : (setP h r x).lvlExt = h.lvlExt := by unfold setP; split <;> rfl
@[simp] theorem setP_climb (h : Shuttle) (r : BitVec 6) (x : Bool) : (setP h r x).climb = h.climb := by unfold setP; split <;> rfl
@[simp] theorem setP_paired (h : Shuttle) (r : BitVec 6) (x : Bool) : (setP h r x).paired = h.paired := by unfold setP; split <;> rfl
@[simp] theorem setP_band (h : Shuttle) (r : BitVec 6) (x : Bool) : (setP h r x).band = h.band := by unfold setP; split <;> rfl
@[simp] theorem setP_launch (h : Shuttle) (r : BitVec 6) (x : Bool) : (setP h r x).launch = h.launch := by unfold setP; split <;> rfl
@[simp] theorem setP_pc (h : Shuttle) (r : BitVec 6) (x : Bool) : (setP h r x).pc = h.pc := by unfold setP; split <;> rfl
@[simp] theorem setP_hand (h : Shuttle) (r : BitVec 6) (x : Bool) : (setP h r x).hand = h.hand := by unfold setP; split <;> rfl
@[simp] theorem setP_delay (h : Shuttle) (r : BitVec 6) (x : Bool) : (setP h r x).delay = h.delay := by unfold setP; split <;> rfl
@[simp] theorem setP_g (h : Shuttle) (r : BitVec 6) (x : Bool) : (setP h r x).g = h.g := by unfold setP; split <;> rfl
@[simp] theorem setP_b (h : Shuttle) (r : BitVec 6) (x : Bool) : (setP h r x).b = h.b := by unfold setP; split <;> rfl
@[simp] theorem setP_vp (h : Shuttle) (r : BitVec 6) (x : Bool) : (setP h r x).vp = h.vp := by unfold setP; split <;> rfl
@[simp] theorem setP_v (h : Shuttle) (r : BitVec 6) (x : Bool) : (setP h r x).v = h.v := by unfold setP; split <;> rfl
@[simp] theorem setP_vOld (h : Shuttle) (r : BitVec 6) (x : Bool) : (setP h r x).vOld = h.vOld := by unfold setP; split <;> rfl
@[simp] theorem setP_vInuse (h : Shuttle) (r : BitVec 6) (x : Bool) : (setP h r x).vInuse = h.vInuse := by unfold setP; split <;> rfl
@[simp] theorem setP_vDirty (h : Shuttle) (r : BitVec 6) (x : Bool) : (setP h r x).vDirty = h.vDirty := by unfold setP; split <;> rfl
@[simp] theorem setP_pInuse (h : Shuttle) (r : BitVec 6) (x : Bool) : (setP h r x).pInuse = h.pInuse := by unfold setP; split <;> rfl
@[simp] theorem setP_ring (h : Shuttle) (r : BitVec 6) (x : Bool) : (setP h r x).ring = h.ring := by unfold setP; split <;> rfl
@[simp] theorem setP_rows (h : Shuttle) (r : BitVec 6) (x : Bool) : (setP h r x).rows = h.rows := by unfold setP; split <;> rfl
@[simp] theorem setP_cols (h : Shuttle) (r : BitVec 6) (x : Bool) : (setP h r x).cols = h.cols := by unfold setP; split <;> rfl
@[simp] theorem setP_vpend (h : Shuttle) (r : BitVec 6) (x : Bool) : (setP h r x).vpend = h.vpend := by unfold setP; split <;> rfl
@[simp] theorem setP_ppend (h : Shuttle) (r : BitVec 6) (x : Bool) : (setP h r x).ppend = h.ppend := by unfold setP; split <;> rfl
@[simp] theorem setP_rpend (h : Shuttle) (r : BitVec 6) (x : Bool) : (setP h r x).rpend = h.rpend := by unfold setP; split <;> rfl
@[simp] theorem setP_reserved (h : Shuttle) (r : BitVec 6) (x : Bool) : (setP h r x).reserved = h.reserved := by unfold setP; split <;> rfl
@[simp] theorem setP_s (h : Shuttle) (r : BitVec 6) (x : Bool) : (setP h r x).s = h.s := by unfold setP; split <;> rfl
@[simp] theorem setP_tok (h : Shuttle) (r : BitVec 6) (x : Bool) : (setP h r x).tok = h.tok := by unfold setP; split <;> rfl
@[simp] theorem setP_str (h : Shuttle) (r : BitVec 6) (x : Bool) : (setP h r x).str = h.str := by unfold setP; split <;> rfl
@[simp] theorem setP_vec (h : Shuttle) (r : BitVec 6) (x : Bool) : (setP h r x).vec = h.vec := by unfold setP; split <;> rfl
@[simp] theorem setP_mtx (h : Shuttle) (r : BitVec 6) (x : Bool) : (setP h r x).mtx = h.mtx := by unfold setP; split <;> rfl
@[simp] theorem setP_tagReady (h : Shuttle) (r : BitVec 6) (x : Bool) : (setP h r x).tagReady = h.tagReady := by unfold setP; split <;> rfl
@[simp] theorem setP_tagBytes (h : Shuttle) (r : BitVec 6) (x : Bool) : (setP h r x).tagBytes = h.tagBytes := by unfold setP; split <;> rfl
@[simp] theorem setP_copies (h : Shuttle) (r : BitVec 6) (x : Bool) : (setP h r x).copies = h.copies := by unfold setP; split <;> rfl
@[simp] theorem setP_fpflags (h : Shuttle) (r : BitVec 6) (x : Bool) : (setP h r x).fpflags = h.fpflags := by unfold setP; split <;> rfl
@[simp] theorem setP_trapPc (h : Shuttle) (r : BitVec 6) (x : Bool) : (setP h r x).trapPc = h.trapPc := by unfold setP; split <;> rfl
@[simp] theorem setP_trapCode (h : Shuttle) (r : BitVec 6) (x : Bool) : (setP h r x).trapCode = h.trapCode := by unfold setP; split <;> rfl
@[simp] theorem setP_trapVa (h : Shuttle) (r : BitVec 6) (x : Bool) : (setP h r x).trapVa = h.trapVa := by unfold setP; split <;> rfl
@[simp] theorem setP_trapVec (h : Shuttle) (r : BitVec 6) (x : Bool) : (setP h r x).trapVec = h.trapVec := by unfold setP; split <;> rfl
@[simp] theorem setP_dueTrap (h : Shuttle) (r : BitVec 6) (x : Bool) : (setP h r x).dueTrap = h.dueTrap := by unfold setP; split <;> rfl
@[simp] theorem setP_held (h : Shuttle) (r : BitVec 6) (x : Bool) : (setP h r x).held = h.held := by unfold setP; split <;> rfl
@[simp] theorem setP_wait (h : Shuttle) (r : BitVec 6) (x : Bool) : (setP h r x).wait = h.wait := by unfold setP; split <;> rfl
@[simp] theorem setP_popped (h : Shuttle) (r : BitVec 6) (x : Bool) : (setP h r x).popped = h.popped := by unfold setP; split <;> rfl
@[simp] theorem setP_ctl (h : Shuttle) (r : BitVec 6) (x : Bool) : (setP h r x).ctl = h.ctl := by unfold setP; split <;> rfl
@[simp] theorem setP_lastInter (h : Shuttle) (r : BitVec 6) (x : Bool) : (setP h r x).lastInter = h.lastInter := by unfold setP; split <;> rfl
@[simp] theorem setP_crossing (h : Shuttle) (r : BitVec 6) (x : Bool) : (setP h r x).crossing = h.crossing := by unfold setP; split <;> rfl
@[simp] theorem setP_pend (h : Shuttle) (r : BitVec 6) (x : Bool) : (setP h r x).pend = h.pend := by unfold setP; split <;> rfl
@[simp] theorem setP_late (h : Shuttle) (r : BitVec 6) (x : Bool) : (setP h r x).late = h.late := by unfold setP; split <;> rfl
@[simp] theorem setP_stores (h : Shuttle) (r : BitVec 6) (x : Bool) : (setP h r x).stores = h.stores := by unfold setP; split <;> rfl
@[simp] theorem setP_clock (h : Shuttle) (r : BitVec 6) (x : Bool) : (setP h r x).clock = h.clock := by unfold setP; split <;> rfl
@[simp] theorem setP_stopReq (h : Shuttle) (r : BitVec 6) (x : Bool) : (setP h r x).stopReq = h.stopReq := by unfold setP; split <;> rfl
@[simp] theorem setP_fresh (h : Shuttle) (r : BitVec 6) (x : Bool) : (setP h r x).fresh = h.fresh := by unfold setP; split <;> rfl
@[simp] theorem setP_issued (h : Shuttle) (r : BitVec 6) (x : Bool) : (setP h r x).issued = h.issued := by unfold setP; split <;> rfl
@[simp] theorem setP_exiting (h : Shuttle) (r : BitVec 6) (x : Bool) : (setP h r x).exiting = h.exiting := by unfold setP; split <;> rfl
@[simp] theorem setP_holdBuf (h : Shuttle) (r : BitVec 6) (x : Bool) : (setP h r x).holdBuf = h.holdBuf := by unfold setP; split <;> rfl
@[simp] theorem setP_atomLog (h : Shuttle) (r : BitVec 6) (x : Bool) : (setP h r x).atomLog = h.atomLog := by unfold setP; split <;> rfl
@[simp] theorem setP_replay (h : Shuttle) (r : BitVec 6) (x : Bool) : (setP h r x).replay = h.replay := by unfold setP; split <;> rfl
@[simp] theorem setP_shared (h : Shuttle) (r : BitVec 6) (x : Bool) : (setP h r x).shared = h.shared := by unfold setP; split <;> rfl
@[simp] theorem setP_retried (h : Shuttle) (r : BitVec 6) (x : Bool) : (setP h r x).retried = h.retried := by unfold setP; split <;> rfl
@[simp] theorem setP_compareDue (h : Shuttle) (r : BitVec 6) (x : Bool) : (setP h r x).compareDue = h.compareDue := by unfold setP; split <;> rfl
@[simp] theorem setP_compareOk (h : Shuttle) (r : BitVec 6) (x : Bool) : (setP h r x).compareOk = h.compareOk := by unfold setP; split <;> rfl
@[simp] theorem setP_fetched (h : Shuttle) (r : BitVec 6) (x : Bool) : (setP h r x).fetched = h.fetched := by unfold setP; split <;> rfl
@[simp] theorem setP_vdue (h : Shuttle) (r : BitVec 6) (x : Bool) : (setP h r x).vdue = h.vdue := by unfold setP; split <;> rfl

@[simp] theorem setB_place (h : Shuttle) (r : BitVec 2) (x : BReg) : (setB h r x).place = h.place := rfl
@[simp] theorem setB_life (h : Shuttle) (r : BitVec 2) (x : BReg) : (setB h r x).life = h.life := rfl
@[simp] theorem setB_priv (h : Shuttle) (r : BitVec 2) (x : BReg) : (setB h r x).priv = h.priv := rfl
@[simp] theorem setB_tenant (h : Shuttle) (r : BitVec 2) (x : BReg) : (setB h r x).tenant = h.tenant := rfl
@[simp] theorem setB_team (h : Shuttle) (r : BitVec 2) (x : BReg) : (setB h r x).team = h.team := rfl
@[simp] theorem setB_ordinal (h : Shuttle) (r : BitVec 2) (x : BReg) : (setB h r x).ordinal = h.ordinal := rfl
@[simp] theorem setB_vtile (h : Shuttle) (r : BitVec 2) (x : BReg) : (setB h r x).vtile = h.vtile := rfl
@[simp] theorem setB_kern (h : Shuttle) (r : BitVec 2) (x : BReg) : (setB h r x).kern = h.kern := rfl
@[simp] theorem setB_argBase (h : Shuttle) (r : BitVec 2) (x : BReg) : (setB h r x).argBase = h.argBase := rfl
@[simp] theorem setB_teamWin (h : Shuttle) (r : BitVec 2) (x : BReg) : (setB h r x).teamWin = h.teamWin := rfl
@[simp] theorem setB_lvlIdx (h : Shuttle) (r : BitVec 2) (x : BReg) : (setB h r x).lvlIdx = h.lvlIdx := rfl
@[simp] theorem setB_lvlExt (h : Shuttle) (r : BitVec 2) (x : BReg) : (setB h r x).lvlExt = h.lvlExt := rfl
@[simp] theorem setB_climb (h : Shuttle) (r : BitVec 2) (x : BReg) : (setB h r x).climb = h.climb := rfl
@[simp] theorem setB_paired (h : Shuttle) (r : BitVec 2) (x : BReg) : (setB h r x).paired = h.paired := rfl
@[simp] theorem setB_band (h : Shuttle) (r : BitVec 2) (x : BReg) : (setB h r x).band = h.band := rfl
@[simp] theorem setB_launch (h : Shuttle) (r : BitVec 2) (x : BReg) : (setB h r x).launch = h.launch := rfl
@[simp] theorem setB_pc (h : Shuttle) (r : BitVec 2) (x : BReg) : (setB h r x).pc = h.pc := rfl
@[simp] theorem setB_hand (h : Shuttle) (r : BitVec 2) (x : BReg) : (setB h r x).hand = h.hand := rfl
@[simp] theorem setB_delay (h : Shuttle) (r : BitVec 2) (x : BReg) : (setB h r x).delay = h.delay := rfl
@[simp] theorem setB_g (h : Shuttle) (r : BitVec 2) (x : BReg) : (setB h r x).g = h.g := rfl
@[simp] theorem setB_p (h : Shuttle) (r : BitVec 2) (x : BReg) : (setB h r x).p = h.p := rfl
@[simp] theorem setB_vp (h : Shuttle) (r : BitVec 2) (x : BReg) : (setB h r x).vp = h.vp := rfl
@[simp] theorem setB_v (h : Shuttle) (r : BitVec 2) (x : BReg) : (setB h r x).v = h.v := rfl
@[simp] theorem setB_vOld (h : Shuttle) (r : BitVec 2) (x : BReg) : (setB h r x).vOld = h.vOld := rfl
@[simp] theorem setB_vInuse (h : Shuttle) (r : BitVec 2) (x : BReg) : (setB h r x).vInuse = h.vInuse := rfl
@[simp] theorem setB_vDirty (h : Shuttle) (r : BitVec 2) (x : BReg) : (setB h r x).vDirty = h.vDirty := rfl
@[simp] theorem setB_pInuse (h : Shuttle) (r : BitVec 2) (x : BReg) : (setB h r x).pInuse = h.pInuse := rfl
@[simp] theorem setB_ring (h : Shuttle) (r : BitVec 2) (x : BReg) : (setB h r x).ring = h.ring := rfl
@[simp] theorem setB_rows (h : Shuttle) (r : BitVec 2) (x : BReg) : (setB h r x).rows = h.rows := rfl
@[simp] theorem setB_cols (h : Shuttle) (r : BitVec 2) (x : BReg) : (setB h r x).cols = h.cols := rfl
@[simp] theorem setB_vpend (h : Shuttle) (r : BitVec 2) (x : BReg) : (setB h r x).vpend = h.vpend := rfl
@[simp] theorem setB_ppend (h : Shuttle) (r : BitVec 2) (x : BReg) : (setB h r x).ppend = h.ppend := rfl
@[simp] theorem setB_rpend (h : Shuttle) (r : BitVec 2) (x : BReg) : (setB h r x).rpend = h.rpend := rfl
@[simp] theorem setB_reserved (h : Shuttle) (r : BitVec 2) (x : BReg) : (setB h r x).reserved = h.reserved := rfl
@[simp] theorem setB_s (h : Shuttle) (r : BitVec 2) (x : BReg) : (setB h r x).s = h.s := rfl
@[simp] theorem setB_tok (h : Shuttle) (r : BitVec 2) (x : BReg) : (setB h r x).tok = h.tok := rfl
@[simp] theorem setB_str (h : Shuttle) (r : BitVec 2) (x : BReg) : (setB h r x).str = h.str := rfl
@[simp] theorem setB_vec (h : Shuttle) (r : BitVec 2) (x : BReg) : (setB h r x).vec = h.vec := rfl
@[simp] theorem setB_mtx (h : Shuttle) (r : BitVec 2) (x : BReg) : (setB h r x).mtx = h.mtx := rfl
@[simp] theorem setB_tagReady (h : Shuttle) (r : BitVec 2) (x : BReg) : (setB h r x).tagReady = h.tagReady := rfl
@[simp] theorem setB_tagBytes (h : Shuttle) (r : BitVec 2) (x : BReg) : (setB h r x).tagBytes = h.tagBytes := rfl
@[simp] theorem setB_copies (h : Shuttle) (r : BitVec 2) (x : BReg) : (setB h r x).copies = h.copies := rfl
@[simp] theorem setB_fpflags (h : Shuttle) (r : BitVec 2) (x : BReg) : (setB h r x).fpflags = h.fpflags := rfl
@[simp] theorem setB_trapPc (h : Shuttle) (r : BitVec 2) (x : BReg) : (setB h r x).trapPc = h.trapPc := rfl
@[simp] theorem setB_trapCode (h : Shuttle) (r : BitVec 2) (x : BReg) : (setB h r x).trapCode = h.trapCode := rfl
@[simp] theorem setB_trapVa (h : Shuttle) (r : BitVec 2) (x : BReg) : (setB h r x).trapVa = h.trapVa := rfl
@[simp] theorem setB_trapVec (h : Shuttle) (r : BitVec 2) (x : BReg) : (setB h r x).trapVec = h.trapVec := rfl
@[simp] theorem setB_dueTrap (h : Shuttle) (r : BitVec 2) (x : BReg) : (setB h r x).dueTrap = h.dueTrap := rfl
@[simp] theorem setB_held (h : Shuttle) (r : BitVec 2) (x : BReg) : (setB h r x).held = h.held := rfl
@[simp] theorem setB_wait (h : Shuttle) (r : BitVec 2) (x : BReg) : (setB h r x).wait = h.wait := rfl
@[simp] theorem setB_popped (h : Shuttle) (r : BitVec 2) (x : BReg) : (setB h r x).popped = h.popped := rfl
@[simp] theorem setB_ctl (h : Shuttle) (r : BitVec 2) (x : BReg) : (setB h r x).ctl = h.ctl := rfl
@[simp] theorem setB_lastInter (h : Shuttle) (r : BitVec 2) (x : BReg) : (setB h r x).lastInter = h.lastInter := rfl
@[simp] theorem setB_crossing (h : Shuttle) (r : BitVec 2) (x : BReg) : (setB h r x).crossing = h.crossing := rfl
@[simp] theorem setB_pend (h : Shuttle) (r : BitVec 2) (x : BReg) : (setB h r x).pend = h.pend := rfl
@[simp] theorem setB_late (h : Shuttle) (r : BitVec 2) (x : BReg) : (setB h r x).late = h.late := rfl
@[simp] theorem setB_stores (h : Shuttle) (r : BitVec 2) (x : BReg) : (setB h r x).stores = h.stores := rfl
@[simp] theorem setB_clock (h : Shuttle) (r : BitVec 2) (x : BReg) : (setB h r x).clock = h.clock := rfl
@[simp] theorem setB_stopReq (h : Shuttle) (r : BitVec 2) (x : BReg) : (setB h r x).stopReq = h.stopReq := rfl
@[simp] theorem setB_fresh (h : Shuttle) (r : BitVec 2) (x : BReg) : (setB h r x).fresh = h.fresh := rfl
@[simp] theorem setB_issued (h : Shuttle) (r : BitVec 2) (x : BReg) : (setB h r x).issued = h.issued := rfl
@[simp] theorem setB_exiting (h : Shuttle) (r : BitVec 2) (x : BReg) : (setB h r x).exiting = h.exiting := rfl
@[simp] theorem setB_holdBuf (h : Shuttle) (r : BitVec 2) (x : BReg) : (setB h r x).holdBuf = h.holdBuf := rfl
@[simp] theorem setB_atomLog (h : Shuttle) (r : BitVec 2) (x : BReg) : (setB h r x).atomLog = h.atomLog := rfl
@[simp] theorem setB_replay (h : Shuttle) (r : BitVec 2) (x : BReg) : (setB h r x).replay = h.replay := rfl
@[simp] theorem setB_shared (h : Shuttle) (r : BitVec 2) (x : BReg) : (setB h r x).shared = h.shared := rfl
@[simp] theorem setB_retried (h : Shuttle) (r : BitVec 2) (x : BReg) : (setB h r x).retried = h.retried := rfl
@[simp] theorem setB_compareDue (h : Shuttle) (r : BitVec 2) (x : BReg) : (setB h r x).compareDue = h.compareDue := rfl
@[simp] theorem setB_compareOk (h : Shuttle) (r : BitVec 2) (x : BReg) : (setB h r x).compareOk = h.compareOk := rfl
@[simp] theorem setB_fetched (h : Shuttle) (r : BitVec 2) (x : BReg) : (setB h r x).fetched = h.fetched := rfl
@[simp] theorem setB_vdue (h : Shuttle) (r : BitVec 2) (x : BReg) : (setB h r x).vdue = h.vdue := rfl

@[simp] theorem setTok_place (h : Shuttle) (q n : Nat) : (setTok h q n).place = h.place := rfl
@[simp] theorem setTok_life (h : Shuttle) (q n : Nat) : (setTok h q n).life = h.life := rfl
@[simp] theorem setTok_priv (h : Shuttle) (q n : Nat) : (setTok h q n).priv = h.priv := rfl
@[simp] theorem setTok_tenant (h : Shuttle) (q n : Nat) : (setTok h q n).tenant = h.tenant := rfl
@[simp] theorem setTok_team (h : Shuttle) (q n : Nat) : (setTok h q n).team = h.team := rfl
@[simp] theorem setTok_ordinal (h : Shuttle) (q n : Nat) : (setTok h q n).ordinal = h.ordinal := rfl
@[simp] theorem setTok_vtile (h : Shuttle) (q n : Nat) : (setTok h q n).vtile = h.vtile := rfl
@[simp] theorem setTok_kern (h : Shuttle) (q n : Nat) : (setTok h q n).kern = h.kern := rfl
@[simp] theorem setTok_argBase (h : Shuttle) (q n : Nat) : (setTok h q n).argBase = h.argBase := rfl
@[simp] theorem setTok_teamWin (h : Shuttle) (q n : Nat) : (setTok h q n).teamWin = h.teamWin := rfl
@[simp] theorem setTok_lvlIdx (h : Shuttle) (q n : Nat) : (setTok h q n).lvlIdx = h.lvlIdx := rfl
@[simp] theorem setTok_lvlExt (h : Shuttle) (q n : Nat) : (setTok h q n).lvlExt = h.lvlExt := rfl
@[simp] theorem setTok_climb (h : Shuttle) (q n : Nat) : (setTok h q n).climb = h.climb := rfl
@[simp] theorem setTok_paired (h : Shuttle) (q n : Nat) : (setTok h q n).paired = h.paired := rfl
@[simp] theorem setTok_band (h : Shuttle) (q n : Nat) : (setTok h q n).band = h.band := rfl
@[simp] theorem setTok_launch (h : Shuttle) (q n : Nat) : (setTok h q n).launch = h.launch := rfl
@[simp] theorem setTok_pc (h : Shuttle) (q n : Nat) : (setTok h q n).pc = h.pc := rfl
@[simp] theorem setTok_hand (h : Shuttle) (q n : Nat) : (setTok h q n).hand = h.hand := rfl
@[simp] theorem setTok_delay (h : Shuttle) (q n : Nat) : (setTok h q n).delay = h.delay := rfl
@[simp] theorem setTok_g (h : Shuttle) (q n : Nat) : (setTok h q n).g = h.g := rfl
@[simp] theorem setTok_b (h : Shuttle) (q n : Nat) : (setTok h q n).b = h.b := rfl
@[simp] theorem setTok_p (h : Shuttle) (q n : Nat) : (setTok h q n).p = h.p := rfl
@[simp] theorem setTok_vp (h : Shuttle) (q n : Nat) : (setTok h q n).vp = h.vp := rfl
@[simp] theorem setTok_v (h : Shuttle) (q n : Nat) : (setTok h q n).v = h.v := rfl
@[simp] theorem setTok_vOld (h : Shuttle) (q n : Nat) : (setTok h q n).vOld = h.vOld := rfl
@[simp] theorem setTok_vInuse (h : Shuttle) (q n : Nat) : (setTok h q n).vInuse = h.vInuse := rfl
@[simp] theorem setTok_vDirty (h : Shuttle) (q n : Nat) : (setTok h q n).vDirty = h.vDirty := rfl
@[simp] theorem setTok_pInuse (h : Shuttle) (q n : Nat) : (setTok h q n).pInuse = h.pInuse := rfl
@[simp] theorem setTok_ring (h : Shuttle) (q n : Nat) : (setTok h q n).ring = h.ring := rfl
@[simp] theorem setTok_rows (h : Shuttle) (q n : Nat) : (setTok h q n).rows = h.rows := rfl
@[simp] theorem setTok_cols (h : Shuttle) (q n : Nat) : (setTok h q n).cols = h.cols := rfl
@[simp] theorem setTok_vpend (h : Shuttle) (q n : Nat) : (setTok h q n).vpend = h.vpend := rfl
@[simp] theorem setTok_ppend (h : Shuttle) (q n : Nat) : (setTok h q n).ppend = h.ppend := rfl
@[simp] theorem setTok_rpend (h : Shuttle) (q n : Nat) : (setTok h q n).rpend = h.rpend := rfl
@[simp] theorem setTok_reserved (h : Shuttle) (q n : Nat) : (setTok h q n).reserved = h.reserved := rfl
@[simp] theorem setTok_s (h : Shuttle) (q n : Nat) : (setTok h q n).s = h.s := rfl
@[simp] theorem setTok_str (h : Shuttle) (q n : Nat) : (setTok h q n).str = h.str := rfl
@[simp] theorem setTok_vec (h : Shuttle) (q n : Nat) : (setTok h q n).vec = h.vec := rfl
@[simp] theorem setTok_mtx (h : Shuttle) (q n : Nat) : (setTok h q n).mtx = h.mtx := rfl
@[simp] theorem setTok_tagReady (h : Shuttle) (q n : Nat) : (setTok h q n).tagReady = h.tagReady := rfl
@[simp] theorem setTok_tagBytes (h : Shuttle) (q n : Nat) : (setTok h q n).tagBytes = h.tagBytes := rfl
@[simp] theorem setTok_copies (h : Shuttle) (q n : Nat) : (setTok h q n).copies = h.copies := rfl
@[simp] theorem setTok_fpflags (h : Shuttle) (q n : Nat) : (setTok h q n).fpflags = h.fpflags := rfl
@[simp] theorem setTok_trapPc (h : Shuttle) (q n : Nat) : (setTok h q n).trapPc = h.trapPc := rfl
@[simp] theorem setTok_trapCode (h : Shuttle) (q n : Nat) : (setTok h q n).trapCode = h.trapCode := rfl
@[simp] theorem setTok_trapVa (h : Shuttle) (q n : Nat) : (setTok h q n).trapVa = h.trapVa := rfl
@[simp] theorem setTok_trapVec (h : Shuttle) (q n : Nat) : (setTok h q n).trapVec = h.trapVec := rfl
@[simp] theorem setTok_dueTrap (h : Shuttle) (q n : Nat) : (setTok h q n).dueTrap = h.dueTrap := rfl
@[simp] theorem setTok_held (h : Shuttle) (q n : Nat) : (setTok h q n).held = h.held := rfl
@[simp] theorem setTok_wait (h : Shuttle) (q n : Nat) : (setTok h q n).wait = h.wait := rfl
@[simp] theorem setTok_popped (h : Shuttle) (q n : Nat) : (setTok h q n).popped = h.popped := rfl
@[simp] theorem setTok_ctl (h : Shuttle) (q n : Nat) : (setTok h q n).ctl = h.ctl := rfl
@[simp] theorem setTok_lastInter (h : Shuttle) (q n : Nat) : (setTok h q n).lastInter = h.lastInter := rfl
@[simp] theorem setTok_crossing (h : Shuttle) (q n : Nat) : (setTok h q n).crossing = h.crossing := rfl
@[simp] theorem setTok_pend (h : Shuttle) (q n : Nat) : (setTok h q n).pend = h.pend := rfl
@[simp] theorem setTok_late (h : Shuttle) (q n : Nat) : (setTok h q n).late = h.late := rfl
@[simp] theorem setTok_stores (h : Shuttle) (q n : Nat) : (setTok h q n).stores = h.stores := rfl
@[simp] theorem setTok_clock (h : Shuttle) (q n : Nat) : (setTok h q n).clock = h.clock := rfl
@[simp] theorem setTok_stopReq (h : Shuttle) (q n : Nat) : (setTok h q n).stopReq = h.stopReq := rfl
@[simp] theorem setTok_fresh (h : Shuttle) (q n : Nat) : (setTok h q n).fresh = h.fresh := rfl
@[simp] theorem setTok_issued (h : Shuttle) (q n : Nat) : (setTok h q n).issued = h.issued := rfl
@[simp] theorem setTok_exiting (h : Shuttle) (q n : Nat) : (setTok h q n).exiting = h.exiting := rfl
@[simp] theorem setTok_holdBuf (h : Shuttle) (q n : Nat) : (setTok h q n).holdBuf = h.holdBuf := rfl
@[simp] theorem setTok_atomLog (h : Shuttle) (q n : Nat) : (setTok h q n).atomLog = h.atomLog := rfl
@[simp] theorem setTok_replay (h : Shuttle) (q n : Nat) : (setTok h q n).replay = h.replay := rfl
@[simp] theorem setTok_shared (h : Shuttle) (q n : Nat) : (setTok h q n).shared = h.shared := rfl
@[simp] theorem setTok_retried (h : Shuttle) (q n : Nat) : (setTok h q n).retried = h.retried := rfl
@[simp] theorem setTok_compareDue (h : Shuttle) (q n : Nat) : (setTok h q n).compareDue = h.compareDue := rfl
@[simp] theorem setTok_compareOk (h : Shuttle) (q n : Nat) : (setTok h q n).compareOk = h.compareOk := rfl
@[simp] theorem setTok_fetched (h : Shuttle) (q n : Nat) : (setTok h q n).fetched = h.fetched := rfl
@[simp] theorem setTok_vdue (h : Shuttle) (q n : Nat) : (setTok h q n).vdue = h.vdue := rfl

@[simp] theorem modEng_place (h : Shuttle) (e : Eng) (f : EngQ → EngQ) : (modEng h e f).place = h.place := by cases e <;> rfl
@[simp] theorem modEng_life (h : Shuttle) (e : Eng) (f : EngQ → EngQ) : (modEng h e f).life = h.life := by cases e <;> rfl
@[simp] theorem modEng_priv (h : Shuttle) (e : Eng) (f : EngQ → EngQ) : (modEng h e f).priv = h.priv := by cases e <;> rfl
@[simp] theorem modEng_tenant (h : Shuttle) (e : Eng) (f : EngQ → EngQ) : (modEng h e f).tenant = h.tenant := by cases e <;> rfl
@[simp] theorem modEng_team (h : Shuttle) (e : Eng) (f : EngQ → EngQ) : (modEng h e f).team = h.team := by cases e <;> rfl
@[simp] theorem modEng_ordinal (h : Shuttle) (e : Eng) (f : EngQ → EngQ) : (modEng h e f).ordinal = h.ordinal := by cases e <;> rfl
@[simp] theorem modEng_vtile (h : Shuttle) (e : Eng) (f : EngQ → EngQ) : (modEng h e f).vtile = h.vtile := by cases e <;> rfl
@[simp] theorem modEng_kern (h : Shuttle) (e : Eng) (f : EngQ → EngQ) : (modEng h e f).kern = h.kern := by cases e <;> rfl
@[simp] theorem modEng_argBase (h : Shuttle) (e : Eng) (f : EngQ → EngQ) : (modEng h e f).argBase = h.argBase := by cases e <;> rfl
@[simp] theorem modEng_teamWin (h : Shuttle) (e : Eng) (f : EngQ → EngQ) : (modEng h e f).teamWin = h.teamWin := by cases e <;> rfl
@[simp] theorem modEng_lvlIdx (h : Shuttle) (e : Eng) (f : EngQ → EngQ) : (modEng h e f).lvlIdx = h.lvlIdx := by cases e <;> rfl
@[simp] theorem modEng_lvlExt (h : Shuttle) (e : Eng) (f : EngQ → EngQ) : (modEng h e f).lvlExt = h.lvlExt := by cases e <;> rfl
@[simp] theorem modEng_climb (h : Shuttle) (e : Eng) (f : EngQ → EngQ) : (modEng h e f).climb = h.climb := by cases e <;> rfl
@[simp] theorem modEng_paired (h : Shuttle) (e : Eng) (f : EngQ → EngQ) : (modEng h e f).paired = h.paired := by cases e <;> rfl
@[simp] theorem modEng_band (h : Shuttle) (e : Eng) (f : EngQ → EngQ) : (modEng h e f).band = h.band := by cases e <;> rfl
@[simp] theorem modEng_launch (h : Shuttle) (e : Eng) (f : EngQ → EngQ) : (modEng h e f).launch = h.launch := by cases e <;> rfl
@[simp] theorem modEng_pc (h : Shuttle) (e : Eng) (f : EngQ → EngQ) : (modEng h e f).pc = h.pc := by cases e <;> rfl
@[simp] theorem modEng_hand (h : Shuttle) (e : Eng) (f : EngQ → EngQ) : (modEng h e f).hand = h.hand := by cases e <;> rfl
@[simp] theorem modEng_delay (h : Shuttle) (e : Eng) (f : EngQ → EngQ) : (modEng h e f).delay = h.delay := by cases e <;> rfl
@[simp] theorem modEng_g (h : Shuttle) (e : Eng) (f : EngQ → EngQ) : (modEng h e f).g = h.g := by cases e <;> rfl
@[simp] theorem modEng_b (h : Shuttle) (e : Eng) (f : EngQ → EngQ) : (modEng h e f).b = h.b := by cases e <;> rfl
@[simp] theorem modEng_p (h : Shuttle) (e : Eng) (f : EngQ → EngQ) : (modEng h e f).p = h.p := by cases e <;> rfl
@[simp] theorem modEng_vp (h : Shuttle) (e : Eng) (f : EngQ → EngQ) : (modEng h e f).vp = h.vp := by cases e <;> rfl
@[simp] theorem modEng_v (h : Shuttle) (e : Eng) (f : EngQ → EngQ) : (modEng h e f).v = h.v := by cases e <;> rfl
@[simp] theorem modEng_vOld (h : Shuttle) (e : Eng) (f : EngQ → EngQ) : (modEng h e f).vOld = h.vOld := by cases e <;> rfl
@[simp] theorem modEng_vInuse (h : Shuttle) (e : Eng) (f : EngQ → EngQ) : (modEng h e f).vInuse = h.vInuse := by cases e <;> rfl
@[simp] theorem modEng_vDirty (h : Shuttle) (e : Eng) (f : EngQ → EngQ) : (modEng h e f).vDirty = h.vDirty := by cases e <;> rfl
@[simp] theorem modEng_pInuse (h : Shuttle) (e : Eng) (f : EngQ → EngQ) : (modEng h e f).pInuse = h.pInuse := by cases e <;> rfl
@[simp] theorem modEng_ring (h : Shuttle) (e : Eng) (f : EngQ → EngQ) : (modEng h e f).ring = h.ring := by cases e <;> rfl
@[simp] theorem modEng_rows (h : Shuttle) (e : Eng) (f : EngQ → EngQ) : (modEng h e f).rows = h.rows := by cases e <;> rfl
@[simp] theorem modEng_cols (h : Shuttle) (e : Eng) (f : EngQ → EngQ) : (modEng h e f).cols = h.cols := by cases e <;> rfl
@[simp] theorem modEng_vpend (h : Shuttle) (e : Eng) (f : EngQ → EngQ) : (modEng h e f).vpend = h.vpend := by cases e <;> rfl
@[simp] theorem modEng_ppend (h : Shuttle) (e : Eng) (f : EngQ → EngQ) : (modEng h e f).ppend = h.ppend := by cases e <;> rfl
@[simp] theorem modEng_rpend (h : Shuttle) (e : Eng) (f : EngQ → EngQ) : (modEng h e f).rpend = h.rpend := by cases e <;> rfl
@[simp] theorem modEng_reserved (h : Shuttle) (e : Eng) (f : EngQ → EngQ) : (modEng h e f).reserved = h.reserved := by cases e <;> rfl
@[simp] theorem modEng_s (h : Shuttle) (e : Eng) (f : EngQ → EngQ) : (modEng h e f).s = h.s := by cases e <;> rfl
@[simp] theorem modEng_tok (h : Shuttle) (e : Eng) (f : EngQ → EngQ) : (modEng h e f).tok = h.tok := by cases e <;> rfl
@[simp] theorem modEng_tagReady (h : Shuttle) (e : Eng) (f : EngQ → EngQ) : (modEng h e f).tagReady = h.tagReady := by cases e <;> rfl
@[simp] theorem modEng_tagBytes (h : Shuttle) (e : Eng) (f : EngQ → EngQ) : (modEng h e f).tagBytes = h.tagBytes := by cases e <;> rfl
@[simp] theorem modEng_copies (h : Shuttle) (e : Eng) (f : EngQ → EngQ) : (modEng h e f).copies = h.copies := by cases e <;> rfl
@[simp] theorem modEng_fpflags (h : Shuttle) (e : Eng) (f : EngQ → EngQ) : (modEng h e f).fpflags = h.fpflags := by cases e <;> rfl
@[simp] theorem modEng_trapPc (h : Shuttle) (e : Eng) (f : EngQ → EngQ) : (modEng h e f).trapPc = h.trapPc := by cases e <;> rfl
@[simp] theorem modEng_trapCode (h : Shuttle) (e : Eng) (f : EngQ → EngQ) : (modEng h e f).trapCode = h.trapCode := by cases e <;> rfl
@[simp] theorem modEng_trapVa (h : Shuttle) (e : Eng) (f : EngQ → EngQ) : (modEng h e f).trapVa = h.trapVa := by cases e <;> rfl
@[simp] theorem modEng_trapVec (h : Shuttle) (e : Eng) (f : EngQ → EngQ) : (modEng h e f).trapVec = h.trapVec := by cases e <;> rfl
@[simp] theorem modEng_dueTrap (h : Shuttle) (e : Eng) (f : EngQ → EngQ) : (modEng h e f).dueTrap = h.dueTrap := by cases e <;> rfl
@[simp] theorem modEng_held (h : Shuttle) (e : Eng) (f : EngQ → EngQ) : (modEng h e f).held = h.held := by cases e <;> rfl
@[simp] theorem modEng_wait (h : Shuttle) (e : Eng) (f : EngQ → EngQ) : (modEng h e f).wait = h.wait := by cases e <;> rfl
@[simp] theorem modEng_popped (h : Shuttle) (e : Eng) (f : EngQ → EngQ) : (modEng h e f).popped = h.popped := by cases e <;> rfl
@[simp] theorem modEng_ctl (h : Shuttle) (e : Eng) (f : EngQ → EngQ) : (modEng h e f).ctl = h.ctl := by cases e <;> rfl
@[simp] theorem modEng_lastInter (h : Shuttle) (e : Eng) (f : EngQ → EngQ) : (modEng h e f).lastInter = h.lastInter := by cases e <;> rfl
@[simp] theorem modEng_crossing (h : Shuttle) (e : Eng) (f : EngQ → EngQ) : (modEng h e f).crossing = h.crossing := by cases e <;> rfl
@[simp] theorem modEng_pend (h : Shuttle) (e : Eng) (f : EngQ → EngQ) : (modEng h e f).pend = h.pend := by cases e <;> rfl
@[simp] theorem modEng_late (h : Shuttle) (e : Eng) (f : EngQ → EngQ) : (modEng h e f).late = h.late := by cases e <;> rfl
@[simp] theorem modEng_stores (h : Shuttle) (e : Eng) (f : EngQ → EngQ) : (modEng h e f).stores = h.stores := by cases e <;> rfl
@[simp] theorem modEng_clock (h : Shuttle) (e : Eng) (f : EngQ → EngQ) : (modEng h e f).clock = h.clock := by cases e <;> rfl
@[simp] theorem modEng_stopReq (h : Shuttle) (e : Eng) (f : EngQ → EngQ) : (modEng h e f).stopReq = h.stopReq := by cases e <;> rfl
@[simp] theorem modEng_fresh (h : Shuttle) (e : Eng) (f : EngQ → EngQ) : (modEng h e f).fresh = h.fresh := by cases e <;> rfl
@[simp] theorem modEng_issued (h : Shuttle) (e : Eng) (f : EngQ → EngQ) : (modEng h e f).issued = h.issued := by cases e <;> rfl
@[simp] theorem modEng_exiting (h : Shuttle) (e : Eng) (f : EngQ → EngQ) : (modEng h e f).exiting = h.exiting := by cases e <;> rfl
@[simp] theorem modEng_holdBuf (h : Shuttle) (e : Eng) (f : EngQ → EngQ) : (modEng h e f).holdBuf = h.holdBuf := by cases e <;> rfl
@[simp] theorem modEng_atomLog (h : Shuttle) (e : Eng) (f : EngQ → EngQ) : (modEng h e f).atomLog = h.atomLog := by cases e <;> rfl
@[simp] theorem modEng_replay (h : Shuttle) (e : Eng) (f : EngQ → EngQ) : (modEng h e f).replay = h.replay := by cases e <;> rfl
@[simp] theorem modEng_shared (h : Shuttle) (e : Eng) (f : EngQ → EngQ) : (modEng h e f).shared = h.shared := by cases e <;> rfl
@[simp] theorem modEng_retried (h : Shuttle) (e : Eng) (f : EngQ → EngQ) : (modEng h e f).retried = h.retried := by cases e <;> rfl
@[simp] theorem modEng_compareDue (h : Shuttle) (e : Eng) (f : EngQ → EngQ) : (modEng h e f).compareDue = h.compareDue := by cases e <;> rfl
@[simp] theorem modEng_compareOk (h : Shuttle) (e : Eng) (f : EngQ → EngQ) : (modEng h e f).compareOk = h.compareOk := by cases e <;> rfl
@[simp] theorem modEng_fetched (h : Shuttle) (e : Eng) (f : EngQ → EngQ) : (modEng h e f).fetched = h.fetched := by cases e <;> rfl
@[simp] theorem modEng_vdue (h : Shuttle) (e : Eng) (f : EngQ → EngQ) : (modEng h e f).vdue = h.vdue := by cases e <;> rfl

@[simp] theorem engOf_modEng (h : Shuttle) (e : Eng) (f : EngQ → EngQ) : engOf (modEng h e f) e = f (engOf h e) := by cases e <;> rfl
theorem engOf_modEng_other (h : Shuttle) (e d : Eng) (f : EngQ → EngQ) (hd : d ≠ e) : engOf (modEng h e f) d = engOf h d := by
  cases e <;> cases d <;> first | rfl | exact absurd rfl hd

/-- A g register reads what was last written to it, and g0 what it read before (R89). -/
theorem getG_setG (h : Shuttle) (r q : BitVec 5) (x : Word) : getG (setG h r x) q = if q = r ∧ r ≠ 0 then x else getG h q := by
  by_cases h0 : r = 0
  · rw [show setG h r x = h from if_pos h0, if_neg (fun w => w.2 h0)]
  · have k : setG h r x = { h with g := h.g.set r.toNat x r.isLt } := if_neg h0
    rw [k]
    by_cases e : q = r
    · subst e; rw [if_pos ⟨rfl, h0⟩]; simp [getG]
    · have : r.toNat ≠ q.toNat := fun w => e (BitVec.eq_of_toNat_eq w.symm)
      rw [if_neg (fun w => e w.1)]; simp [getG, this]

/-- g0 reads 0 after any write of a shuttle in which it did (R7, R89). -/
theorem getG_zero_setG (h : Shuttle) (r : BitVec 5) (x : Word) (z : getG h 0 = 0) : getG (setG h r x) 0 = 0 := by
  rw [getG_setG]; split
  · next k => exact absurd k.1.symm k.2
  · exact z

/-- p0 reads true whatever is written (R44). -/
@[simp] theorem getP_zero (h : Shuttle) : getP h 0#6 = true := rfl

/-- A SEQ predicate reads what was last written to it (R89). -/
theorem getP_setP (h : Shuttle) (r q : BitVec 6) (x : Bool) (hq : q.toNat < 16) :
    getP (setP h r x) q = if q = r ∧ r ≠ 0 then x else getP h q := by
  by_cases q0 : q = 0
  · subst q0
    rw [show ∀ k, getP k 0 = true from fun _ => rfl, show ∀ k, getP k 0 = true from fun _ => rfl]
    split
    · next k => exact absurd k.1.symm k.2
    · rfl
  · have rd : ∀ k, getP k q = k.p.getLsbD q.toNat := fun _ => if_neg q0
    rw [rd, rd]
    by_cases hr : r = 0 ∨ 16 ≤ r.toNat
    · rw [show setP h r x = h from if_pos hr, if_neg]
      rintro ⟨rfl, h1⟩
      rcases hr with h2 | h2
      · exact h1 h2
      · omega
    · have wr : (setP h r x).p = if x then h.p ||| (1#16 <<< r.toNat) else h.p &&& ~~~(1#16 <<< r.toNat) := by rw [setP, if_neg hr]
      rw [wr]
      by_cases e : q = r
      · subst e
        rw [if_pos (show q = q ∧ q ≠ 0 from ⟨rfl, q0⟩)]
        cases x <;> simp [hq]
      · have ne : q.toNat ≠ r.toNat := fun k => e (BitVec.eq_of_toNat_eq k)
        rw [if_neg (show ¬ (q = r ∧ r ≠ 0) from fun w => e w.1)]
        by_cases lt : q.toNat < r.toNat
        · cases x <;> simp [hq, lt]
        · have : q.toNat - r.toNat ≠ 0 := by omega
          cases x <;> simp [hq, this]

/-- A b register reads what was last written to it, with its flag (R103). -/
theorem getB_setB (h : Shuttle) (r q : BitVec 2) (x : BReg) : getB (setB h r x) q = if q = r then x else getB h q := by
  by_cases e : q = r
  · subst e; simp [getB, setB]
  · have : r.toNat ≠ q.toNat := fun k => e (BitVec.eq_of_toNat_eq k.symm)
    simp [getB, setB, e, this]

/-- A stream register reads what was last written to it. -/
theorem getS_setS (h : Shuttle) (r q : BitVec 4) (x : Option Stream) : getS (setS h r x) q = if q = r then x else getS h q := by
  by_cases e : q = r
  · subst e; simp [getS, setS]
  · have : r.toNat ≠ q.toNat := fun k => e (BitVec.eq_of_toNat_eq k.symm)
    simp [getS, setS, e, this]

end Sys2Proof.Machine
end

