-- ==== Sys2Proof/Laws/Shared.lean ====
section
/-! SUPPORT. What each shared operation can do, said once: a SEQ instruction, an engine instruction, a VEC instruction, a near-data slot,
the trap and the return from it, the abort of an entry, the record of a fault. -/
namespace Sys2Proof.Machine

/-! ### A SEQ instruction (R20, R21, R90) -/

/-- A SEQ instruction waits for its token, or passes with a false guard, or ends as its body says. -/
theorem seqRun_cases (c : Ctl) (body : State → SeqRes) (s : State) :
    (popBlocked (settle s.me) c = true ∧ seqRun c body s = { s with me := { settle s.me with wait := some (.popTok c.pop.toNat), ctl := c } })
    ∨ (popBlocked (settle s.me) c = false ∧ guardWith (getP { doPop (settle s.me) c with wait := none }) c = false
        ∧ seqRun c body s = finishSeq { s with me := { doPop (settle s.me) c with wait := none } } c 1)
    ∨ (popBlocked (settle s.me) c = false ∧ guardWith (getP { doPop (settle s.me) c with wait := none }) c = true
        ∧ seqRun c body s = settleRes c (body { s with me := { doPop (settle s.me) c with wait := none } })) := by
  by_cases h : popBlocked (settle s.me) c = true
  · exact .inl ⟨h, by simp [seqRun, modMe, h]⟩
  · have h' : popBlocked (settle s.me) c = false := by simpa using h
    by_cases g : guardWith (getP { doPop (settle s.me) c with wait := none }) c = true
    · exact .inr (.inr ⟨h', g, by simp [seqRun, modMe, h', g]⟩)
    · have g' : guardWith (getP { doPop (settle s.me) c with wait := none }) c = false := by simpa using g
      exact .inr (.inl ⟨h', g', by simp [seqRun, modMe, h', g']⟩)

/-- A SEQ instruction whose token is there and whose guard is true ends as its body says. -/
theorem seqInstr_runs (c : Ctl) (body : State → SeqRes) (s : State) (h : popBlocked (settle s.me) c = false)
    (g : guardWith (getP { doPop (settle s.me) c with wait := none }) c = true) :
    seqInstr c body s = .next (settleRes c (body { s with me := { doPop (settle s.me) c with wait := none } })) := by
  rcases seqRun_cases c body s with ⟨k, _⟩ | ⟨_, k, _⟩ | ⟨_, _, k⟩
  · simp [h] at k
  · simp [g] at k
  · rw [seqInstr, k]

/-- The end of a SEQ instruction changes the shuttle in focus and the clock. -/
theorem endSeq_only (s : State) (c : Ctl) (occ : Nat) :
    endSeq s c occ = { s with me := (endSeq s c occ).me, cycles := Nat.max s.cycles (endSeq s c occ).me.clock } := rfl
theorem finishSeq_only (s : State) (c : Ctl) (occ : Nat) :
    finishSeq s c occ = { s with me := (finishSeq s c occ).me, cycles := Nat.max s.cycles (finishSeq s c occ).me.clock } := rfl

/-- A PUSH adds a token, goes with the result that its instruction owes, or waits where tokens counted and due are 15 (R8, R20). -/
theorem pushTo_cases (h : Shuttle) (q at' : Nat) :
    (q = 0 ∧ pushTo h q at' = h)
      ∨ (q ≠ 0 ∧ tokCount h q + pushesDue h q < 15 ∧ owesResult h at' = false ∧ pushTo h q at' = setTok h q (tokCount h q + 1))
      ∨ (q ≠ 0 ∧ tokCount h q + pushesDue h q < 15 ∧ owesResult h at' = true
          ∧ pushTo h q at' = { h with pend := h.pend.map fun x => if x.issue = at' then { x with push := q } else x })
      ∨ (q ≠ 0 ∧ 15 ≤ tokCount h q + pushesDue h q
          ∧ pushTo h q at' = { h with wait := some (if owesResult h at' then .pushRes q at' else .pushTok q) }) := by
  by_cases z : q = 0
  · exact .inl ⟨z, by simp [pushTo, z]⟩
  · by_cases l : 15 ≤ tokCount h q + pushesDue h q
    · exact .inr (.inr (.inr ⟨z, l, by simp only [pushTo, if_neg z, if_pos l]⟩))
    · by_cases o : owesResult h at' = true
      · exact .inr (.inr (.inl ⟨z, by omega, o, by simp only [pushTo, if_neg z, if_neg l, if_pos o]⟩))
      · exact .inr (.inl ⟨z, by omega, by simpa using o, by simp only [pushTo, if_neg z, if_neg l, if_neg o]⟩)

/-- A PUSH changes the tokens, the wait and the pending results alone. -/
theorem pushTo_only (h : Shuttle) (q at' : Nat) :
    pushTo h q at' = { h with tok := (pushTo h q at').tok, wait := (pushTo h q at').wait, pend := (pushTo h q at').pend } := by
  rcases pushTo_cases h q at' with ⟨_, e⟩ | ⟨_, _, _, e⟩ | ⟨_, _, _, e⟩ | ⟨_, _, e⟩ <;> rw [e] <;> rfl

/-- The step of the pc changes the pc and the delay slots left alone (R41, R104). -/
theorem stepPc_only (h : Shuttle) : stepPc h = { h with pc := (stepPc h).pc, delay := (stepPc h).delay } := by
  cases d : h.delay with
  | none => simp [stepPc, d]
  | some x => simp only [stepPc, d]; split <;> rfl

/-- A result of a single cycle in an interlocked line stands at once (R91). -/
theorem setResult_interlocked (s : State) (d : SeqDest) (v : Word) (lat : Nat) (h : exposed s.me = false) (l : lat ≤ 1) :
    setResult s d v lat = { s with me := setDest s.me d v } := by
  have k : ¬ 1 < lat := by omega
  simp [setResult, modMe, h, k]
/-- A longer one, and each in an exposed line, waits for issue + latency (R23, R91), unless an earlier result of variable latency may land after
it. -/
theorem setResult_later (s : State) (d : SeqDest) (v : Word) (lat : Nat) (h : exposed s.me = true ∨ 1 < lat)
    (e : ¬ (exposed s.me = true ∧ d ∈ s.me.late)) :
    setResult s d v lat
      = { s with me := { s.me with pend := s.me.pend ++ [{ dest := d, val := v, land := s.me.clock + lat, issue := s.me.clock }] } } := by
  simp only [setResult, if_neg e, if_pos h, modMe]

/-- A SEQ destination changes the g registers or p1 to p15 alone (R89). -/
theorem setDest_only (h : Shuttle) (d : SeqDest) (v : Word) : setDest h d v = { h with g := (setDest h d v).g, p := (setDest h d v).p } := by
  cases d with
  | g r => simp only [setDest, setG]; split <;> rfl
  | p r => simp only [setDest, setP]; split <;> rfl

/-- One result that lands changes the g registers, p1 to p15 and the tokens alone. -/
theorem landOne_only (h : Shuttle) (q : Pend) : landOne h q = { h with g := (landOne h q).g, p := (landOne h q).p, tok := (landOne h q).tok } := by
  unfold landOne
  dsimp only
  rw [setDest_only h q.dest q.val]
  split <;> rfl

/-- Landing changes the g registers, p1 to p15, the tokens and the list of pending results alone (R91). -/
theorem foldl_landOne_only (l : List Pend) (h : Shuttle) :
    l.foldl landOne h = { h with g := (l.foldl landOne h).g, p := (l.foldl landOne h).p, tok := (l.foldl landOne h).tok } := by
  induction l generalizing h with
  | nil => rfl
  | cons q l ih =>
    rw [List.foldl_cons, ih (landOne h q)]
    conv => rhs; rw [ih (landOne h q)]
    generalize l.foldl landOne (landOne h q) = k
    rw [landOne_only h q]

theorem landSome_only (h : Shuttle) (due rest : List Pend) :
    landSome h due rest = { h with g := (landSome h due rest).g, p := (landSome h due rest).p, tok := (landSome h due rest).tok, pend := rest } := by
  have k := foldl_landOne_only (due.mergeSort (fun a b => a.land ≤ b.land)) h
  simp only [landSome]
  generalize (due.mergeSort (fun a b => a.land ≤ b.land)).foldl landOne h = x at k ⊢
  rw [k]

theorem landAll_only (h : Shuttle) :
    landAll h = { h with g := (landAll h).g, p := (landAll h).p, tok := (landAll h).tok, pend := [], late := [] } := by
  have k := foldl_landOne_only (h.pend.mergeSort (fun a b => a.land ≤ b.land)) h
  simp only [landAll]
  generalize (h.pend.mergeSort (fun a b => a.land ≤ b.land)).foldl landOne h = x at k ⊢
  rw [k]

/-- What a SEQ instruction reads: landed results with their tokens, and the clock an interlocked line has waited to (R23). -/
theorem settle_only (h : Shuttle) :
    settle h = { h with g := (settle h).g, p := (settle h).p, tok := (settle h).tok, pend := (settle h).pend, late := (settle h).late,
                        clock := (settle h).clock } := by
  unfold settle
  split
  · have k := landSome_only h (h.pend.filter fun q => q.land ≤ h.clock) (h.pend.filter fun q => !(decide (q.land ≤ h.clock)))
    generalize landSome h (h.pend.filter fun q => q.land ≤ h.clock) (h.pend.filter fun q => !(decide (q.land ≤ h.clock))) = x at k ⊢
    rw [k]
  · have k := landSome_only h h.pend []
    dsimp only
    generalize landSome h h.pend [] = x at k ⊢
    rw [k]

/-! ### An engine instruction (R20, R27, R49) -/

/-- An engine instruction is squashed, ends a PUSH that waited, waits for its token, or ends as its body says. -/
theorem engRun_cases (e : Eng) (c : Ctl) (squash : State → State) (body : State → EngRes) (s : State) :
    (squashed (curOf s.me e) c = true ∧ engRun e c squash body s
        = if overBudget s s e then overran s e else modMe (servedEng (squash s) e) (fun h => advanceEng (tickEng h e c) e))
    ∨ (squashed (curOf s.me e) c = false ∧ (curOf s.me e).bodyDone = true ∧ engRun e c squash body s = finishEng s s e c)
    ∨ (squashed (curOf s.me e) c = false ∧ (curOf s.me e).bodyDone = false ∧ popBlockedEng s.me e c = true
        ∧ engRun e c squash body s = stallEng s e c false)
    ∨ (squashed (curOf s.me e) c = false ∧ (curOf s.me e).bodyDone = false ∧ popBlockedEng s.me e c = false
        ∧ ((∃ t, body (modMe s (fun h => doPopEng h e c)) = .done t
            ∧ engRun e c squash body s = finishEng (modMe s (fun h => doPopEng h e c)) t e c)
          ∨ (∃ t, body (modMe s (fun h => doPopEng h e c)) = .stall t ∧ engRun e c squash body s = stallEng t e c true)
          ∨ (∃ t, body (modMe s (fun h => doPopEng h e c)) = .hold t ∧ engRun e c squash body s = stallEng t e c false)
          ∨ (∃ t k r, body (modMe s (fun h => doPopEng h e c)) = .abort t k r
              ∧ engRun e c squash body s = abortWith (modMe t (fun h => unpop h c.pop.toNat)) e k r))) := by
  by_cases a : squashed (curOf s.me e) c = true
  · exact .inl ⟨a, by simp [engRun, a]⟩
  have a' : squashed (curOf s.me e) c = false := by simpa using a
  by_cases b : (curOf s.me e).bodyDone = true
  · exact .inr (.inl ⟨a', b, by simp [engRun, a', b]⟩)
  have b' : (curOf s.me e).bodyDone = false := by simpa using b
  by_cases d : popBlockedEng s.me e c = true
  · exact .inr (.inr (.inl ⟨a', b', d, by simp [engRun, a', b', d]⟩))
  have d' : popBlockedEng s.me e c = false := by simpa using d
  refine .inr (.inr (.inr ⟨a', b', d', ?_⟩))
  cases k : body (modMe s (fun h => doPopEng h e c)) with
  | done t => exact .inl ⟨t, rfl, by simp [engRun, a', b', d', k]⟩
  | stall t => exact .inr (.inl ⟨t, rfl, by simp [engRun, a', b', d', k]⟩)
  | hold t => exact .inr (.inr (.inl ⟨t, rfl, by simp [engRun, a', b', d', k]⟩))
  | abort t x r => exact .inr (.inr (.inr ⟨t, x, r, rfl, by simp [engRun, a', b', d', k]⟩))

/-- An instruction of STR or MTX with a false guard is done at once (R21, R44). -/
theorem uniformInstr_eq (e : Eng) (c : Ctl) (body : State → EngRes) (s : State) :
    uniformInstr e c body s = .next (engRun e c id (fun t => if guardWith (snapP t.me e) c then body t else .done t) s) := rfl

/-- Two states that differ in the tile in focus alone. -/
def OnlyServed (s t : State) : Prop := t = { s with tile := t.tile }

/-- The end of an engine instruction changes the shuttle in focus, the slot its engine served last and the clock. -/
theorem endEng_only (s : State) (e : Eng) (c : Ctl) :
    endEng s e c = { s with me := (endEng s e c).me, tile := (endEng s e c).tile, cycles := (endEng s e c).cycles } := by
  have k : ∀ c : Bool, OnlyServed s (if c then s else servedEng s e) := fun c => by cases c <;> rfl
  unfold endEng
  have j := k (curOf s.me e).bodyDone
  generalize (if (curOf s.me e).bodyDone then s else servedEng s e) = u at j ⊢
  unfold OnlyServed at j
  rw [j]
  dsimp only
  split <;> rfl
/-- Within its entry's budget an engine instruction ends with its effects. -/
theorem finishEng_within (b s : State) (e : Eng) (c : Ctl) (h : overBudget b s e = false) : finishEng b s e c = endEng s e c := by
  simp [finishEng, h]
theorem stallEng_only (s : State) (e : Eng) (c : Ctl) (b : Bool) : stallEng s e c b = { s with me := (stallEng s e c b).me } := rfl

/-- The next step of an engine changes that engine's queue state, and the landed results of VEC. -/
theorem advanceEng_mem (s : State) (e : Eng) : (modMe s (fun h => advanceEng h e)).mem = s.mem := rfl

/-! ### A near-data slot (R337, R343) -/

/-- The arithmetic slot does nothing off a unit, takes the body on, or stops it with a fault. -/
theorem arithSlot_cases (f : Body → Except Code Body) (s : State) :
    (s.nd.body = none ∧ arithSlot f s = .next s)
    ∨ (∃ b b1, s.nd.body = some b ∧ f b = .ok b1 ∧ arithSlot f s = .next (modBody s (fun _ => { b1 with phase := 3 })))
    ∨ (∃ b k, s.nd.body = some b ∧ f b = .error k ∧ arithSlot f s = .next (bodyFault s 1 { code := k })) := by
  cases h : s.nd.body with
  | none => exact .inl ⟨rfl, by simp [arithSlot, h]⟩
  | some b =>
    cases k : f b with
    | ok b1 => exact .inr (.inl ⟨b, b1, rfl, k, by simp [arithSlot, h, k]⟩)
    | error x => exact .inr (.inr ⟨b, x, rfl, k, by simp [arithSlot, h, k]⟩)

/-- The fetch slot does nothing off a unit, takes the body on, or stops it with a fault. -/
theorem fetchSlot_cases (f : State → Body → State × Except NdFault Body) (s : State) :
    (s.nd.body = none ∧ fetchSlot f s = .next s)
    ∨ (∃ b t b1, s.nd.body = some b ∧ f s b = (t, .ok b1) ∧ fetchSlot f s = .next (modBody t (fun _ => { b1 with phase := 2 })))
    ∨ (∃ b t x, s.nd.body = some b ∧ f s b = (t, .error x) ∧ fetchSlot f s = .next (fetchFault t b x)) := by
  cases h : s.nd.body with
  | none => exact .inl ⟨rfl, by simp [fetchSlot, h]⟩
  | some b =>
    rcases k : f s b with ⟨t, r⟩
    cases r with
    | ok b1 => exact .inr (.inl ⟨b, t, b1, rfl, k, by simp [fetchSlot, h, k]⟩)
    | error x => exact .inr (.inr ⟨b, t, x, rfl, k, by simp [fetchSlot, h, k]⟩)

/-- The write-back slot does nothing off a unit, ends the word, or stops the body with a fault. -/
theorem wbSlot_cases (f : State → Body → State × Except NdFault Body) (s : State) :
    (s.nd.body = none ∧ wbSlot f s = .next s)
    ∨ (∃ b t b1, s.nd.body = some b ∧ f s b = (t, .ok b1) ∧ wbSlot f s = .next (modBody t (fun _ => endWord t b1)))
    ∨ (∃ b t x, s.nd.body = some b ∧ f s b = (t, .error x) ∧ wbSlot f s = .next (bodyFault t 2 x)) := by
  cases h : s.nd.body with
  | none => exact .inl ⟨rfl, by simp [wbSlot, h]⟩
  | some b =>
    rcases k : f s b with ⟨t, r⟩
    cases r with
    | ok b1 => exact .inr (.inl ⟨b, t, b1, rfl, k, by simp [wbSlot, h, k]⟩)
    | error x => exact .inr (.inr ⟨b, t, x, rfl, k, by simp [wbSlot, h, k]⟩)

/-! ### Traps, aborts, records (R49, R92, R139, R375) -/

/-- A trap halts the shuttle and stops its gang, or enters the handler in privileged mode (R92). -/
theorem enterTrap_cases (s : State) (cause va : Nat) (resume : Word) :
    ((landAll s.me).trapVec = 0 ∨ (landAll s.me).priv = true)
        ∧ enterTrap s cause va resume
          = requestStop { s with me := { landAll s.me with life := .halted, wait := none, popped := false, dueTrap := none } } (landAll s.me).team true
    ∨ ((landAll s.me).trapVec ≠ 0 ∧ (landAll s.me).priv = false)
        ∧ enterTrap s cause va resume = { s with me := { landAll s.me with
            trapCode := BitVec.ofNat 64 (cause % 256), trapVa := BitVec.ofNat 64 va, trapPc := resume, priv := true,
            pc := (landAll s.me).trapVec, delay := none, wait := none, popped := false, lastInter := none, dueTrap := none,
            clock := (landAll s.me).clock + 12 } } := by
  by_cases h : (landAll s.me).trapVec = 0 ∨ (landAll s.me).priv = true
  · exact .inl ⟨h, by simp only [enterTrap, if_pos h]⟩
  · refine .inr ⟨⟨fun e => h (.inl e), by simpa using fun e => h (.inr e)⟩, by simp only [enterTrap, if_neg h]⟩

/-- A trap with a record waits with it, or is taken once it is written (R92, R375). -/
theorem trapWith_cases (s : State) (c : Code) (va : Nat) (r : FaultRec) (write : Bool) :
    let p := postMine s { r with code := c, eng := 0, codepos := codePos (s.me.pc.toNat / 8) (s.me.pc.toNat % 8), va := va } write
    (recWaits p.1 p.2 = true ∧ trapWith s c va r write = { p.1 with me := { p.1.me with dueTrap := some (c, va, p.2), wait := none, popped := false } })
    ∨ (recWaits p.1 p.2 = false ∧ trapWith s c va r write = enterTrap p.1 (codeNum c) va p.1.me.pc) := by
  intro p
  by_cases h : recWaits p.1 p.2 = true
  · exact .inl ⟨h, by simp only [trapWith]; rw [if_pos h]; rfl⟩
  · exact .inr ⟨by simpa using h, by simp only [trapWith]; rw [if_neg h]⟩

/-- The return from a trap: user mode at TRAPPC, the engines released, nothing else (R139). -/
theorem sysretTo_eq (s : State) :
    sysretTo s = { s with me := { s.me with priv := false, pc := s.me.trapPc, held := false, lastInter := none, delay := none } } := rfl

/-- Two states that differ in memory, contexts and the module controller alone. -/
def OnlyRecord (s t : State) : Prop := t = { s with mem := t.mem, ctxs := t.ctxs, module := t.module }

theorem OnlyRecord.refl (s : State) : OnlyRecord s s := rfl
theorem OnlyRecord.trans {s t u : State} (h : OnlyRecord s t) (k : OnlyRecord t u) : OnlyRecord s u := by
  unfold OnlyRecord at *
  rw [k, h]
theorem modCtx_onlyRecord (s : State) (t : Nat) (f : Ctx → Ctx) : OnlyRecord s (modCtx s t f) := rfl
theorem modModule_onlyRecord (s : State) (f : Module → Module) : OnlyRecord s (modModule s f) := rfl
theorem withMem_onlyRecord (s : State) (m : MemSys) : OnlyRecord s { s with mem := m } := rfl
theorem ownPut_onlyRecord (s : State) (t : Nat) (own : Bool) (pa : Nat) (bs : List Byte) : OnlyRecord s (ownPut s t own pa bs) := by
  unfold ownPut
  exact withMem_onlyRecord s _
theorem fqWrite_onlyRecord (s : State) (mgmt : Bool) (t base slot : Nat) (r : FaultRec) : OnlyRecord s (fqWrite s mgmt t base slot r) := by
  unfold fqWrite
  exact (ownPut_onlyRecord _ _ _ _ _).trans (ownPut_onlyRecord _ _ _ _ _)

/-- A record posted changes its queue's memory, number, waiting records and interrupt, and nothing else (R375). -/
theorem postRec_onlyRecord (s : State) (mgmt : Bool) (t : Nat) (r : FaultRec) : OnlyRecord s (postRec s mgmt t r).1 := by
  have step : ∀ (b : Bool) (u : State) (f : Module → Module) (g : Ctx → Ctx),
      OnlyRecord u (if b = true then modModule u f else modCtx u t g) := by
    intro b u f g; cases b <;> rfl
  unfold postRec
  dsimp only
  split
  · exact (step mgmt s _ _).trans (step mgmt _ _ _)
  · split
    · exact (step mgmt s _ _).trans (step mgmt _ _ _)
    · split
      · exact ((step mgmt s _ _).trans (fqWrite_onlyRecord _ _ _ _ _ _)).trans (step mgmt _ _ _)
      · exact (step mgmt s _ _).trans (step mgmt _ _ _)

/-- A record of the shuttle in focus: the same, and a Page Request of its context (R365, R375). -/
theorem postMine_onlyRecord (s : State) (r : FaultRec) (write : Bool) : OnlyRecord s (postMine s r write).1 := by
  unfold postMine
  dsimp only
  split
  · exact (postRec_onlyRecord _ _ _ _).trans (modCtx_onlyRecord _ _ _)
  · exact postRec_onlyRecord _ _ _ _

/-- An entry aborted: a record, and the shuttle held until `sysret`; no other shuttle, no tile, no gang (R49). -/
theorem abortWith_only (s : State) (e : Eng) (c : Code) (r : FaultRec) :
    ∃ u, OnlyRecord s u ∧ abortWith s e c r = { u with me := (abortWith s e c r).me } ∧ (abortWith s e c r).me.held = true :=
  ⟨_, postMine_onlyRecord _ _ _, rfl, rfl⟩

end Sys2Proof.Machine
end

