-- ==== Sys2Proof/Laws/Walk.lean ====
section
/-! SUPPORT. Translation as the device itself sees it: one walk serves a whole frame, so that a run of bytes of one frame is a run of
bytes at its home, and a line of code is 64 of them. -/
namespace Sys2Proof.Machine

/-- A walk reads device memory and nothing else. -/
theorem walkFrom_home {m k : MemSys} (h : m.home = k.home) (group frame level base : Nat) :
    walkFrom m group frame level base = walkFrom k group frame level base := by
  have g : ∀ l b i, groupEntry m group l b i = groupEntry k group l b i := by
    intro l b i
    unfold groupEntry pteAt
    rw [h]
  induction level generalizing base with
  | zero => rfl
  | succ level ih => simp only [walkFrom, g, ih]
/-- Machines of one device memory, one set of contexts and one choice among the members of a group translate alike. -/
theorem walkFresh_home {s u : State} (h : s.mem.home = u.mem.home) (c : s.ctxs = u.ctxs) (f : s.fresh = u.fresh) (t a : Nat) :
    walkFresh s t a = walkFresh u t a := by
  unfold walkFresh ctxOf
  rw [walkFrom_home h, c, f]

/-- The lines a walk reads are those of its device memory. -/
theorem walkReads_home {m k : MemSys} (h : m.home = k.home) (group frame level base : Nat) :
    walkReads m group frame level base = walkReads k group frame level base := by
  have g : ∀ l b i, groupEntry m group l b i = groupEntry k group l b i := by
    intro l b i
    unfold groupEntry pteAt
    rw [h]
  induction level generalizing base with
  | zero => rfl
  | succ level ih => simp only [walkReads, g, ih]

/-- The device's own walk also reads whose tiles the tables lie in, what the L2 holds of them, and what is poisoned. -/
theorem walkHome_home {s u : State} (h : s.mem.home = u.mem.home) (o : s.mem.seals = u.mem.seals) (l : s.mem.l2 = u.mem.l2)
    (p : s.mem.poison = u.mem.poison) (c : s.ctxs = u.ctxs) (f : s.fresh = u.fresh) (t a : Nat) : walkHome s t a = walkHome u t a := by
  have r : lineReadable s.mem t = lineReadable u.mem t := by
    funext pa
    unfold lineReadable sealMeta
    rw [o, l, p]
  unfold walkHome
  rw [walkReads_home h, walkFresh_home h c f, r, f]
  unfold ctxOf
  rw [c]

/-- Addresses of one frame take one leaf of the device's own walk. -/
theorem walkHome_frame {s : State} {t a b : Nat} (h : a / 98304 = b / 98304) (la : a < 2 ^ 56) (lb : b < 2 ^ 56) :
    walkHome s t a = walkHome s t b := by
  unfold walkHome walkFresh
  rw [h, if_neg (by omega : ¬ 2 ^ 56 ≤ a), if_neg (by omega : ¬ 2 ^ 56 ≤ b)]

/-- Addresses of one frame take one leaf. -/
theorem walkFresh_frame {s : State} {t a b : Nat} (h : a / 98304 = b / 98304) (la : a < 2 ^ 56) (lb : b < 2 ^ 56) :
    walkFresh s t a = walkFresh s t b := by
  unfold walkFresh
  rw [h, if_neg (by omega), if_neg (by omega)]

/-- The byte after one of the same frame is the next byte at its home. -/
theorem leafAddr_succ {e : Word} {a : Nat} (h : (a + 1) / 98304 = a / 98304) : leafAddr e (a + 1) = leafAddr e a + 1 := by
  have m : (a + 1) % 98304 = a % 98304 + 1 := by omega
  unfold leafAddr
  simp only [h, m]
  split <;> omega

/-- A run of bytes of one frame, read by the device. -/
theorem homeBytes_eq {s : State} {t a n : Nat} {e : Word} (w : walkHome s t a = some e) (host : leafHost e = false)
    (one : a % 98304 + n ≤ 98304) (top : a + n ≤ 2 ^ 56) : homeBytes s t a n = some (memRead s.mem.home (leafAddr e a) n) := by
  have here : homeOf s t a = some (leafAddr e a) := by unfold homeOf; rw [w]; simp [host]
  unfold homeBytes
  rw [if_pos (by simp; omega), here]
  split
  · next z => subst z; rfl
  · rfl

/-- A line of a shuttle's image that lies in one frame is 64 bytes at its home. -/
theorem peekLine_eq {s : State} {h : Shuttle} {n : Nat} {e : Word} (w : walkHome s h.tenant (lineVa h n) = some e) (host : leafHost e = false)
    (one : lineVa h n % 98304 + 64 ≤ 98304) (top : lineVa h n + 64 ≤ 2 ^ 56) :
    peekLine s h n = some (bits512 (memRead s.mem.home (leafAddr e (lineVa h n)) 64)) := by
  unfold peekLine
  rw [homeBytes_eq w host one top]
  rfl

end Sys2Proof.Machine
end

