-- ==== Sys2Proof/Tests/Slice0.lean ====
section
/-! SUPPORT. Tests: ill-formed terms refused, words written out from the encoding, worked examples of the manual, and for every statement
of Certificates/Slice0/Obligations.lean states and operands that meet its hypotheses. -/
namespace Sys2Proof.Tests
open Sys2Proof Sys2Proof.Machine Sys2Proof.Claim
set_option Elab.async false

/-! ### Well-formedness: an ill-formed term for each check, refused -/

/-- R44, R45, R20: a guard above p15 on SEQ, STR, MTX; an ordering class where none is used; a token queue of another engine. -/
theorem test_wf_refuses_controls :
    (Instr.nop { ga := 16 }).wf = false ∧ (Instr.nop { gb := 16 }).wf = false ∧ (Instr.nop { cls := 1 }).wf = false
      ∧ (Instr.nop { pop := 1 }).wf = false ∧ (Instr.nop { push := 4 }).wf = false
      ∧ (Instr.sresume { ga := 16 } 0).wf = false ∧ (Instr.sresume { cls := 1 } 0).wf = false ∧ (Instr.sresume { pop := 2 } 0).wf = false
      ∧ (Instr.msync { ga := 16 }).wf = false ∧ (Instr.msync { cls := 1 }).wf = false ∧ (Instr.msync { push := 1 }).wf = false
      ∧ (Instr.vld { cls := 1 } .t0 0).wf = false ∧ (Instr.vld { pop := 3 } .t0 0).wf = false ∧ (Instr.vst { ga := 16 } 0 (.v 0)).wf = false := by
  decide
/-- R98 to R109, R115, R118, R120, R126, R127, R130, R138: immediates and register numbers of SEQ out of their ranges. -/
theorem test_wf_refuses_seq_operands :
    (Instr.trap {} 64).wf = false ∧ (Instr.climbpt {} 256).wf = false ∧ (Instr.extZ {} 1 1 0).wf = false ∧ (Instr.extS {} 1 1 64).wf = false
      ∧ (Instr.cmp {} .eq 0 0 (.reg 0)).wf = false ∧ (Instr.cmp {} .eq 16 0 (.reg 0)).wf = false ∧ (Instr.pand {} 0 1 1).wf = false
      ∧ (Instr.por {} 1 16 1).wf = false ∧ (Instr.pxor {} 1 1 16).wf = false ∧ (Instr.pnot {} 1 16).wf = false ∧ (Instr.pmov {} 16 1).wf = false
      ∧ (Instr.br {} 0 16 0).wf = false ∧ (Instr.brl {} 0 0 4).wf = false
      ∧ (Instr.fence {} 4 0 0).wf = false ∧ (Instr.fence {} 0 7 0).wf = false ∧ (Instr.fence {} 0 0 65536).wf = false
      ∧ (Instr.barInit {} 0 (.reg 0) 0).wf = false ∧ (Instr.barArrive {} 0 0 0 7).wf = false ∧ (Instr.barWait {} 0 0 0).wf = false := by
  decide
/-- The same of R115, R126, R127, R129, R130, R133, R138. -/
theorem test_wf_refuses_seq_operands_2 :
    (Instr.amoFaddF32 {} 0 0 0 0).wf = false ∧ (Instr.run {} .vec 0 0 0).wf = false ∧ (Instr.run {} .vec 1 29 0).wf = false
      ∧ (Instr.runLoop {} .vec 1 0 0 25).wf = false ∧ (Instr.runLoop {} .vec 64 0 0 0).wf = false ∧ (Instr.popP {} 0).wf = false
      ∧ (Instr.tokPush {} 4 1).wf = false ∧ (Instr.tokPush {} 1 16).wf = false ∧ (Instr.tokPop {} 1 1).wf = false ∧ (Instr.tokPop {} 4 0).wf = false
      ∧ (Instr.getsr {} 1 0x0B none).wf = false ∧ (Instr.getsr {} 1 5 none).wf = false ∧ (Instr.getsr {} 1 4 (some 0)).wf = false
      ∧ (Instr.setsr {} 0x26 (.reg 0)).wf = false ∧ (Instr.xlinv {} 0 2).wf = false := by
  decide
/-- R166 to R176: tags, descriptors and lengths of STR out of range. -/
theorem test_wf_refuses_str_operands :
    (Instr.sbind {} 0 64 none none).wf = false ∧ (Instr.sunbind {} 0 64).wf = false ∧ (Instr.sunbind {} 0 0x7E).wf = false
      ∧ (Instr.sseek {} 0 (.imm 64)).wf = false ∧ (Instr.scopy {} 64 0 0 (.imm 0)).wf = false ∧ (Instr.scopy {} 0 0 0 (.imm 0x7F)).wf = false
      ∧ (Instr.scopy2d {} 64 0 0 0 0).wf = false ∧ (Instr.sgather {} 64 0 0 0 0).wf = false ∧ (Instr.sfill {} 64 0 (.k 0) 0).wf = false
      ∧ (Instr.sprefetch {} 0 (.imm 64)).wf = false ∧ (Instr.spromote {} 64 0 0).wf = false ∧ (Instr.stwenc {} 64 0 0 0 0).wf = false
      ∧ (Instr.slzput {} 64 0 0 (.k 0) 0).wf = false := by
  decide
/-- R189 to R203: products, blocks and panels of MTX out of the accumulator store or of the code's range. -/
theorem test_wf_refuses_mtx_operands :
    (Instr.mma {} .bf16 0 3 0 0 (.s 0) 0).wf = false ∧ (Instr.mma {} .bf16 0 0 13 0 (.s 0) 0).wf = false
      ∧ (Instr.mma {} .bf16 3 0 0 0 (.s 0) 1).wf = false ∧ (Instr.mma {} .bf16 0 0 0 0 (.s 0) 8).wf = false
      ∧ (Instr.mmaCoop {} .bf16 0 0 0 (.s 0) 0 (.imm 64)).wf = false ∧ (Instr.mmaReed {} .bf16 3 0 (.s 0) 1).wf = false
      ∧ (Instr.accZero {} 9 8 0).wf = false ∧ (Instr.accZero {} 0 0 0).wf = false ∧ (Instr.accZero {} 0 1 2).wf = false
      ∧ (Instr.accScale {} 0 1 4 5 0).wf = false ∧ (Instr.accRd {} 0 0 8).wf = false ∧ (Instr.accWr {} 0 0 8).wf = false
      ∧ (Instr.accFlush {} 7 2).wf = false ∧ (Instr.mpre {} 0 10 0).wf = false ∧ (Instr.mpre {} 0 0 4).wf = false := by
  decide
/-- R247 to R261: types, sources and shapes that VEC entries do not list. -/
theorem test_wf_refuses_vec_operands :
    (Instr.vadd {} .i32 .t0 (.v 0) (.v 0)).wf = false ∧ (Instr.vfma {} .u8 .t0 (.v 0) (.v 0) (.v 0)).wf = false
      ∧ (Instr.vabs {} .i8 .t0 (.v 0)).wf = false ∧ (Instr.viadd {} .f32 .t0 (.v 0) (.v 0)).wf = false
      ∧ (Instr.vexp {} .f16 .t0 (.v 0)).wf = false ∧ (Instr.vcmp {} .eq .f32 15 (.v 0) (.v 0)).wf = false
      ∧ (Instr.vredSumRow {} .i16 .t0 (.v 0)).wf = false ∧ (Instr.vredMaxCol {} .f32 .t0 (.k 0)).wf = false
      ∧ (Instr.vredMaxsumRow {} .f32 1 1 (.v 0) (.v 0)).wf = false ∧ (Instr.vredMaxsumCol {} .f16 0 1 (.v 0) (.v 0)).wf = false
      ∧ (Instr.vcvt {} .f32 .f32 .rne .t0 (.v 0)).wf = false ∧ (Instr.vcvt {} .bf16 .b16m7 .rne .t0 (.v 0)).wf = false
      ∧ (Instr.vcvt {} .b16m7 .f32 .rne .t0 (.k 0)).wf = false ∧ (Instr.vmov {} .t0 (.imm 0)).wf = false
      ∧ (Instr.vshapeImm {} 0x0010).wf = false ∧ (Instr.vshapeImm {} 0x11010).wf = false ∧ (Instr.vbcast {} .b32 .t0 (.k 0) 1).wf = false
      ∧ (Instr.vbcast {} .b32 .t0 (.v 0) 2).wf = false ∧ (Instr.vperm {} .b32 .t0 (.v 0) (.k 0)).wf = false
      ∧ (Instr.vpand {} 15 16 16).wf = false ∧ (Instr.vpnot {} 0 16).wf = false ∧ (Instr.vext {} (.v 0) (.imm 16) (.imm 0)).wf = false := by
  decide
/-- R337 to R341, and places that do not exist (R1, R15). -/
theorem test_wf_refuses_body_operands_and_places :
    (Instr.fld 32 0).wf = false ∧ (Instr.fldp 0 8).wf = false ∧ (Instr.fnext 8).wf = false ∧ (Instr.frec 0 16).wf = false
      ∧ (Instr.ndMov 0 32).wf = false ∧ (Instr.imm 32 0 0).wf = false ∧ (Instr.ndAdd 0 0 32).wf = false ∧ (Instr.ndCmp .eq 0 32 0).wf = false
      ∧ (Instr.cvt 0 0 0 4).wf = false ∧ (Instr.twd 0 0 24).wf = false ∧ (Instr.b16x 0 0 3).wf = false ∧ (Instr.reed 32).wf = false
      ∧ (Instr.rflush 0 2).wf = false ∧ (Instr.wst 0 8).wf = false ∧ (Instr.wacc 32 0 0).wf = false ∧ (Instr.wmb 0 12).wf = false
      ∧ (Instr.barWaitReturn ⟨384, 0⟩).wf = false ∧ (Instr.tokenAvailable ⟨0, 4⟩ .seq).wf = false ∧ (Instr.entryStart ⟨384, 0⟩ .vec).wf = false
      ∧ (Instr.mscFill Config.physTiles).wf = false ∧ (Instr.l1Evict 384 0).wf = false := by
  decide

/-! ### Words written out from the encoding tables (R43, R46, R47, R50 to R60) -/

/-- One word a family of SEQ: `ldi` with its 40-bit immediate, `amo.add` of width 64, `run.vec`, `run.loop.vec`, `kick`, `climbpt`. -/
theorem test_words_seq :
    (decodeWord 0x0A000000000C04003F000000).toOption = some (.ldi {} 4 (.imm40 0x3F000000))
      ∧ (decodeWord 0x26800000000B830100000006).toOption = some (.run {} .vec 3 4 6)
      ∧ (decodeWord 0x288000000007810200005F86).toOption = some (.runLoop {} .vec 1 8 23 6)
      ∧ (decodeWord 0x2C40000000000A0540000000).toOption = some (.kick {} 10 21)
      ∧ (decodeWord 0x00C000000004000000000000).toOption = some (.climbpt {} 0)
      ∧ (decodeWord 0x18C000100000090180700382).toOption = some (.amoAdd { cls := 1 } .w64 9 6 7 2) := by
  decide +kernel
/-- One word a family of STR: `sunbind` with a POP, `scopy` in two ordering classes and hints, `spromote`, `stwenc`. -/
theorem test_words_str :
    (decodeWord 0x40C00001000182E000000000).toOption = some (.sunbind { pop := 8 } 2 0)
      ∧ (decodeWord 0x41400010000385A0680A0800).toOption = some (.scopy { cls := 1 } 5 1 0 (.k 2))
      ∧ (decodeWord 0x42C00000000381A028100000).toOption = some (.spromote {} 1 0 1)
      ∧ (decodeWord 0x43800000000382A0281A0A83).toOption = some (.stwenc {} 2 0 1 2 3) := by
  decide +kernel
/-- One word a family of MTX: `mma`, `mma.coop`, `mma.reed`, `acc.scale`. -/
theorem test_words_mtx :
    (decodeWord 0xB000000000020060181E0000).toOption = some (.mma {} .bf16 0 0 0 0 (.s 1) 0)
      ∧ (decodeWord 0xE840000000020060181E0380).toOption = some (.mmaCoop {} .twB16m4 0 1 0 (.s 1) 0 (.imm 0))
      ∧ (decodeWord 0xEC00000000020060181E0000).toOption = some (.mmaReed {} .bf16 0 0 (.s 1) 0)
      ∧ (decodeWord 0xF6400000000200E4380E2281).toOption = some (.accScale {} 0 16 0 8 1) := by
  decide +kernel
/-- One word a family of VEC: `vfma`, `vcvt`, `vshape`, `vred.sum.row`, `vtrn`, `vld`. -/
theorem test_words_vec :
    (decodeWord 0x5611290000614050502A0400).toOption =
        some (.vfma { ga := 17, gb := 20, gbn := true, sched := 3 } .f32 .t0 (.t 1) (.v 2) (.k 1))
      ∧ (decodeWord 0xA400000000014050380E0780).toOption = some (.vcvt {} .f32 .bf16 .rne .t0 (.t 0))
      ∧ (decodeWord 0xA6C000000010000000001010).toOption = some (.vshapeImm {} 0x1010)
      ∧ (decodeWord 0x980000000001404000000000).toOption = some (.vredSumRow {} .f32 .t0 (.v 0))
      ∧ (decodeWord 0xA800000000010460C0000000).toOption = some (.vtrn {} .b32 (.v 4) (.s 3))
      ∧ (decodeWord 0xA640000000010460C0000000).toOption = some (.vld {} (.v 4) 3) := by
  decide +kernel
/-- One word a slot of a near-data word (R58 to R60). -/
theorem test_words_near_data :
    (decodeFetch 0x01000000).toOption = some (.fld 0 0) ∧ (decodeArith 0x28010000).toOption = some (.dot 1 0 0)
      ∧ (decodeArith 0x38010000).toOption = some (.reed 1) ∧ (decodeArith 0x39020000).toOption = some (.rflush 2 0)
      ∧ (decodeWb 0x03020000).toOption = some (.wmb 2 0) ∧ (decodeWb 0x01020200).toOption = some (.wst 2 2) := by
  decide +kernel
/-- R48, R50: an opcode that no row has, an operand form that the entry does not take, operations that no slot has. -/
theorem test_words_refused :
    (decodeWord 0xFFC000000000000000000000).toOption = none ∧ (decodeWord 0x268000000003830100000006).toOption = none
      ∧ (decodeArith 0xFF000000).toOption = none ∧ (decodeFetch 0x05000000).toOption = none := by
  decide +kernel

/-! ### Worked examples of the manual -/

/-- The state that an outcome gives. -/
def after (o : Host.Outcome State Fault Refusal) : State :=
  match o with
  | .next t => t
  | _ => State.reset

/-- R123: the word through the six steps of the table, E = 2; the early arrival of step 2 once more is BAROVER. -/
theorem test_barrier_table :
    barArriveWord (barWord 2 0 0 0) 0 = some (barWord 2 1 0 0) ∧ barArriveWord (barWord 2 1 0 0) 1 = some (barWord 2 1 1 0)
      ∧ barArriveWord (barWord 2 1 1 0) 0 = some (barWord 2 1 0 1) ∧ barArriveWord (barWord 2 1 0 1) 1 = some (barWord 2 0 0 0)
      ∧ barArriveWord (barWord 2 1 1 0) 1 = none := by decide +kernel
/-- R211: the table of roundings, with E4M3 overflow under SATFINITE (0), INF (1) and NAN (2). -/
theorem test_rounding_table :
    roundTo 0 .bf16 .rne (f32 0x3F808000) = (0x3F80, Flag.nx) ∧ roundTo 0 .bf16 .rne (f32 0x3F818000) = (0x3F82, Flag.nx)
      ∧ roundTo 0 .bf16 .rtz (f32 0x3F818000) = (0x3F81, Flag.nx) ∧ roundTo 0 .bf16 .rdn (f32 0x3F818000) = (0x3F81, Flag.nx)
      ∧ roundTo 0 .bf16 .rup (f32 0x3F818000) = (0x3F82, Flag.nx) ∧ roundTo 0 .e4m3 .rne (f32 0x43960000) = (0x79, Flag.nx)
      ∧ roundTo 0 .e4m3 .rne (f32 0x43E80000) = (0x7E, Flag.nx) ∧ roundTo 0 .e4m3 .rne (f32 0x43E88000) = (0x7E, Flag.ofl ||| Flag.nx)
      ∧ roundTo 0x10 .e4m3 .rne (f32 0x43E88000) = (0x7F, Flag.ofl ||| Flag.nx) ∧ roundTo 0x20 .e4m3 .rne (f32 0x43E88000) = (0x7F, Flag.ofl ||| Flag.nx)
      ∧ roundTo 0 .e4m3 .rtz (f32 0x43E88000) = (0x7E, Flag.nx) ∧ roundTo 0 .f16 .rne (f32 0x32800000) = (0, Flag.uf ||| Flag.nx)
      ∧ roundTo 0 .f16 .rne (f32 0x33400000) = (1, Flag.uf ||| Flag.nx) := by decide +kernel
/-- R212: 16,777,217 to FP32; 3.5 to INT8 under the four modes; −2.5 and −200.7 to INT8. -/
theorem test_conversion_examples :
    cvtElem 0 .i32 .f32 .rne 16777217 = (0x4B800000, Flag.nx) ∧ cvtElem 0 .f32 .i8 .rne 0x40600000 = (4, Flag.nx)
      ∧ cvtElem 0 .f32 .i8 .rtz 0x40600000 = (3, Flag.nx) ∧ cvtElem 0 .f32 .i8 .rdn 0x40600000 = (3, Flag.nx)
      ∧ cvtElem 0 .f32 .i8 .rup 0x40600000 = (4, Flag.nx) ∧ cvtElem 0 .f32 .i8 .rne 0xC0200000 = (0xFE, Flag.nx)
      ∧ cvtElem 0 .f32 .i8 .rup 0xC348B333 = (0x80, Flag.nv) := by decide +kernel
/-- R215: the reed sums of 3, 5, 7 and 12 terms, the first 2^24 and the others 1.0. -/
theorem test_reed_sums :
    (sumTerms .f32 0 (0x4B800000 :: List.replicate 2 0x3F800000)).1 = 0x4B800000
      ∧ (sumTerms .f32 0 (0x4B800000 :: List.replicate 4 0x3F800000)).1 = 0x4B800002
      ∧ (sumTerms .f32 0 (0x4B800000 :: List.replicate 6 0x3F800000)).1 = 0x4B800002
      ∧ (sumTerms .f32 0 (0x4B800000 :: List.replicate 11 0x3F800000)).1 = 0x4B800005 := by decide +kernel
/-- R218: rcp of 2^−130 overflows; exp2 of −140 is the subnormal 2^−140, exact; log2 of 8 is 3; rcp of −0 is −∞ with DZ; sqrt of −1 is a NaN
with NV. -/
theorem test_special_functions :
    special .rcp 0 .f32 (f32 0x00080000) = (0x7F800000, Flag.ofl ||| Flag.nx) ∧ special .exp2 0 .f32 (f32 0xC30C0000) = (0x200, 0)
      ∧ special .log2 0 .f32 (f32 0x41000000) = (0x40400000, 0) ∧ special .rcp 0 .f32 (f32 0x80000000) = (0xFF800000, Flag.dz)
      ∧ special .sqrt 0 .f32 (f32 0xBF800000) = (Fmt.f32.cnan, Flag.nv) := by decide +kernel
/-- R225 and the example of R221: with e = 135, rate 2 and bit 30 alone set, weights 10 to 20 of the segment, and weight 0. -/
theorem test_twill_weights :
    [0, 10, 11, 12, 13, 14, 15, 16, 17, 18, 19, 20].map (fun i => twDecode (2 ^ 30) 2 135 i)
      = [52, 180, 116, 4, 28, 110, 209, -164, 72, -7, -105, 13].map (fun n : Int => FV.fin (decide (n < 0)) n.natAbs 0) := by decide +kernel
/-- The same example, bit 100 set: weights 57 to 67. -/
theorem test_twill_weights_2 :
    [57, 58, 59, 60, 61, 62, 63, 64, 65, 66, 67].map (fun i => twDecode (2 ^ 100) 2 135 i)
      = [180, 212, 4, 168, 110, -125, -164, -66, -7, -26, 13].map (fun n : Int => FV.fin (decide (n < 0)) n.natAbs 0) := by decide +kernel
/-- R282: the bytes of the card trn_ld. -/
theorem test_card_bytes :
    bytesOf 64 (stockCards.headD 0).toNat =
      [0x17, 0, 0, 0, 0xA0, 2, 0x11, 0x32, 0x70, 0x70, 0x70, 0, 0xA0, 2, 1, 1, 0x70, 0x70, 0x70, 0] ++ List.replicate 16 0
        ++ [0x99, 0x62, 0, 0, 0, 0, 2, 4, 0, 0, 0, 0] ++ List.replicate 16 0 := by decide +kernel
/-- R284: the five cards of the stock deck pass the checks of R282. -/
theorem test_stock_cards_pass : stockCards.map (cardOk (modModule State.reset fun m => { m with accept := 15 })) = [true, true, true, true, true] := by
  decide +kernel
/-- R351: 2^24, 1, 1, 1 summed under MODE 0 and under MODE 1 with TREE = 4. -/
theorem test_zone_trees :
    (reedOf fadd 0 [0x4B800000, 0x3F800000, 0x3F800000, 0x3F800000]).1 = 0x4B800001
      ∧ (treeOf fadd 0 [4] [0x4B800000, 0x3F800000, 0x3F800000, 0x3F800000]).1 = 0x4B800000 := by decide +kernel

/-- A shuttle of place (0, 0) that runs an exposed line on VEC, with three tiles all 1.0, all 2.0 and all 10.0. -/
def exposedVec : Shuttle :=
  let all (x : Nat) : TileBits := tileBuild 4 fun _ _ => x
  { place := ⟨0, 0⟩, life := .running, v := #v[all 0x3F800000, all 0x40000000, all 0x41200000, 0, 0, 0, 0, 0],
    ring := List.replicate 16 0, reserved := 16, vec := { cur := some { inter := false, left := 3 } } }
/-- The newest result of a shuttle's ring that has not landed: its landing cycle, first element and last element. -/
def newestResult (s : State) : Option (Nat × Nat × Nat) := s.me.rpend.getLast?.map fun r => (r.2.1, tileElem r.2.2 4 0 0, tileElem r.2.2 4 15 15)
/-- R244: the example, with sched=5 and with sched=4 on the `vadd`. -/
theorem test_exposed_example :
    newestResult (after (exec (.vmul { sched := 5 } .f32 .t0 (.t 0) (.v 2))
      (after (exec (.vadd { sched := 5 } .f32 .t0 (.v 0) (.v 1)) { State.reset with me := exposedVec })))) = some (12, 0x41F00000, 0x41F00000)
    ∧ newestResult (after (exec (.vmul { sched := 5 } .f32 .t0 (.t 0) (.v 2))
      (after (exec (.vadd { sched := 4 } .f32 .t0 (.v 0) (.v 1)) { State.reset with me := exposedVec })))) = some (11, 0, 0) := by decide +kernel

/-! ### One step of a family, from reset with the word in place -/

/-- R100: `ldi g4, 0x3F000000`. -/
theorem test_step_ldi : getG (after (step (State.reset.withFetchWord 96 0x0A000000000C04003F000000))).me 4 = 0x3F000000 := by decide +kernel
/-- R247: `vshape` 16 × 16, of COLS 16 and ROWS 16. -/
theorem test_step_vshape :
    let t := after (step (State.reset.withFetchWord 96 0xA6C000000010000000001010)); (t.me.rows, t.me.cols) = (16, 16) := by decide +kernel
/-- R340: `reed` of a zero term counts it. -/
theorem test_step_reed : ((after (step (State.reset.withFetchWord 32 0x38010000))).nd.body.map fun b => (b.regs.c, b.phase)) = some (1, 3) := by
  decide +kernel
/-- R12, R169: `sunbind` of an unbound stream sets its tag ready; the one here first waits for its token. -/
theorem test_step_sunbind_waits :
    let t := after (step (State.reset.withFetchWord 96 0x40C00001000182E000000000)); (t.me.tagReady, t.me.str.cur.map (·.slot)) = (0, some 0) := by
  decide +kernel
/-- R8: an agenda entry that is no happening is the one fault. -/
theorem test_step_faults : step { State.reset with agenda := [.event (.nop {})] } = .fault .notAHappening := rfl

/-! ### States for the witnesses -/

/-- A pair whose second part is known. -/
theorem pairOk {α ε σ : Type} {x : σ × Option (Except ε α)} {v : α} (h : (x.2.bind fun y => y.toOption) = some v) :
    x = (x.1, some (.ok v)) := by
  obtain ⟨u, _ | ⟨_ | y⟩⟩ := x <;> simp_all [Except.toOption]
theorem exceptOk {α ε σ : Type} {x : σ × Except ε α} {v : α} (h : x.2.toOption = some v) : x = (x.1, .ok v) := by
  obtain ⟨u, _ | y⟩ := x <;> simp_all [Except.toOption]
theorem pairEq {σ β : Type} {x : σ × β} {v : β} (h : x.2 = v) : x = (x.1, v) := by rw [← h]

/-- A line of the image: engine, next line, slots, interlocked, last, words. -/
def codeLine (eng next : Nat) (inter last : Bool) (ws : List Nat) : Nat :=
  eng * 2 ^ 29 + next * 2 ^ 7 + ws.length * 16 + (if inter then 8 else 0) + (if last then 1 else 0)
    + (ws.zipIdx.map fun w => w.1 * 2 ^ (32 + 96 * w.2)).foldl (· + ·) 0
/-- Device memory: tables at 8,192 that map the first 402 MB of a tenant's space to themselves, readable and writable; a fault queue of 16
records at 131,072; and two
lines of SEQ code at 196,608: five `nop`, then `safept` and `nop`. ; a kick
descriptor of 1 trip at 262,208, its argument block of zeros at 262,272; an object table at 327,680 whose entry 0 is a kernel that may be
kicked, its header of zeros at 393,216, whose entry 1 is a readable and writable tensor
of FP32, entry 2 a tensor of twill with its scale records, entry 3 a landing zone and entry 4 a tier map of two picks of that tensor, the
second lost, entry 5 a kernel of one line, `climbpt 7` and `nop`, entry 6 a save area of 1 MiB and entry 7 a counter, the others 4,096 bytes
each; a climb record at 262,464 of kernel 5, point 7, one pick; a launch queue at 983,040 of depth 16 with one record, of band 1, of kernel 5; a stream
descriptor at 425,984: four FP32 elements of the scratchpad from offset 0, one block; at 426,240 two safe-point records, entry heads 0 of STR and of VEC, 5 cycles each. -/
def tables : Mem := [(8192, 1), (8196, 2), (16384, 1), (16388, 3), (24576, 59), (24584, 59), (24592, 59), (24600, 59), (131072, 16)]
def image : Mem := tables ++ [(196608, 0xD8), (196672, 0x29), (196686, 0x80), (262216, 0xFF), (262217, 0xFF), (262228, 1), (262232, 0x80), (262234, 4), (262464, 5), (262466, 7), (262476, 1),
  (327682, 6), (327689, 0x10), (327694, 6), (327695, 0x10), (327711, 0x80),
  (327714, 7), (327721, 0x10), (327727, 3), (327729, 4), (327743, 0x80), (327746, 8), (327753, 0x10), (327759, 3), (327760, 12), (327766, 9), (327771, 2), (327775, 0x80),
  (327778, 10), (327785, 0x10), (327790, 4), (327791, 2), (327807, 0x80), (327810, 11), (327817, 0x10), (327822, 5), (327823, 8), (327839, 0x80),
  (327842, 12), (327849, 0x10), (327854, 6), (327855, 0x11), (327856, 0xFF), (327871, 0x80),
  (327874, 13), (327882, 0x10), (327886, 7), (327887, 3), (327888, 0xFF), (327903, 0x80),
  (327906, 14), (327913, 0x10), (327918, 3), (327919, 3), (327920, 0xFF), (327935, 0x80),
  (425984, 0xFF), (425985, 0xFF), (425991, 3), (425992, 1), (426000, 4), (426004, 4), (426244, 5), (426248, 1), (426260, 5), (426264, 2), (720896, 2), (720900, 4), (720902, 1), (720968, 0x20),
  (786432, 0x40), (786434, 12), (786440, 1), (786496, 41), (786501, 28), (786506, 4), (786510, 192),
  (983040, 16), (983048, 1), (983104, 5), (983107, 1), (983109, 1), (983136, 6), (983138, 7), (983144, 1), (983152, 1), (983153, 1), (983154, 1)]
/-- Tenant 0's context with those tables and that queue. -/
def tenant0 : Ctx := { tenant := 0, objBase := 327680, xlBase := 8192, faultQ := 131072 }
/-- A shuttle of tenant 0 in user mode at the first line, its g registers small numbers, its handler at the second line. -/
def userShuttle : Shuttle :=
  { place := ⟨0, 0⟩, life := .running, pc := 0, trapVec := 8, kern := { codeBase := 196608, lines := 2 },
    g := #v[0, 64, 7, 3, 5, 9, 16, 1, 2, 4, 6, 8, 10, 12, 14, 16, 18, 20, 22, 24, 26, 28, 30, 32, 34, 36, 38, 40, 42, 44, 46, 48] }
/-- A machine with that shuttle in focus. -/
def user : State := { State.reset with me := userShuttle, ctxs := [tenant0], mem := { home := image } }
/-- The machine with its shuttle changed. -/
def with' (f : Shuttle → Shuttle) : State := { user with me := f userShuttle }
/-- The machine in privileged mode. -/
def priv : State := with' fun h => { h with priv := true }
/-- The lines of that code, and its chain. -/
def line0 : BitVec 512 := BitVec.ofNat 512 (codeLine 0 1 true false [0, 0, 0, 0, 0])
def line1 : BitVec 512 := BitVec.ofNat 512 (codeLine 0 0 true true [2 ^ 87, 0])
def codeChain : List (Word × IWord) := [(0, 0), (1, 0), (2, 0), (3, 0), (4, 0), (8, 2 ^ 87), (9, 0)]
/-- Where the image is in place and the tables map its frame to itself, the lines read so. -/
theorem image_lines {s : State} {h : Shuttle} (w : walkHome s h.tenant 196608 = some 59) (m : s.mem.home = image)
    (k : h.kern = userShuttle.kern) : peekLine s h 0 = some line0 ∧ peekLine s h 1 = some line1 := by
  have a0 : lineVa h 0 = 196608 := by simp [lineVa, k, userShuttle]
  have a1 : lineVa h 1 = 196672 := by simp [lineVa, k, userShuttle]
  have w1 : walkHome s h.tenant 196672 = some 59 := by rw [walkHome_frame (b := 196608) (by decide) (by decide) (by decide), w]
  constructor
  · rw [peekLine_eq (e := 59) (by rw [a0, w]) (by decide) (by rw [a0]; decide) (by rw [a0]; decide), a0, m]; decide +kernel
  · rw [peekLine_eq (e := 59) (by rw [a1, w1]) (by decide) (by rw [a1]; decide) (by rw [a1]; decide), a1, m]; decide +kernel
theorem image_chain {s : State} {h : Shuttle} (w : walkHome s h.tenant 196608 = some 59) (m : s.mem.home = image)
    (k : h.kern = userShuttle.kern) : seqChain s h = codeChain := by
  obtain ⟨p0, p1⟩ := image_lines w m k
  have l0 : Link.last line0 = false ∧ Link.next line0 = 1 := by decide +kernel
  have l1 : Link.last line1 = true := by decide +kernel
  have c : chainFrom s h 2 [] 0 = [(0, line0), (1, line1)] := by
    simp [chainFrom, p0, p1, l0, l1, k, userShuttle]
  have e : h.kern.lines = 2 ∧ h.kern.seqHead = 0 := by rw [k]; decide
  unfold seqChain
  rw [e.1, e.2, c]
  decide +kernel
/-- What that chain makes of the branch checks. -/
theorem chain_slots {s : State} {h : Shuttle} (c : seqChain s h = codeChain) : delaySlots s h 0 0 = some 1 ∧ delaySlots s h 0 3 = some 4 := by
  unfold delaySlots; simp only [c]; decide +kernel
theorem chain_targets {s : State} {h : Shuttle} (c : seqChain s h = codeChain) : targetOk s h 8 = true ∧ targetOk s h 9 = true := by
  unfold targetOk; simp only [c]; decide +kernel
theorem chain_indirect {s : State} {h : Shuttle} (c : seqChain s h = codeChain) : indirectOk s h 8 = true := by
  unfold indirectOk; simp only [c]; decide +kernel

/-- An object entry read for the first time, of a table whose frame maps to itself. -/
theorem entry_read {s : State} {t i a : Nat} (b : (ctxOf s t).objBase.toNat + 32 * i = a) (w : walkHome s t a = some 59) (n : s.mem.objs = [])
    (one : a % 98304 + 32 ≤ 98304 ∧ a + 32 ≤ 2 ^ 56 ∧ leafAddr 59 a = a) (ne : i ≠ 0xFFFF) :
    objEntry s t i = (modMem s (fun m => { m with objs := m.objs ++ [{ tenant := t, idx := i, bits := entryOf (memRead s.mem.home a 32) }] }),
      some (entryOf (memRead s.mem.home a 32))) := by
  unfold objEntry entryFresh
  rw [if_neg ne, b, homeBytes_eq w (by decide) one.1 one.2.1, one.2.2, n]
  rfl

/-- A scratchpad reference at an offset (R146). -/
def own (off : Nat) : Word := BitVec.ofNat 64 (0xFFFF * 2 ^ 48 + off)
/-- A reference into an object. -/
def inObj (i off : Nat) : Word := BitVec.ofNat 64 (i * 2 ^ 48 + off)
/-- An entry that an engine runs, with captured registers; exposed lines, so that nothing is waited for. -/
def running (a b c d : Word) : Cur := { entry := { k0 := a, k1 := b, k2 := c, k3 := d }, inter := false, left := 3 }
/-- The shuttle's stream engine at an instruction, with captured registers. -/
def strUser (a b c d : Word) : State := with' fun h => { h with kern := { h.kern with base := 425984, nStream := 1 }, str := { cur := some (running a b c d) } }
/-- A bound stream of one block of four FP32 elements of the scratchpad, in or out. -/
def smallStream (out : Bool) : Stream :=
  { desc := { obj := 0xFFFF, out := out, rows := 1, cols := 4, ndims := 1, counts := [4, 0, 0, 0], strides := [4, 0, 0, 0] }, entry := 0, n := 1 }
/-- A stream bound at s0. -/
def strWith (x : Stream) : State :=
  let s := strUser 0 0 0 0
  { s with me := { s.me with s := s.me.s.set 0 (some x) } }

/-- The entries of the object table, as they are read. -/
def entry (i : Nat) : BitVec 256 := entryOf (memRead image (327680 + 32 * i) 32)
/-- The state after an entry has been read for the shuttle in focus. -/
def readEntry (s : State) (i : Nat) : State :=
  modMem s (fun k => { k with objs := k.objs ++ [{ tenant := s.me.tenant, idx := i, bits := entry i }] })
theorem readEntry_me (s : State) (i : Nat) : (readEntry s i).me = s.me := rfl
theorem readEntry_walk (s : State) (i t a : Nat) : walkHome (readEntry s i) t a = walkHome s t a := by
  have h : (readEntry s i).mem.home = s.mem.home := rfl
  have c : (readEntry s i).ctxs = s.ctxs := rfl
  have f : (readEntry s i).fresh = s.fresh := rfl
  exact walkHome_home h rfl rfl rfl c f t a
theorem entry_of {s : State} {i : Nat} (o : (ctxOf s s.me.tenant).objBase.toNat = 327680) (w : walkHome s s.me.tenant (327680 + 32 * i) = some 59)
    (n : s.mem.objs = []) (m : s.mem.home = image) (lt : i < 5) : objEntry s s.me.tenant i = (readEntry s i, some (entry i)) := by
  have h : ∀ j < 5, leafAddr 59 (327680 + 32 * j) = 327680 + 32 * j := by decide
  rw [entry_read (by rw [o]) w n ⟨by omega, by omega, h i lt⟩ (by omega), m]; rfl
/-- Reads of the image, where the frame of an address maps to itself. -/
theorem image_read {s : State} {a n : Nat} (w : walkHome s 0 a = some 59) (m : s.mem.home = image) (h : a % 98304 + n ≤ 98304) (t : a + n ≤ 2 ^ 56)
    (l : leafAddr 59 a = a) : homeBytes s 0 a n = some (memRead image a n) := by
  rw [homeBytes_eq w (by decide) h t, l, m]
theorem entry_fresh {s : State} {i : Nat} (w : walkHome s 0 327680 = some 59) (m : s.mem.home = image) (o : (ctxOf s 0).objBase.toNat = 327680)
    (lt : i < 8) : entryFresh s 0 i = some (entry i) := by
  have h : ∀ j < 8, (327680 + 32 * j) / 98304 = 327680 / 98304 ∧ leafAddr 59 (327680 + 32 * j) = 327680 + 32 * j := by decide
  unfold entryFresh
  rw [if_neg (by omega), o, image_read (by rw [walkHome_frame (b := 327680) (h i lt).1 (by omega) (by decide), w]) m (by omega) (by omega) (h i lt).2]
  rfl
theorem fields (i off : Nat) (li : i < 65536) (lt : off < 2 ^ 48) :
    bitsOf (BitVec.ofNat 64 (i * 2 ^ 48 + off)).toNat 63 48 = i ∧ bitsOf (BitVec.ofNat 64 (i * 2 ^ 48 + off)).toNat 47 0 = off := by
  have e : (BitVec.ofNat 64 (i * 2 ^ 48 + off)).toNat = i * 2 ^ 48 + off := by
    rw [BitVec.toNat_ofNat, Nat.mod_eq_of_lt]; omega
  unfold bitsOf
  rw [e]
  omega
theorem takeRef_scratch {s : State} {u : ObjUse} {off : Nat} {w : Word} (a : bitsOf w.toNat 63 48 = 0xFFFF) (b : bitsOf w.toNat 47 0 = off)
    (h : scratchUse u = true) : takeRef s u w = (s, .ok { obj := 0xFFFF, off := off }) := by
  simp [takeRef, useObj, a, b, h]
theorem takeRef_own {s : State} {u : ObjUse} {off : Nat} (h : scratchUse u = true) (lt : off < 2 ^ 48) :
    takeRef s u (own off) = (s, .ok { obj := 0xFFFF, off := off }) :=
  have f := fields 0xFFFF off (by decide) lt
  takeRef_scratch f.1 f.2 h
/-- A reference into an object whose entry is read, usable, and of the use. -/
theorem takeRef_entry {s t : State} {u : ObjUse} {i off : Nat} {w : Word} {e : BitVec 256} (a : bitsOf w.toNat 63 48 = i)
    (b : bitsOf w.toNat 47 0 = off) (r : objEntry s s.me.tenant i = (t, some e)) (ok : (Obj.usable e && useOk e u) = true) (lt : i < 0xFFFF) :
    takeRef s u w = (t, .ok { obj := i, off := off, entry := e }) := by
  have n : ¬ i = 65535 := by omega
  simp only [takeRef, useObj, a, b, n, if_false, r, ok, if_true]
theorem takeRef_obj {s t : State} {u : ObjUse} {i off : Nat} {e : BitVec 256} (r : objEntry s s.me.tenant i = (t, some e))
    (ok : (Obj.usable e && useOk e u) = true) (lt : off < 2 ^ 48 ∧ i < 0xFFFF) :
    takeRef s u (inObj i off) = (t, .ok { obj := i, off := off, entry := e }) :=
  have f := fields i off (by omega) lt.1
  takeRef_entry f.1 f.2 r ok lt.2

/-- A reference into an object of the table, its entry read for the first time. -/
theorem takeRef_known {s : State} {u : ObjUse} {i off : Nat} (o : (ctxOf s s.me.tenant).objBase.toNat = 327680)
    (w : walkHome s s.me.tenant 327680 = some 59) (n : s.mem.objs = []) (m : s.mem.home = image)
    (ok : (Obj.usable (entry i) && useOk (entry i) u) = true) (lt : off < 2 ^ 48 ∧ i < 5) :
    takeRef s u (inObj i off) = (readEntry s i, .ok { obj := i, off := off, entry := entry i }) := by
  have h : ∀ j < 5, (327680 + 32 * j) / 98304 = 327680 / 98304 := by decide
  have w' : walkHome s s.me.tenant (327680 + 32 * i) = some 59 := by
    rw [walkHome_frame (b := 327680) (h i lt.2) (by omega) (by decide), w]
  rw [takeRef_obj (entry_of o w' n m lt.2) ok ⟨lt.1, by omega⟩]

/-- The tier map of entry 4. -/
theorem tierMap_fresh {s : State} (w : walkHome s 0 327680 = some 59) (w' : walkHome s 0 720896 = some 59) (m : s.mem.home = image)
    (o : (ctxOf s 0).objBase.toNat = 327680) :
    tmapOf s 0 4 = some { tenant := 0, idx := 4, base := 720896, picks := 2, log2pick := 4, streamable := false, tensor := 1, sched := 0, entry := entry 1 } := by
  have e (i : Nat) (lt : i < 5) : entryFresh s 0 i = some (entry i) := entry_fresh w m o (by omega)
  have b : Obj.base (entry 4) = 720896 ∧ (Obj.usable (entry 4) && decide (Obj.type (entry 4) = 5)) = true := by decide +kernel
  have hd : homeBytes s 0 720896 10 = some [2, 0, 0, 0, 4, 0, 1, 0, 0, 0] := by
    rw [homeBytes_eq w' (by decide) (by decide) (by decide), m]; decide +kernel
  simp only [tmapOf, e 4 (by decide), b.1, b.2, hd, if_true]
  rw [show bitsOf (natOfBytes [2, 0, 0, 0, 4, 0, 1, 0, 0, 0]) 63 48 = 1 by decide, e 1 (by decide)]
  simp only [Option.some.injEq]
  decide +kernel

/-- In an exposed line, with a result pending for g6. -/
def exposedUser : State :=
  with' fun h => { h with hand := some (0, BitVec.ofNat 512 (codeLine 0 1 false false [0])), pend := [{ dest := .g 6, val := 1, land := 3 }] }
/-- With g1 an address of the own scratchpad, and a barrier word of E = 2 there. -/
def scratchUser (o : Nat) (bs : List Byte) : State :=
  { user with
    me := { userShuttle with g := userShuttle.g.set 1 (BitVec.ofNat 64 (Config.localRange + o)) }
    tile := { user.tile with scratch := memWrite [] o bs } }

/-! ### Witnesses: the sequencer -/

/-- b0 at the second instruction of line 1; b2 at `safept`, from a g register; and no handler. -/
def branchA : State := with' fun h => { h with b := #v[{ addr := 9 }, {}, {}, {}] }
def branchB : State := with' fun h => { h with b := #v[{}, {}, { addr := 8, fromG := true }, {}] }
def noHandler : State := with' fun h => { h with trapVec := 0 }
/-- O1: a division by zero and one by 3, in an interlocked and in an exposed line. -/
theorem witness_DivisionResult :
    divParts (.div {} 1 2 (.reg 0)) = some ({}, 1, 2, .reg 0) ∧ Issues {} user
      ∧ divParts (.remu {} 1 2 (.imm20 3)) = some ({}, 1, 2, .imm20 3) ∧ Issues {} exposedUser := by
  unfold Issues; (repeat' apply And.intro) <;> decide +kernel
/-- O2: a clause each: a shift, `ldi` of 40 bits, `ext.s` at n = 63, a compare of p15. -/
theorem witness_SeqResults :
    (binaryParts (.shl {} 1 2 (.imm7 63)) = some ({}, 1, 2, .imm7 63, 1) ∧ Issues {} user)
    ∧ (extOk (.ldi {} 1 (.imm40 1)) ∧ Issues {} user ∧ unaryParts (.ldi {} 1 (.imm40 1)) (reader {} user) = some ({}, 1, 1))
    ∧ (extOk (.extS {} 1 2 63) ∧ Issues {} exposedUser ∧ (unaryParts (.extS {} 1 2 63) (reader {} exposedUser)).isSome = true)
    ∧ ((15#6).toNat < 16 ∧ Issues {} user ∧ predParts (.cmp {} .lt 15 1 (.imm20 65)) (reader {} user) = some ({}, 15, true)) := by
  unfold Issues extOk; (repeat' apply And.intro) <;> decide +kernel
theorem branchA_chain : seqChain (start {} branchA) (reader {} branchA) = codeChain := by
  have w : walkHome (start {} branchA) (reader {} branchA).tenant 196608 = some 59 := by decide +kernel
  have m : (start {} branchA).mem.home = image := by decide +kernel
  have k : (reader {} branchA).kern = userShuttle.kern := by decide +kernel
  exact image_chain w m k
theorem branchB_chain : seqChain (start {} branchB) (reader {} branchB) = codeChain := by
  have w : walkHome (start {} branchB) (reader {} branchB).tenant 196608 = some 59 := by decide +kernel
  have m : (start {} branchB).mem.home = image := by decide +kernel
  have k : (reader {} branchB).kern = userShuttle.kern := by decide +kernel
  exact image_chain w m k
/-- O3: `safept`; a branch not taken with no delay slots; one taken with three, through a b register that a g register gave. -/
theorem witness_ControlFlow :
    (Issues {} user ∧ (controlEffect (.safept {}) (reader {} user)).isSome = true)
    ∧ (branchParts (.br {} 0 1 0) = some ({}, 0, 1, 0, false) ∧ (0#7).toNat ≤ 3 ∧ Issues {} branchA
         ∧ delaySlots (start {} branchA) (reader {} branchA) (reader {} branchA).pc 0 = some 1 ∧ targetOk (start {} branchA) (reader {} branchA) (getB (reader {} branchA) 0).addr = true
         ∧ getP (reader {} branchA) 1 = false)
    ∧ (branchParts (.brl {} 2 0 3) = some ({}, 2, 0, 3, true) ∧ (3#7).toNat ≤ 3 ∧ Issues {} branchB
         ∧ delaySlots (start {} branchB) (reader {} branchB) (reader {} branchB).pc 3 = some 4 ∧ targetOk (start {} branchB) (reader {} branchB) (getB (reader {} branchB) 2).addr = true
         ∧ getP (reader {} branchB) 0 = true ∧ (getB (reader {} branchB) 2).fromG = true
         ∧ indirectOk (start {} branchB) (reader {} branchB) (getB (reader {} branchB) 2).addr = true) := by
  unfold Issues
  have pa : (reader {} branchA).pc = 0 ∧ (getB (reader {} branchA) 0).addr = 9 := by decide +kernel
  have pb : (reader {} branchB).pc = 0 ∧ (getB (reader {} branchB) 2).addr = 8 := by decide +kernel
  rw [pa.1, pa.2, pb.1, pb.2, (chain_slots branchA_chain).1, (chain_slots branchB_chain).2, (chain_targets branchA_chain).2,
    (chain_targets branchB_chain).1, chain_indirect branchB_chain]
  (repeat' apply And.intro) <;> decide +kernel
/-- O4: `trap 63` in user mode, in privileged mode, and without a handler; `sysret` in user mode. -/
theorem witness_TrapsTaken :
    ((63#7).toNat ≤ 63 ∧ Issues {} user ∧ user.me.priv = false ∧ user.me.trapVec ≠ 0 ∧ unacknowledged (drainTrap (start {} user)) = false)
    ∧ (Issues {} priv ∧ priv.me.priv = true ∧ unacknowledged (drainTrap (start {} priv)) = false)
    ∧ (Issues {} noHandler ∧ noHandler.me.trapVec = 0 ∧ unacknowledged (drainTrap (start {} noHandler)) = false)
    ∧ (seqPrivileged (.sysret {}) = true ∧ user.me.priv = false ∧ user.me.trapVec ≠ 0 ∧ unacknowledged (drainTrap user) = false
      ∧ QueueHasRoom (drainTrap user) 131072 131136) := by
  unfold Issues QueueHasRoom; (repeat' apply And.intro) <;> decide +kernel

/-- g1 an address of device memory, and a byte of the scratchpad pending. -/
def loadUser : State := with' fun h => { h with g := h.g.set 1 131072 }
def storing : State := with' fun h => { h with stores := [{ loc := .scratch 0 8, bytes := [1, 2], cls := 0, va := Config.localRange + 8 }] }
/-- O5: a load from device memory, from the last word of the scratchpad that the queues leave, and a prefetch. -/
theorem witness_Loads :
    (let x := seqLoad (start {} loadUser) (address (reader {} loadUser) 4 (.imm7 1 0)) 4 0 0
     Issues {} loadUser ∧ (0 : BitVec 3) ≠ 4 ∧ address (reader {} loadUser) 4 (.imm7 1 0) < 2 ^ 56 ∧ address (reader {} loadUser) 4 (.imm7 1 0) % 4 = 0
       ∧ x = (x.1, some (.ok 16)) ∧ NonePending 5 x.1.me)
    ∧ (let s := scratchUser 8 [5]
       Issues {} s ∧ OwnScratch (start {} s) (address (reader {} s) 8 (.imm7 1 0)) 8 8 ∧ PlainScratch (start {} s) (reader {} s) 8 8
         ∧ NonePending 5 (reader {} s))
    ∧ Issues { hint := 4 } user := by
  unfold Issues OwnScratch PlainScratch NonePending NoneEarlier Overtaken
  (repeat' apply And.intro) <;> first | exact pairOk (by decide +kernel) | decide +kernel
/-- O6: a store to the scratchpad at its first byte, without a PUSH and with one, a store to device memory, and a pending store. -/
theorem witness_Stores :
    (let s := scratchUser 0 []
     Issues {} s ∧ OwnScratch (start {} s) (address (reader {} s) 8 (.imm7 1 0)) 8 0
       ∧ (let c : Ctl := { push := 4 }
          c.push ≠ 0 ∧ Issues c s ∧ OwnScratch (start c s) (address (reader c s) 8 (.imm7 1 0)) 8 0 ∧ s.me.stores = [] ∧ unacknowledged (start c s) = false
            ∧ s.tile.id = s.me.place.tile))
    ∧ (let x := seqStore (start {} loadUser) (address (reader {} loadUser) 4 (.imm20 1 4)) 4 64 0 0
       Issues {} loadUser ∧ address (reader {} loadUser) 4 (.imm20 1 4) < 2 ^ 56 ∧ address (reader {} loadUser) 4 (.imm20 1 4) % 4 = 0
         ∧ (getG (reader {} loadUser) 1).toNat % 2 ^ 32 = 131072 ∧ x = (x.1, some (.ok ())))
    ∧ (storing.me.stores = [{ loc := .scratch 0 8, bytes := [1, 2], cls := 0, va := Config.localRange + 8 }] ∧ storing.tile.id = storing.me.place.tile) := by
  unfold Issues OwnScratch
  (repeat' apply And.intro) <;> first | exact pairOk (by decide +kernel) | decide +kernel
/-- O7: `amo.add.64`, and `amo.fadd.f32` of a shuttle without CLIMB. -/
theorem witness_AtomicResult :
    let s := scratchUser 16 [5]
    atomicParts (.amoAdd {} .w64 5 1 2 1) = some ({}, 8, 5, 1, 1) ∧ Issues {} s ∧ s.me.paired = false
      ∧ (∀ x, Instr.amoAdd {} .w64 5 1 2 1 = .amoFaddF32 {} 5 1 x 1 → s.me.climb = false) ∧ OwnScratch (start {} s) (getG (reader {} s) 1).toNat 8 16
      ∧ PlainScratch (start {} s) (reader {} s) 16 8 ∧ (NonePending 5 (reader {} s))
      ∧ atomicParts (.amoFaddF32 {} 5 1 2 1) = some ({}, 4, 5, 1, 1)
      ∧ (∀ x, Instr.amoFaddF32 {} 5 1 2 1 = .amoFaddF32 {} 5 1 x 1 → s.me.climb = false) ∧ OwnScratch (start {} s) (getG (reader {} s) 1).toNat 4 16 := by
  unfold Issues OwnScratch PlainScratch NonePending NoneEarlier Overtaken
  (repeat' apply And.intro) <;> first | exact fun _ _ => rfl | decide +kernel
/-- O8: a guard that is always false; a POP of an empty queue. -/
theorem witness_GuardsAndTokens :
    (seqControl (.kick { gan := true } 1 2) user = some { gan := true } ∧ popBlocked (settle user.me) { gan := true } = false
      ∧ guardWith (getP (reader { gan := true } user)) { gan := true } = false)
    ∧ (seqControl (.exit { pop := 4 }) user = some { pop := 4 } ∧ popBlocked (settle user.me) { pop := 4 } = true) := by decide +kernel
/-- O9: a releasing fence over every class with a store pending, and one with a mask of 0. -/
theorem witness_FenceResult :
    Issues {} storing ∧ (65535#20).toNat < 65536 ∧ (2#7).toNat ≤ 3 ∧ releasePending (releaseAt (start {} storing) 65535 5) 65535 = false
      ∧ readsPending (reader {} storing) 65535 = false ∧ Issues {} user ∧ (0#20).toNat < 65536 := by
  unfold Issues; decide +kernel
/-- O10: `bar.init` of 65,535; an arrival that completes a phase and an early one; a wait that returns and one that does not. -/
theorem witness_Barriers :
    (let s := scratchUser 0 []
     Issues {} s ∧ s.me.paired = false ∧ OwnScratch (start {} s) (getG (reader {} s) 1).toNat 8 0 ∧ PlainScratch (start {} s) (reader {} s) 0 8
       ∧ 0 < (gOrImmVal (reader {} s) (.imm7 63)).toNat ∧ (gOrImmVal (reader {} s) (.imm7 63)).toNat < 65536)
    ∧ (let s := scratchUser 24 [2, 0, 1]
       Issues {} s ∧ s.me.paired = false ∧ OwnScratch (start {} s) (getG (reader {} s) 1).toNat 8 24 ∧ PlainScratch (start {} s) (reader {} s) 24 8
         ∧ releasePending (start {} s) 65535 = false ∧ NonePending 5 (reader {} s)
         ∧ arrive (barOf (scratchNat (start {} s) 24 8)) ((getG (reader {} s) 0).toNat % 2) = some ⟨2, 0, 0, 1⟩
         ∧ arrive (barOf (scratchNat (start {} s) 24 8)) ((getG (reader {} s) 3).toNat % 2) = some ⟨2, 1, 1, 0⟩)
    ∧ (let s := scratchUser 24 [2, 0, 1]
       (barOf (scratchNat (start {} s) 24 8)).p = (getG (reader {} s) 0).toNat % 2 ∧ (barOf (scratchNat (start {} s) 24 8)).p ≠ (getG (reader {} s) 3).toNat % 2) := by
  unfold Issues OwnScratch PlainScratch NonePending NoneEarlier Overtaken; (repeat' apply And.intro) <;> decide +kernel
/-- Tag 63 ready. -/
def tagged : State := with' fun h => { h with tagReady := 0x8000000000000000 }
/-- O11: a mask of 0; a ready tag of the mask; every tag of the mask ready. -/
theorem witness_TagWaits :
    (Issues {} user ∧ NonePending 5 (reader {} user) ∧ gOrImmVal (reader {} user) (.imm7 0) = 0)
    ∧ (Issues {} tagged ∧ NonePending 5 (reader {} tagged) ∧ (reader {} tagged).tagReady &&& gOrImmVal (reader {} tagged) (.imm7 0x7F) ≠ 0)
    ∧ ((reader {} user).tagReady &&& gOrImmVal (reader {} user) (.imm7 0) = gOrImmVal (reader {} user) (.imm7 0)) := by
  unfold Issues NonePending NoneEarlier Overtaken; (repeat' apply And.intro) <;> decide +kernel
/-- O12: a `run` and a `run.loop` of exactly its maximum, 2 trips. -/
theorem witness_RunPushes :
    runParts (.run {} .mtx 63 28 6) = some ({}, .mtx, 63, 28, 6, none) ∧ Issues {} user ∧ tripsOk (reader {} user) 28 none
      ∧ qcwDepth (queueQcw (start {} user) (reader {} user) .mtx) ≠ 0 ∧ queueRoom (start {} user) (reader {} user) .mtx = true
      ∧ runParts (.runLoop {} .str 1 5 6 1) = some ({}, .str, 1, 5, 6, some 1) ∧ tripsOk (reader {} user) 5 (some 1)
      ∧ qcwDepth (queueQcw (start {} user) (reader {} user) .str) ≠ 0 ∧ queueRoom (start {} user) (reader {} user) .str = true := by
  unfold Issues
  (repeat' apply And.intro) <;> first | exact rfl | exact (fun _ h => by cases h <;> decide +kernel) | decide +kernel
/-- An element in VEC's FIFO. -/
def fed (v : Word) : State := with' fun h => { h with vec := { h.vec with fifo := [v] } }
/-- O13: pops of an element, as a word and as a predicate; tokens up to 15, and all that a queue holds. -/
theorem witness_FifosAndTokens :
    (Issues {} (fed 1) ∧ NonePending 5 (reader {} (fed 1)) ∧ fifoOf (reader {} (fed 1)) .vec = [1]
      ∧ (15#6).toNat < 16 ∧ (15#6) ≠ 0 ∧ NoneEarlier (.p 15) (reader {} (fed 1)) ∧ fifoOf (reader {} (fed 1)) .vec = (if true then 1 else 0) :: [])
    ∧ (let s := with' fun h => { h with tok := #v[0, 1, 0, 0, 14, 0, 0, 0, 0, 0, 0, 0, 0] }
       Issues {} s ∧ (1#7).toNat ≤ 12 ∧ tokCount (reader {} s) 1 + (14#7).toNat ≤ 15 ∧ (4#7).toNat ≤ 12 ∧ (14#7).toNat ≤ tokCount (reader {} s) 4) := by
  unfold Issues NonePending NoneEarlier Overtaken; (repeat' apply And.intro) <;> decide +kernel
/-- O15: a trip count above the maximum; an element that is neither 0 nor 1; a PRIV register in user mode; a read-only register in either mode. -/
theorem witness_InstructionTraps :
    (Issues {} user ∧ 2 ^ (0#7).toNat < (getG (reader {} user) (2 + 3)).toNat ∧ user.me.priv = false ∧ user.me.trapVec ≠ 0
      ∧ unacknowledged (drainTrap (start {} user)) = false ∧ QueueHasRoom (drainTrap (start {} user)) 131072 131136)
    ∧ (let s := fed 2
       Issues {} s ∧ fifoOf (reader {} s) .vec = 2 :: [] ∧ s.me.priv = false ∧ s.me.trapVec ≠ 0 ∧ unacknowledged (drainTrap (start {} s)) = false
         ∧ QueueHasRoom (drainTrap (start {} s)) 131072 131136)
    ∧ (privileged (0x4F#7).toNat = true ∧ privileged (0x20#7).toNat = true)
    ∧ ((0x05#7).toNat ≤ 0x05 ∧ (0x1F#7).toNat ≤ 0x1F ∧ priv.me.priv = true ∧ unacknowledged (drainTrap priv) = false ∧ QueueHasRoom (drainTrap priv) 131072 131136
      ∧ unacknowledged (drainTrap user) = false ∧ QueueHasRoom (drainTrap user) 131072 131136) := by
  unfold Issues QueueHasRoom; (repeat' apply And.intro) <;> decide +kernel

/-- The system instructions' reads: g1 the address of a task record, or of a kick descriptor; a microcode slot whose kernel is object 0. -/
def spawner : State := with' fun h => { h with g := h.g.set 1 262144 }
def kicker : State :=
  { with' fun h => { h with g := h.g.set 1 262208 } with
    slots := [{ tierM := false, tierS := true, slot := 0, tenant := 0, kobj := 0, words := [] }] }
def slotless : State := with' fun h => { h with g := h.g.set 1 262208 }
/-- The descriptor's bytes. -/
def kickBytes : List Byte := List.replicate 8 0 ++ [0xFF, 0xFF] ++ List.replicate 10 0 ++ [1, 0, 0, 0, 0x80, 0, 4, 0, 0, 0, 0, 0]
/-- The state after the entry of the image's own kernel, object 0, is read, and after the reads of a `kick`. -/
def kickMay (s : State) : State := readEntry (start {} s) 0
def kickRead (s : State) : State := (kickArgs (sysRead (kickMay s) 262208 32).1 kickBytes).1
theorem may_kick {s : State} (o : (ctxOf (start {} s) (start {} s).me.tenant).objBase.toNat = 327680)
    (w : walkHome (start {} s) (start {} s).me.tenant 327680 = some 59) (n : (start {} s).mem.objs = []) (m : (start {} s).mem.home = image)
    (k : (start {} s).me.kern.obj = 0) : mayKick (start {} s) = (kickMay s, true) := by
  have u : (Obj.usable (entry 0) && useOk (entry 0) .kick) = true := by decide +kernel
  unfold mayKick
  rw [k, entry_of (i := 0) o w n m (by decide)]
  simp only [u]
  rfl
theorem entry_known {s : State} {t i : Nat} {e : BitVec 256} (f : entryFresh s t i = some e) (n : s.mem.objs = [{ tenant := t, idx := i, bits := e }]) :
    objEntry s t i = (s, some e) := by
  unfold objEntry
  rw [f, n]
  simp
theorem kick_entry : objEntry (kickRead kicker) 0 0 = (kickRead kicker, some (entry 0)) := by
  have f : entryFresh (kickRead kicker) 0 0 = some (entry 0) :=
    entry_fresh (by decide +kernel) (by decide +kernel) (by decide +kernel) (by decide)
  exact entry_known f (by decide +kernel)
theorem kick_header (w : State) (h : walkHome w 0 393216 = some 59) (m : memRead w.mem.home 393216 64 = List.replicate 64 0) :
    (kernHeader w 0 0 (entryOf (memRead image 327680 32))).map (·.1) = some { obj := 0, base := 393216 } := by
  have b : Obj.base (entryOf (memRead image 327680 32)) = 393216 := by decide +kernel
  unfold kernHeader
  rw [b, homeBytes_eq h (by decide) (by decide) (by decide), show leafAddr 59 393216 = 393216 by decide, m]
  decide +kernel
/-- O14: a record of 64 bytes of zeros; a descriptor whose slot's kernel may be kicked, and one that names no slot. -/
theorem witness_SpawnQueues :
    let x := sysRead (start {} spawner) (getG (reader {} spawner) 1).toNat 64
    Issues {} spawner ∧ spawner.me.paired = false ∧ (getG (reader {} spawner) 1).toNat % 64 = 0 ∧ x = (x.1, some (.ok (List.replicate 64 0)))
      ∧ releasePending x.1 65535 = false ∧ NonePending 5 x.1.me := by
  unfold Issues NonePending NoneEarlier Overtaken
  exact ⟨by decide +kernel, by decide +kernel, by decide +kernel, pairOk (by decide +kernel), by decide +kernel, by decide +kernel⟩
/-- What both kicks meet. -/
def KickReads (s : State) : Prop :=
  Issues {} s ∧ s.me.paired = false ∧ (getG (reader {} s) 1).toNat % 32 = 0 ∧ mayKick (start {} s) = (kickMay s, true)
    ∧ sysRead (kickMay s) 262208 32 = ((sysRead (kickMay s) 262208 32).1, some (.ok kickBytes))
    ∧ kickArgs (sysRead (kickMay s) 262208 32).1 kickBytes = (kickRead s, some (.ok (List.replicate 32 0))) ∧ releasePending (kickRead s) 65535 = false
theorem kicker_reads : KickReads kicker := by
  unfold KickReads Issues
  exact ⟨by decide +kernel, by decide +kernel, by decide +kernel,
    may_kick (by decide +kernel) (by decide +kernel) (by decide +kernel) (by decide +kernel) (by decide +kernel), pairOk (by decide +kernel),
    pairOk (by decide +kernel), by decide +kernel⟩
theorem slotless_reads : KickReads slotless := by
  unfold KickReads Issues
  exact ⟨by decide +kernel, by decide +kernel, by decide +kernel,
    may_kick (by decide +kernel) (by decide +kernel) (by decide +kernel) (by decide +kernel) (by decide +kernel), pairOk (by decide +kernel),
    pairOk (by decide +kernel), by decide +kernel⟩
theorem witness_KickAnswers :
    let v := kickRead kicker
    kickSlot v kickBytes = some { tierM := false, tierS := true, slot := 0, tenant := 0, kobj := 0, words := [] }
      ∧ objEntry v 0 0 = (v, some (entry 0)) ∧ Obj.usable (entry 0) = true ∧ useOk (entry 0) .kick = true
      ∧ NonePending 5 (submitKick v kickBytes (List.replicate 32 0) (kickSlot v kickBytes) ((kernHeader v 0 0 (entry 0)).map (·.1))).1.me := by
  unfold NonePending NoneEarlier Overtaken
  refine ⟨by decide +kernel, kick_entry, by decide +kernel, by decide +kernel, ?_⟩
  rw [show entry 0 = entryOf (memRead image 327680 32) from rfl, kick_header _ (by decide +kernel) (by decide +kernel)]
  exact ⟨by decide +kernel, by decide +kernel⟩
theorem witness_KickOfNoSlot : kickSlot (kickRead slotless) kickBytes = none
    ∧ NonePending 5 (submitKick (kickRead slotless) kickBytes (List.replicate 32 0) none none).1.me := by
  unfold NonePending NoneEarlier Overtaken
  exact ⟨by decide +kernel, by decide +kernel, by decide +kernel⟩

/-- O16: a user register and a PRIV one; TAGBYTES; FPFLAGS and OVFTBL written; `tstamp`. -/
theorem witness_SpecialRegisters :
    (Issues {} user ∧ privileged (0x1F#7).toNat = false ∧ user.me.paired = false ∧ (special (start {} user) (0x1F#7).toNat).isSome = true
      ∧ (0x05#7).toNat = 0x05 ∧ NonePending 5 (reader {} user))
    ∧ (Issues {} priv ∧ privileged (0x4F#7).toNat = true ∧ priv.me.priv = true ∧ priv.me.paired = false
      ∧ (special (start {} priv) (0x4F#7).toNat).isSome = true)
    ∧ (privileged (0x06#7).toNat = false ∧ stored (0x06#7).toNat (gOrImmVal (reader {} user) (.reg 31)) = some (48 &&& 0x1F) ∧ (reader {} user).stores = [])
    ∧ (privileged (0x20#7).toNat = true ∧ stored (0x20#7).toNat (gOrImmVal (reader {} priv) (.reg 1)) = some 64 ∧ (reader {} priv).stores = []
      ∧ CtxQuiet (start {} priv) ∧ remotePending (seqComplete (start {} priv)) = false) := by
  unfold Issues NonePending NoneEarlier Overtaken CtxQuiet; (repeat' apply And.intro) <;> decide +kernel
/-- The bytes of the card trn_ld (R282), and of a card that is enabled with nothing in it. -/
def goodCard : List Byte :=
  [0x17, 0, 0, 0, 0xA0, 2, 0x11, 0x32, 0x70, 0x70, 0x70, 0, 0xA0, 2, 1, 1, 0x70, 0x70, 0x70, 0] ++ List.replicate 16 0
    ++ [0x99, 0x62, 0, 0, 0, 0, 2, 4, 0, 0, 0, 0] ++ List.replicate 16 0
def badCard : List Byte := 1 :: List.replicate 63 0
/-- OVFTBL such that entry 255 lies at 262,272, where zeros stand; CARDBASE at 1,048,576, where a card stands. -/
def loader (n : Nat) (card : List Byte) : State :=
  { with' fun h => { h with priv := true, g := h.g.set 1 (BitVec.ofNat 64 n) } with
    ctxs := [{ tenant0 with ovfTbl := 262272 - 8 * 255, cardBase := 1048576 }]
    mem := { home := image ++ (card.zipIdx.filter fun b => b.1 ≠ 0).map fun b => (1048576 + b.2, b.1) } }
/-- O17: entry 255 of an overflow table; decks of 129, of none, of one card. -/
theorem witness_TablesLoad :
    (let s := loader 255 []
     let x := sysRead (start {} s) (((ctxOf s s.me.tenant).ovfTbl.toNat + 8 * ((getG (reader {} s) 1).toNat % 256)) % 2 ^ 64) 8
     Issues {} s ∧ s.me.priv = true ∧ arithDone (reader {} s) = true ∧ x = (x.1, some (.ok (List.replicate 8 0)))
       ∧ natOfBytes (List.replicate 8 0) < 1024 ∧ ∀ i < 5, natOfBytes (List.replicate 8 0) / 4 ^ i % 4 ≠ 3)
    ∧ (Issues {} (loader 129 []) ∧ 128 < (getG (reader {} (loader 129 [])) 1).toNat ∧ NonePending 5 (reader {} (loader 129 [])))
    ∧ (Issues {} (loader 0 []) ∧ (getG (reader {} (loader 0 [])) 1).toNat = 0 ∧ NonePending 5 (reader {} (loader 0 [])))
    ∧ (∀ p ∈ [(goodCard, true), (badCard, false)], let s := loader 1 p.1
       let x := sysRead (start {} s) (ctxOf s s.me.tenant).cardBase.toNat (64 * (getG (reader {} s) 1).toNat)
       Issues {} s ∧ s.me.priv = true ∧ arithDone (reader {} s) = true ∧ 1 ≤ (getG (reader {} s) 1).toNat ∧ (getG (reader {} s) 1).toNat ≤ 128
         ∧ (ctxOf s s.me.tenant).cardBase.toNat % 64 = 0 ∧ x = (x.1, some (.ok p.1)) ∧ NonePending 5 x.1.me
         ∧ (cardsOf (getG (reader {} s) 1).toNat p.1).map (cardOk x.1) = [p.2]) := by
  unfold Issues NonePending NoneEarlier Overtaken
  refine ⟨?_, ?_, ?_, ?_⟩
  · (repeat' apply And.intro) <;> first | exact pairOk (by decide +kernel) | decide +kernel
  · decide +kernel
  · decide +kernel
  · intro p h
    simp only [List.mem_cons, List.not_mem_nil, or_false] at h
    rcases h with rfl | rfl <;> ((repeat' apply And.intro) <;> first | exact pairOk (by decide +kernel) | decide +kernel)
/-- TRAPPC at `safept`. -/
def returning : State := with' fun h => { h with priv := true, trapPc := 8 }
/-- O18: `objsync` and `ctx.fence` with nothing outstanding, `xlinv` of one page and of all, `sysret` to a legal address. -/
theorem witness_SystemResults :
    Issues {} returning ∧ returning.me.priv = true ∧ releasePending (drainAll (start {} returning)) 65535 = false
      ∧ targetOk (start {} returning) (reader {} returning) (reader {} returning).trapPc = true ∧ CtxQuiet (start {} returning) := by
  have w : walkHome (start {} returning) (reader {} returning).tenant 196608 = some 59 := by decide +kernel
  have m : (start {} returning).mem.home = image := by decide +kernel
  have k : (reader {} returning).kern = userShuttle.kern := by decide +kernel
  have p : (reader {} returning).trapPc = 8 := by decide +kernel
  rw [p, (chain_targets (image_chain w m k)).1]
  unfold Issues CtxQuiet; (repeat' apply And.intro) <;> decide +kernel

/-! ### Witnesses: the stream engine -/

/-- The descriptor's bytes. -/
def descBytes : List Byte :=
  [0xFF, 0xFF, 0, 0, 0, 0, 0, 3, 1, 0, 0, 0, 0, 0, 0, 0, 4, 0, 0, 0, 4, 0, 0, 0, 0, 0, 0, 0, 0, 0, 0, 0,
   0, 0, 0, 0, 0, 0, 0, 0, 0, 0, 0, 0, 0, 0, 0, 0, 0, 0, 0, 0, 0, 0, 0, 0, 0, 0, 0, 0, 0, 0, 0, 0]
theorem bind_small : (checkBind (engStart .str {} (strUser 0 0 0 0)) 0 none none 0).2.toOption = some (smallStream false) ∧
    getS (checkBind (engStart .str {} (strUser 0 0 0 0)) 0 none none 0).1.me 0 = none := by
  have w : walkHome (engStart .str {} (strUser 0 0 0 0)) 0 425984 = some 59 := by decide +kernel
  have n : (engStart .str {} (strUser 0 0 0 0)).me.kern = { userShuttle.kern with base := 425984, nStream := 1 } ∧
      (engStart .str {} (strUser 0 0 0 0)).me.tenant = 0 := by decide +kernel
  have h : homeBytes (engStart .str {} (strUser 0 0 0 0)) 0 425984 64 = some descBytes := by
    rw [homeBytes_eq w (by decide) (by decide) (by decide)]
    decide +kernel
  unfold checkBind
  simp only [n.1, n.2]
  rw [if_neg (by decide), show (425984 + userShuttle.kern.strOff + 64 * 0) = 425984 by decide, h]
  decide +kernel
/-- A `sunbind` that has taken its tag. -/
def sunbinding : State :=
  let s := strUser 0 0 0 0
  { s with me := { s.me with str := { s.me.str with cur := s.me.str.cur.map fun x => { x with begun := true } } } }
/-- O19: `sbind` of that descriptor; `sunbind` of an unbound register, of an input stream, of an output stream with a block to write, and one
that began and whose stream has drained; `sseek` past the end. -/
theorem witness_StreamRegisterResults :
    (let s := strUser 0 0 0 0
     let x := checkBind (engStart .str {} s) 0 none none 0
     StrIssues {} s ∧ bindParts (.sbind {} 0 0 none none) = some ({}, 0, 0, none, none, 0) ∧ qcwDepth (poolQcw (engStart .str {} s)) ≠ 0
       ∧ (∀ y, getS (engStart .str {} s).me 0 = some y → y.failed = none) ∧ x = (x.1, .ok (smallStream false)) ∧ ¬ OutPending (getS x.1.me 0)
       ∧ TagFree (engStart .str {} s) 63 ∧ getS (engStart .str {} s).me 15 = none ∧ (curOf s.me .str).begun = false)
    ∧ (let s := strWith (smallStream false)
       let x := smallStream false
       StrIssues {} s ∧ getS (engStart .str {} s).me 0 = some x ∧ x.failed = none ∧ ((63#7).toNat < 64 → tagHeld (engStart .str {} s).me 63 = false ∧ (curOf s.me .str).begun = false)
         ∧ x.drainTag = none ∧ (x.desc.out = true → x.spos = x.cpos) ∧ x.desc.out = false)
    ∧ (let x := { smallStream true with cpos := 1, buf := [{ elems := [1, 2, 3, 4] }] }
       let s := strWith x
       StrIssues {} s ∧ getS (engStart .str {} s).me 0 = some x ∧ x.failed = none ∧ TagFree (engStart .str {} s) 0 ∧ x.desc.out = true
         ∧ x.spos ≠ x.cpos ∧ (curOf s.me .str).begun = false)
    ∧ (let s := sunbinding
       StrIssues {} s ∧ (63#7).toNat < 64 ∧ (curOf s.me .str).begun = true ∧ getS (engStart .str {} s).me 15 = none) := by
  unfold StrIssues InBudget EngIssues EngReady TagFree OutPending
  refine ⟨?_, ?_, ?_, by decide +kernel⟩
  · have z : getS (engStart .str {} (strUser 0 0 0 0)).me 0 = none := by decide +kernel
    refine ⟨by decide +kernel, rfl, by decide +kernel, ?_, exceptOk bind_small.1, ?_, by decide +kernel, by decide +kernel, by decide +kernel⟩
    · rw [z]; exact fun _ h => nomatch h
    · rintro ⟨y, h, -⟩; exact nomatch h.symm.trans bind_small.2
  · (repeat' apply And.intro) <;> first | exact rfl | decide +kernel
  · (repeat' apply And.intro) <;> first | exact rfl | decide +kernel

/-- O20, first clauses: a copy, a copy of two rows, a fill, a gather and a scatter of one row, all within the scratchpad, tag 63. -/
theorem witness_CopiesAccepted :
    (let s := strUser (own 0) (own 4096) 0 0
     let t := engStart .str {} s
     StrIssues {} s ∧ TagFree t 63 ∧ 0 < (kOrImmVal t.me .str (.imm 48)).toNat
       ∧ CopyRefs t t .dest .source (kVal t.me .str 0) (kVal t.me .str 1) { off := 0 } { off := 4096 } 48 48)
    ∧ (let s := strUser (own 0) (own 4096) (2 * 2 ^ 32 + 16) (32 * 2 ^ 32 + 16)
       let t := engStart .str {} s
       StrIssues {} s ∧ TagFree t 63 ∧ rowsOf (kVal t.me .str 2) = some (2, 16)
         ∧ CopyRefs t t .dest .source (kVal t.me .str 0) (kVal t.me .str 1) { off := 0 } { off := 4096 } 32 48)
    ∧ (let s := strUser (own 0) 7 0 0
       let t := engStart .str {} s
       StrIssues {} s ∧ TagFree t 0 ∧ 0 < (kOrImmVal t.me .str (.imm 1)).toNat ∧ takeRef t .dest (kVal t.me .str 0) = (t, .ok { off := 0 })
         ∧ refHolds t { off := 0 } 1 = true)
    ∧ (let s := strUser (own 0) (own 4096) (own 8192) (2 ^ 32 + 48)
       let t := engStart .str {} s
       StrIssues {} s ∧ TagFree t 63 ∧ rowsOf (kVal t.me .str 3) = some (1, 48)
         ∧ takeRefs t (.dest, kVal t.me .str 0) (.source, kVal t.me .str 1) = (t, .ok ({ off := 0 }, { off := 4096 }))
         ∧ takeRef t .source (kVal t.me .str 2) = (t, .ok { off := 8192 }) ∧ refHolds t { off := 8192 } 4 = true ∧ refHolds t { off := 0 } 48 = true
         ∧ refHolds t { off := 4096 } 48 = true
         ∧ spansMeet (refVa { off := 0 }) 48 (indexSpan (refVa { off := 4096 }) 48 (peekIndices t { off := 8192 } 1)).1
             (indexSpan (refVa { off := 4096 }) 48 (peekIndices t { off := 8192 } 1)).2 = false
         ∧ spansMeet (refVa { off := 4096 }) 48 (indexSpan (refVa { off := 0 }) 48 (peekIndices t { off := 8192 } 1)).1
             (indexSpan (refVa { off := 0 }) 48 (peekIndices t { off := 8192 } 1)).2 = false) := by
  have d {t : State} {a b : Word} {o p : Nat} (ea : a = own o) (eb : b = own p) (la : o < 2 ^ 48) (lb : p < 2 ^ 48) :
      takeRefs t (.dest, a) (.source, b) = (t, .ok ({ off := o }, { off := p })) := by
    unfold takeRefs; rw [ea, eb]; simp only [takeRef_own (u := .dest) rfl la, takeRef_own (u := .source) rfl lb]
  unfold StrIssues InBudget EngIssues EngReady TagFree CopyRefs
  refine ⟨?_, ?_, ?_, ?_⟩ <;> (repeat' apply And.intro) <;>
    first
    | exact d (o := 0) (p := 4096) (by decide +kernel) (by decide +kernel) (by decide) (by decide)
    | exact takeRef_own (off := 0) rfl (by decide)
    | exact takeRef_own (off := 8192) rfl (by decide)
    | decide +kernel
/-- A `stwenc` into the twill tensor, a `slzput` into the landing zone. -/
def encoding : State := strUser (inObj 2 96) (own 0) (135 * 256 + 1) (own 65536)
def putting : State := strUser (inObj 3 48) (own 0) 0 2
/-- O20, last clauses: `stwenc` at rate 1 and exponent 135, `slzput` of 48 bytes. -/
theorem witness_CopiesAccepted_objects :
    (let t := engStart .str {} encoding
     let p := (kVal t.me .str 2).toNat
     let n := 4 * encWeights (p % 4)
     StrIssues {} encoding ∧ p < 65536 ∧ p % 4 ≠ 3 ∧ p / 4 % 64 = 0 ∧ 2 ≤ p / 256 ∧ (kVal t.me .str 0).toNat % 2 ^ 48 % 48 = 0
       ∧ let t1 := readEntry t 2
         takeRefs t (.twDest, kVal t.me .str 0) (.source, kVal t.me .str 1) = (t1, .ok ({ obj := 2, off := 96, entry := entry 2 }, { off := 0 }))
         ∧ takeRef t1 .dest (kVal t.me .str 3) = (t1, .ok { off := 65536 }) ∧ TagFree t1 63
         ∧ refHolds t1 { obj := 2, off := 96, entry := entry 2 } 48 = true ∧ refHolds t1 { off := 0 } n = true
         ∧ refHolds t1 { off := 65536 } 4 = true ∧ spansMeet (refVa { obj := 2, off := 96, entry := entry 2 }) 48 (refVa { off := 0 }) n = false
         ∧ Obj.scaleStride (entry 2) ≠ 0)
    ∧ (let t := engStart .str {} putting
       StrIssues {} putting ∧ putting.me.paired = false ∧ 0 < (kOrImmVal t.me .str (.imm 48)).toNat
         ∧ let t1 := readEntry t 3
           takeRefs t (.zone, kVal t.me .str 0) (.source, kVal t.me .str 1) = (t1, .ok ({ obj := 3, off := 48, entry := entry 3 }, { off := 0 }))
           ∧ TagFree t1 0 ∧ 64 + 48 + 48 ≤ Obj.size (entry 3) ∧ refHolds t1 { off := 0 } 48 = true) := by
  have a : (ctxOf (engStart .str {} encoding) 0).objBase.toNat = 327680 := by decide +kernel
  have aw : walkHome (engStart .str {} encoding) 0 327680 = some 59 := by decide +kernel
  have ak : kVal (engStart .str {} encoding).me .str 0 = inObj 2 96 ∧ kVal (engStart .str {} encoding).me .str 1 = own 0
      ∧ kVal (engStart .str {} encoding).me .str 3 = own 65536 := by decide +kernel
  have et := takeRef_known (s := engStart .str {} encoding) (u := .twDest) (i := 2) (off := 96) a aw rfl rfl (by decide +kernel) (by decide)
  have b : (ctxOf (engStart .str {} putting) 0).objBase.toNat = 327680 := by decide +kernel
  have bw : walkHome (engStart .str {} putting) 0 327680 = some 59 := by decide +kernel
  have bk : kVal (engStart .str {} putting).me .str 0 = inObj 3 48 ∧ kVal (engStart .str {} putting).me .str 1 = own 0 := by decide +kernel
  have er := takeRef_known (s := engStart .str {} putting) (u := .zone) (i := 3) (off := 48) b bw rfl rfl (by decide +kernel) (by decide)
  unfold StrIssues InBudget EngIssues EngReady
  refine ⟨⟨by decide +kernel, by decide +kernel, by decide +kernel, by decide +kernel, by decide +kernel, by decide +kernel, ?_, ?_, ?_, ?_, ?_, ?_, ?_, ?_⟩,
    ⟨by decide +kernel, by decide +kernel, by decide +kernel, ?_, ?_, ?_, ?_⟩⟩
  · unfold takeRefs
    rw [ak.1, ak.2.1]
    simp only [et, takeRef_own (u := .source) rfl (by decide : 0 < 2 ^ 48)]
  · rw [ak.2.2]; exact takeRef_own rfl (by decide)
  · unfold TagFree tagHeld; decide +kernel
  · unfold refHolds refSize; decide +kernel
  · unfold refHolds refSize; decide +kernel
  · unfold refHolds refSize; decide +kernel
  · decide +kernel
  · decide +kernel
  · unfold takeRefs
    rw [bk.1, bk.2]
    simp only [er, takeRef_own (u := .source) rfl (by decide : 0 < 2 ^ 48)]
  · unfold TagFree tagHeld; decide +kernel
  · decide +kernel
  · unfold refHolds refSize; decide +kernel

/-- O21: `tagclr`; a `scopy` under a tag that is free. -/
theorem witness_TagClear :
    Issues {} user
    ∧ (let s := strUser (own 0) (own 4096) 0 0
       let t := engStart .str {} s
       StrIssues {} s ∧ TagFree t 63 ∧ 0 < (kOrImmVal t.me .str (.imm 48)).toNat
         ∧ CopyRefs t t .dest .source (kVal t.me .str 0) (kVal t.me .str 1) { off := 0 } { off := 4096 } 48 48) :=
  ⟨by unfold Issues; decide +kernel, witness_CopiesAccepted.1⟩

/-- A request about 48 bytes of the scratchpad, of the tensor, and about the picks of the tier map. -/
def requesting (w : Word) : State := strUser w 2 0 0
/-- O22: requests about the scratchpad, about a tensor of one seal tile, about two picks; `sresume` of a privileged entry. -/
theorem witness_StreamRequests :
    (StrIssues {} (requesting (own 0)) ∧ plainRef (engStart .str {} (requesting (own 0))) (kVal (engStart .str {} (requesting (own 0))).me .str 0) 48
        = (engStart .str {} (requesting (own 0)), none))
    ∧ (let s := requesting (inObj 1 0)
       let t1 := readEntry (engStart .str {} s) 1
       let r : Ref := { obj := 1, off := 0, entry := entry 1 }
       StrIssues {} s ∧ plainRef (engStart .str {} s) (kVal (engStart .str {} s).me .str 0) 48 = (t1, some r) ∧ tilesIn t1 (refVa r) 48 = some [74])
    ∧ (let s := requesting (inObj 4 0)
       let t1 := readEntry (engStart .str {} s) 4
       StrIssues {} s ∧ TagFree t1 63 ∧ takeRef (engStart .str {} s) .promote (kVal (engStart .str {} s).me .str 0) = (t1, .ok { obj := 4, off := 0, entry := entry 4 })
         ∧ ∃ m, tmapOf t1 t1.me.tenant 4 = some m ∧ 0 + (kVal (engStart .str {} s).me .str 1).toNat ≤ m.picks)
    ∧ (let s := strUser 5 0 0 0
       let s := { s with me := { s.me with str := { s.me.str with cur := s.me.str.cur.map fun x => { x with entry := { x.entry with priv := true } } } } }
       StrIssues {} s ∧ (curOf s.me .str).entry.priv = true ∧ (kVal (engStart .str {} s).me .str 0).toNat < 2 ^ 40) := by
  have o {w : Word} : (ctxOf (engStart .str {} (requesting w)) 0).objBase.toNat = 327680 := rfl
  have k {w : Word} : kVal (engStart .str {} (requesting w)).me .str 0 = w := rfl
  have wa : walkHome (engStart .str {} (requesting (inObj 1 0))) 0 (327680 + 32 * 1) = some 59 := by decide +kernel
  have wb : walkHome (engStart .str {} (requesting (inObj 4 0))) 0 327680 = some 59 := by decide +kernel
  have ra := entry_of (s := engStart .str {} (requesting (inObj 1 0))) (i := 1) o wa rfl rfl (by decide)
  have rb := takeRef_known (s := engStart .str {} (requesting (inObj 4 0))) (u := .promote) (i := 4) (off := 0) o wb rfl rfl (by decide +kernel) (by decide)
  unfold StrIssues InBudget EngIssues EngReady TagFree
  refine ⟨⟨by decide +kernel, rfl⟩, ⟨by decide +kernel, ?_, by decide +kernel⟩, ⟨by decide +kernel, by decide +kernel, ?_, ?_⟩, by decide +kernel⟩
  · have f := fields 1 0 (by decide) (by decide)
    unfold plainRef
    rw [k]
    simp only [inObj, f.1, f.2]
    rw [show (engStart .str {} (requesting (BitVec.ofNat 64 (1 * 2 ^ 48 + 0)))) = (engStart .str {} (requesting (inObj 1 0))) from rfl, ra]
    rw [if_neg (by decide)]
    simp only []
    rw [if_pos (by decide +kernel)]
  · rw [k]; exact rb
  · refine ⟨_, tierMap_fresh (by decide +kernel) (by decide +kernel) rfl rfl, by decide +kernel⟩

/-- A request about the tensor by a tenant whose quotas take nothing. -/
def poorly (w : Word) : State := { requesting w with ctxs := [{ tenant0 with quotas := .replicate 5 { limit := 0 } }] }
/-- O22, the conditions of each outcome: the tensor's one tile within the quota and past it; a unit's scale record with nothing pending on it, and
a reference to the scratchpad, which has none; no record waiting, and the record named waiting. -/
theorem witness_StreamRequests_outcomes :
    (let s := requesting (inObj 1 0)
     let t1 := readEntry (engStart .str {} s) 1
     PinQuota t1 (6144 * ([74].filter fun T => !(t1.mem.pins.any fun p => p.tile = T && p.team = some t1.me.team)).length))
    ∧ (let s := poorly (inObj 1 0)
       let t1 := readEntry (engStart .str {} s) 1
       let r : Ref := { obj := 1, off := 0, entry := entry 1 }
       StrIssues {} s ∧ plainRef (engStart .str {} s) (kVal (engStart .str {} s).me .str 0) 48 = (t1, some r) ∧ tilesIn t1 (refVa r) 48 = some [74]
         ∧ ¬ PinQuota t1 (6144 * ([74].filter fun T => !(t1.mem.pins.any fun p => p.tile = T && p.team = some t1.me.team)).length))
    ∧ (let s := requesting (inObj 1 0)
       let t1 := readEntry (engStart .str {} s) 1
       let r : Ref := { obj := 1, off := 0, entry := entry 1 }
       plainRef (engStart .str {} s) (kVal (engStart .str {} s).me .str 0) 0 = (t1, some r) ∧ scratchPending t1 (scratchAt t1 (scaleSpans r 1)) = false)
    ∧ plainRef (engStart .str {} (requesting (own 0))) (kVal (engStart .str {} (requesting (own 0))).me .str 0) 0
        = (engStart .str {} (requesting (own 0)), none)
    ∧ (∀ r ∈ fqWaiting (engStart .str {} (requesting 5)) false 0, r.seqno ≠ 5)
    ∧ (let s := { strUser 5 0 0 0 with ctxs := [{ tenant0 with waiting := [{ seqno := 5 }] }] }
       let s := { s with me := { s.me with str := { s.me.str with cur := s.me.str.cur.map fun x => { x with entry := { x.entry with priv := true } } } } }
       StrIssues {} s ∧ (curOf s.me .str).entry.priv = true ∧ (kVal (engStart .str {} s).me .str 0).toNat < 2 ^ 40
         ∧ ∃ r ∈ fqWaiting (engStart .str {} s) false ((kVal (engStart .str {} s).me .str 0).toNat / 2 ^ 32),
             r.seqno = (kVal (engStart .str {} s).me .str 0).toNat % 2 ^ 32) := by
  have f := fields 1 0 (by decide) (by decide)
  have k {w : Word} : kVal (engStart .str {} (requesting w)).me .str 0 = w := rfl
  have kp {w : Word} : kVal (engStart .str {} (poorly w)).me .str 0 = w := rfl
  have wa : walkHome (engStart .str {} (requesting (inObj 1 0))) 0 (327680 + 32 * 1) = some 59 := by decide +kernel
  have wp : walkHome (engStart .str {} (poorly (inObj 1 0))) 0 (327680 + 32 * 1) = some 59 := by decide +kernel
  have ra := entry_of (s := engStart .str {} (requesting (inObj 1 0))) (i := 1) rfl wa rfl rfl (by decide)
  have rp := entry_of (s := engStart .str {} (poorly (inObj 1 0))) (i := 1) rfl wp rfl rfl (by decide)
  have plain {s : State} {n : Nat} {t1 : State} (a : objEntry s s.me.tenant 1 = (t1, some (entry 1)))
      (z : (Obj.usable (entry 1) && decide (Obj.type (entry 1) ≤ 1) && (Obj.right (entry 1) 0 || Obj.right (entry 1) 2)
        && refHolds t1 { obj := 1, off := 0, entry := entry 1 } n) = true) :
      plainRef s (inObj 1 0) n = (t1, some { obj := 1, off := 0, entry := entry 1 }) := by
    unfold plainRef
    simp only [inObj, f.1, f.2, a]
    rw [if_neg (by decide)]
    simp only [z, if_true]
  unfold StrIssues InBudget EngIssues EngReady PinQuota
  refine ⟨by decide +kernel, ⟨by decide +kernel, ?_, by decide +kernel, by decide +kernel⟩, ⟨?_, by decide +kernel⟩, rfl,
    by decide +kernel, by decide +kernel⟩
  · rw [kp]; exact plain rp (by decide +kernel)
  · rw [k]; exact plain ra (by decide +kernel)

/-- O23: an input stream with nothing fetched, one whose block flies; an output stream with a block handed over, one whose write flies. -/
theorem witness_StreamBlocksMove :
    (let x := smallStream false
     let s := strWith x
     s.tile.id = s.me.place.tile ∧ getS s.me 0 = some x ∧ s.me.life = .running ∧ x.desc.out = false ∧ x.flying = false ∧ x.parked = false
       ∧ x.spos < x.cpos + 8 ∧ x.spos < x.n ∧ (∀ b ∈ x.buf, b.held = none) ∧ poolRoom s x.desc = true ∧ classZeroCopy s.me = false
       ∧ scratchPending s (scratchAt s (blockVas s x x.spos)) = false ∧ fetchTurn s = some 0)
    ∧ (let x := { smallStream false with flying := true }
       let s := strWith x
       s.tile.id = s.me.place.tile ∧ getS s.me 0 = some x ∧ x.desc.out = false ∧ x.flying = true
         ∧ readBlock s x x.spos = ((readBlock s x x.spos).1, some { elems := [0, 0, 0, 0] }))
    ∧ ∀ fly, (let x := { smallStream true with cpos := 1, buf := [{ elems := [1, 2, 3, 4] }], flying := fly }
       let s := strWith x
       let us := (List.range 4).map fun i => (i, [(Loc.scratch 0 (4 * i), ({ } : Policy), 4)])
       s.tile.id = s.me.place.tile ∧ getS s.me 0 = some x ∧ x.desc.out = true ∧ x.parked = false ∧ x.failed = none ∧ outBehind s.me 0 x = false
         ∧ x.drainTag = none ∧ s.fabric.stores = [] ∧ outCheck s x = ((outCheck s x).1, some (.ok us))
         ∧ scratchFull (outCheck s x).1 (scratchRuns (us.flatMap (·.2))) = false
         ∧ let y := { x with drainTag := some 5 }
           let s := strWith y
           getS s.me 0 = some y ∧ unitsPerBlock y.desc ≤ y.part + (sectorUnits y).length ∧ y.spos + 1 = y.cpos ∧ (∀ z ∈ s.me.copies, z.tag ≠ 5)
             ∧ outCheck s y = ((outCheck s y).1, some (.ok us))) := by
  refine ⟨?_, ?_, ?_⟩
  · (repeat' apply And.intro) <;> first | exact rfl | decide +kernel
  · (repeat' apply And.intro) <;> first | exact pairEq (by decide +kernel) | exact rfl | decide +kernel
  · intro fly
    cases fly <;> ((repeat' apply And.intro) <;> first | exact pairOk (by decide +kernel) | exact rfl | decide +kernel)

/-- The shuttle with one copy in progress. -/
def copying (k : CopyOp) : State := with' fun h => { h with copies := [k] }
/-- A fill of 48 bytes of the scratchpad: not begun; its sector in flight, before and after the last sector's issue; its host translation asked for. -/
def filling (issued ats : Bool) (fly : List Flying) : CopyOp :=
  { kind := .fill, tag := 5, dst := { off := 96 }, width := 48, value := 7, issued := issued, ats := ats, fly := fly }
def sector : Flying := { idx := 0, bytes := List.replicate 48 7, dst := [(.scratch 0 96, {}, 48)] }
/-- An encoding of the scratchpad's first 320 weights into segment 2 of the twill tensor, its error to offset 8,192 of the scratchpad. -/
def encodingOp : CopyOp :=
  { kind := .stwenc, tag := 5, dst := { obj := 2, off := 96, entry := entry 2 }, aux := { off := 8192 }, value := 135 * 256 + 1 }
/-- O24, but for the encoder's end: one fill in progress. -/
theorem witness_CopiesMove :
    (let k := filling false false []
     let s := copying k
     s.tile.id = s.me.place.tile ∧ copyOf s.me 5 = some k ∧ (∀ y ∈ s.me.copies, y.tag = 5 → y = k) ∧ k.stop = none ∧ copyMayIssue s.me k = true
       ∧ needsAts s (refBase k.dst + (rowOffs k).1 + k.pos) (sectorLen k) true = false
       ∧ resolveAll s { tenant := s.me.tenant, hint := k.hint } .store (refBase k.dst + (rowOffs k).1 + k.pos) (sectorLen k)
         = ((resolveAll s { tenant := s.me.tenant, hint := k.hint } .store (refBase k.dst + (rowOffs k).1 + k.pos) (sectorLen k)).1, .ok [(.scratch 0 96, {}, 48)])
       ∧ (let ps : List (Loc × Policy × Nat) := [(.scratch 0 96, {}, 48)]
          (∀ p ∈ ps, holdFull s.me p.1 (sectorLen k) = false) ∧ scratchFull s (scratchRuns ps) = false))
    ∧ (∀ issued, let k := filling issued false [sector]
       let s := copying k
       s.tile.id = s.me.place.tile ∧ copyOf s.me 5 = some k ∧ (∀ y ∈ s.me.copies, y.tag = 5 → y = k) ∧ k.fly.find? (fun y => y.idx = 0) = some sector
         ∧ k.kind ≠ .slzput ∧ sectorMayEnd s k sector = true ∧ goesToBuffer s.me k sector = false ∧ k.buffered = [] ∧ k.stop = none ∧ s.me.copies = [k]
         ∧ movesSectors k.kind = true ∧ k.parked = false ∧ ∀ y ∈ k.fly, y.idx = 0)
    ∧ (let k := filling false true []
       let s := copying k
       s.tile.id = s.me.place.tile ∧ copyOf s.me 5 = some k ∧ (∀ y ∈ s.me.copies, y.tag = 5 → y = k) ∧ k.ats = true ∧ k.stop = none) := by
  refine ⟨?_, ?_, ?_⟩
  · (repeat' apply And.intro) <;> first | exact exceptOk (by decide +kernel) | decide +kernel
  · intro issued
    cases issued <;> ((repeat' apply And.intro) <;> decide +kernel)
  · (repeat' apply And.intro) <;> decide +kernel
/-- What the end of the encoder needs (R174, R328): its source read and resident, its three writes with a place. -/
def EncoderEnds (s : State) (k : CopyOp) : Prop :=
  ∃ s1 ps bs bad a0 a1 a2 a3 b1 b2 b3, resolveAll s { tenant := s.me.tenant } .load (refVa k.src) (4 * encWeights (k.value % 4)) = (s1, .ok ps)
    ∧ residentPieces s1 ps (refVa k.src) (4 * encWeights (k.value % 4)) = (a0, true) ∧ readPieces a0 { tenant := s.me.tenant } ps = (a1, bs, bad)
    ∧ (bad = true → touchesLost a1 a1.me.tenant (refVa k.src) (4 * encWeights (k.value % 4)) = false)
    ∧ let ts := (List.range (encWeights (k.value % 4))).map fun i => natOfBytes ((bs.drop (4 * i)).take 4)
      let enc := twEncode ts (k.value % 4) (k.value / 256 % 256)
      encWrite a1 true k.tag 0 (refVa k.dst) (bytesOf 48 enc.1) bad = (b1, some (.ok a2))
      ∧ encWrite a2 false k.tag 48 (Obj.scaleBase k.dst.entry + k.dst.off / 48 * Obj.scaleStride k.dst.entry)
          [BitVec.ofNat 8 (k.value / 256 % 256), BitVec.ofNat 8 (k.value % 4)] bad = (b2, some (.ok a3))
      ∧ ∃ a4, encWrite a3 false k.tag 50 (refVa k.aux) (bytesOf 4 (if ts.any (fun x => (f32 x).isNan) then Fmt.f32.cnan else enc.2)) bad
        = (b3, some (.ok a4))
def encoderEnds (s : State) (k : CopyOp) : Bool :=
  match resolveAll s { tenant := s.me.tenant } .load (refVa k.src) (4 * encWeights (k.value % 4)) with
  | (_, .error _) => false
  | (s1, .ok ps) =>
    match residentPieces s1 ps (refVa k.src) (4 * encWeights (k.value % 4)) with
    | (_, false) => false
    | (a0, true) =>
      let x := readPieces a0 { tenant := s.me.tenant } ps
      if x.2.2 then false
      else
        let ts := (List.range (encWeights (k.value % 4))).map fun i => natOfBytes ((x.2.1.drop (4 * i)).take 4)
        let enc := twEncode ts (k.value % 4) (k.value / 256 % 256)
        match encWrite x.1 true k.tag 0 (refVa k.dst) (bytesOf 48 enc.1) x.2.2 with
        | (_, some (.ok a2)) =>
          match encWrite a2 false k.tag 48 (Obj.scaleBase k.dst.entry + k.dst.off / 48 * Obj.scaleStride k.dst.entry)
              [BitVec.ofNat 8 (k.value / 256 % 256), BitVec.ofNat 8 (k.value % 4)] x.2.2 with
          | (_, some (.ok a3)) =>
            match encWrite a3 false k.tag 50 (refVa k.aux) (bytesOf 4 (if ts.any (fun x => (f32 x).isNan) then Fmt.f32.cnan else enc.2)) x.2.2 with
            | (_, some (.ok _)) => true
            | _ => false
          | _ => false
        | _ => false
theorem encoderEnds_true {s : State} {k : CopyOp} (h : encoderEnds s k = true) : EncoderEnds s k := by
  unfold encoderEnds at h
  split at h
  · exact nomatch h
  · rename_i s1 ps e1
    split at h
    · exact nomatch h
    · rename_i a0 e0
      simp only at h
      split at h
      · exact nomatch h
      · rename_i clean
        split at h
        · rename_i b1 a2 e2
          split at h
          · rename_i b2 a3 e3
            split at h
            · rename_i b3 a4 e4
              exact ⟨s1, ps, _, _, a0, _, a2, a3, b1, b2, b3, e1, e0, rfl, fun bad => absurd bad clean, e2, e3, a4, e4⟩
            · exact nomatch h
          · exact nomatch h
        · exact nomatch h
/-- The shuttle with that request, its tenant without an object table. -/
def encoderAt : State := { copying encodingOp with ctxs := [{ tenant0 with objBase := BitVec.ofNat 64 (2 ^ 40) }] }
/-- O24, the encoder's end. -/
theorem witness_CopiesMove_encoder :
    let k := encodingOp
    let s := encoderAt
    s.tile.id = s.me.place.tile ∧ copyOf s.me 5 = some k ∧ (∀ y ∈ s.me.copies, y.tag = 5 → y = k) ∧ k.kind = .stwenc ∧ k.parked = false
      ∧ copyInTurn s.me k = true ∧ encodeFirst s k = true ∧ EncoderEnds s k := by
  refine ⟨by decide +kernel, by decide +kernel, by decide +kernel, by decide +kernel, rfl, rfl, by decide +kernel, encoderEnds_true (by decide +kernel)⟩

/-! ### Witnesses: the matrix engine -/

/-- An input stream of one block of BF16 elements, fetched. -/
def panelStream (rows cols : Nat) : Stream :=
  { desc := { obj := 0xFFFF, format := 1, rows := rows, cols := cols, ndims := 1, counts := [1, 0, 0, 0] }, entry := 0, n := 1, spos := 1,
    buf := [{ elems := List.replicate (rows * cols) 0 }] }
/-- The matrix engine at an instruction, with a panel A of 16 × 32 at s0 and a panel B of 32 × n at s1. -/
def mtxShuttle (n : Nat) (x : Cur) (h : Shuttle) : Shuttle :=
  { h with s := (h.s.set 0 (some (panelStream 16 32))).set 1 (some (panelStream 32 n)), mtx := { cur := some x } }
def mtxUser (n : Nat) : State := with' (mtxShuttle n (running 0x3F800000 0 0 0))

/-- O25: `mma` and `mma.reed` of BF16 panels. -/
theorem witness_ProductResult :
    (let s := mtxUser 64
     let t := engStart .mtx {} s
     EngIssues .mtx {} s ∧ 16 * (0#7).toNat + 16 * 2 ^ (0#2).toNat ≤ 128 ∧ 16 * (0#4).toNat + 64 * 2 ^ (0#2).toNat ≤ 256
       ∧ operandsFit t .bf16 16 64 0 (.s 1) = true ∧ accBlocked t.tile t.me.place.slot (groupsOf 0 64) 0 1 = false
       ∧ ProductOperands t .bf16 64 0 (.s 1) (List.replicate 512 0) (List.replicate 2048 0))
    ∧ (let s := mtxUser 32
       let t := engStart .mtx {} s
       EngIssues .mtx {} s ∧ operandsFit t .bf16 16 32 0 (.s 1) = true ∧ (groupsOf 0 256).any (foreignGroup t.tile t.me.place.slot) = false
         ∧ cntOf t.tile (0#7).toNat < 255 ∧ (∀ i < 2 ^ (0#2).toNat, cntOf t.tile ((0#7).toNat + i) = cntOf t.tile (0#7).toNat)
         ∧ ProductOperands t .bf16 32 0 (.s 1) (List.replicate 512 0) (List.replicate 1024 0)) := by
  unfold EngIssues EngReady
  refine ⟨⟨?_, ?_, ?_, ?_, ?_, _, _, rfl, rfl, _, _, rfl, rfl⟩, ?_, ?_, ?_, ?_, ?_, _, _, rfl, rfl, _, _, rfl, rfl⟩ <;> decide +kernel

/-- O25 to O27, the budget: an entry of no budget leaves every instruction its cycles. -/
theorem witness_MtxRoom (n : Nat) : MtxRoom {} n (mtxUser 64) ∧ MtxRoom {} n (mtxUser 32) := by
  have h (k : Nat) (x : Option Nat) (e : x = none) : ∀ m, x = some m → k ≤ m := by subst e; exact fun _ h => nomatch h
  exact ⟨h _ _ (by decide +kernel), h _ _ (by decide +kernel)⟩
/-- A gang of two tiles of one domain, both shuttles at an `mma.coop`. -/
def coopCurOf (at' : Option Nat) (matched : Bool) : Cur :=
  { running 0 0 0 0 with coopAt := at', coopKey := (0x360, 5), coopMatched := matched, coopOps := (0, .s 1, 0) }
def coopState (at' : Option Nat) (matched : Bool) : State :=
  { with' (mtxShuttle 256 (coopCurOf at' matched)) with
    others := [mtxShuttle 256 (coopCurOf at' matched) { userShuttle with place := ⟨1, 0⟩, vtile := 1, ordinal := 1 }]
    otherTiles := [Tile.reset 1]
    loom := { gangs := [{ team := 0, launch := 1, tenant := 0, index := 0, band := 0, domain := 3, nTiles := 2, perTile := 1,
                          places := [⟨0, 0⟩, ⟨1, 0⟩] }] } }
/-- O26: before the group matches, and once it has; the group waiting; a wait of 4,096 cycles. -/
theorem witness_Cooperation :
    (∀ matched, let s := coopState (if matched then some 3 else none) matched
      let t := engStart .mtx {} s
      EngIssues .mtx {} s ∧ 16 * (0#7).toNat + 16 * 2 ^ (0#2).toNat ≤ 128 ∧ (gangOf t t.me.team).isSome = true
        ∧ (∀ g ∈ gangOf t t.me.team, 3 ≤ g.domain ∧ coopGroup g t.me ((0#1) = 1) = some [⟨0, 0⟩, ⟨1, 0⟩])
        ∧ operandsFit t .bf16 16 256 0 (.s 1) = true ∧ (curOf t.me .mtx).coopMatched = matched
        ∧ let ps := [(⟨0, 0⟩ : Place), ⟨1, 0⟩]
          (ps.map (·.tile)).Nodup ∧ (∀ p ∈ ps, accBlocked (tileOf t p.tile) p.slot (groupsOf 0 256) (coopOps t p).2.2 1 = false)
            ∧ (coopOps t ⟨1, 0⟩).2.1 = .s 1
            ∧ coopFind t .bf16 16 true ps = .ready [(⟨0, 0⟩, [({ elems := List.replicate 512 0 }, panelStream 16 32), ({ elems := List.replicate 8192 0 }, panelStream 32 256)]),
                (⟨1, 0⟩, [({ elems := List.replicate 8192 0 }, panelStream 32 256)])])
    ∧ (let s := coopState (some 4096) false
       waitingGroup s ⟨0, 0⟩ = some [⟨0, 0⟩, ⟨1, 0⟩]
         ∧ (∀ p ∈ [(⟨0, 0⟩ : Place), ⟨1, 0⟩], coopCur s p = some (coopCurOf (some 4096) false))
         ∧ 4096 ≤ (coopCurOf (some 4096) false).coopAt.getD 0)
    ∧ (let s := coopState (some 4095) false
       waitingGroup s ⟨0, 0⟩ = some [⟨0, 0⟩, ⟨1, 0⟩]
         ∧ (∀ p ∈ [(⟨0, 0⟩ : Place), ⟨1, 0⟩], coopCur s p = some (coopCurOf (some 4095) false))
         ∧ (coopCurOf (some 4095) false).coopKey = (0x360, 5) ∧ (coopCurOf (some 4095) false).coopAt.getD 0 < 4096) := by
  unfold EngIssues EngReady
  refine ⟨?_, ?_, ?_⟩
  · intro matched
    cases matched <;> ((repeat' apply And.intro) <;> first | exact rfl | decide +kernel)
  · decide +kernel
  · decide +kernel

/-- O26, the limit: a partner that has not issued, the count one short of the limit and two short; a partner that has; one lost. -/
theorem witness_CooperativeLimit :
    (∀ n ∈ [4094, 4095], let s := coopState (some n) false
      let s := { s with others := s.others.map fun h => { h with mtx := { h.mtx with cur := none } } }
      s.me.mtx.cur = some (coopCurOf (some n) false) ∧ (coopCurOf (some n) false).coopAt = some n ∧ (coopCurOf (some n) false).coopLost = false
        ∧ s.me.place ∈ [(⟨0, 0⟩ : Place), ⟨1, 0⟩] ∧ (coopCurOf (some n) false).aborting = none ∧ (coopCurOf (some n) false).bodyDone = false
        ∧ ¬ ((∃ p ∈ [(⟨0, 0⟩ : Place), ⟨1, 0⟩], anyParked (shuttleAt s p) = true)
            ∨ ∀ p ∈ [(⟨0, 0⟩ : Place), ⟨1, 0⟩], p = s.me.place ∨ (coopCur s p).isSome = true))
    ∧ (let s := coopState (some 4095) false
       ∀ p ∈ [(⟨0, 0⟩ : Place), ⟨1, 0⟩], p = s.me.place ∨ (coopCur s p).isSome = true)
    ∧ (let s := coopState (some 4096) false
       let s := { s with me := { s.me with mtx := { s.me.mtx with cur := s.me.mtx.cur.map fun x => { x with coopLost := true } } } }
       waitingGroup s ⟨0, 0⟩ = some [⟨0, 0⟩, ⟨1, 0⟩]
         ∧ coopCur s ⟨0, 0⟩ = some { coopCurOf (some 4096) false with coopLost := true } ∧ (⟨0, 0⟩ : Place) ∈ [(⟨0, 0⟩ : Place), ⟨1, 0⟩])
    ∧ (let s := coopState (some 3) false
       ∀ p ∈ [(⟨0, 0⟩ : Place), ⟨1, 0⟩], coopCur s p = some (coopCurOf (some 3) false) ∧ (coopCurOf (some 3) false).coopLost = false) := by
  decide +kernel

/-- O27: each instruction of accumulator maintenance on a store with nothing in use; `mpre` of a panel of 32 × 64. -/
theorem witness_AccumulatorMaintenance :
    let s := mtxUser 64
    let t := engStart .mtx {} s
    EngIssues .mtx {} s ∧ 0 < (16#7).toNat ∧ (0#4).toNat + (16#7).toNat ≤ 16 ∧ (0#7).toNat ≤ 1
      ∧ (∀ g < 16, foreignGroup t.tile t.me.place.slot g = false)
      ∧ accBlocked t.tile t.me.place.slot ((List.range (16#7).toNat).map (· + (0#4).toNat)) 0 8 = false
      ∧ accBlocked t.tile t.me.place.slot [15] 7 1 = false ∧ (∀ o ∈ t.me.vOld, o.v ≠ 0)
      ∧ (groupsOf 0 256).any (foreignGroup t.tile t.me.place.slot) = false
      ∧ mfmtOf (0#7).toNat = some .bf16 ∧ (0#7).toNat < 4
      ∧ streamFits t.me 1 (mfmtOperand .bf16 true) (mfmtK .bf16) (panelN (0#7).toNat) = true
      ∧ peekBlock t.me 1 0 = .block { elems := List.replicate 2048 0 } (panelStream 32 64) ∧ t.me.place.slot < 4 := by
  unfold EngIssues EngReady
  (repeat' apply And.intro) <;> first | exact rfl | decide +kernel

/-! ### Witnesses: the vector engine -/

/-- The vector engine at an instruction, with k0 = 4 · 256 + 8; a stream in and one out at s0 and s1. -/
def outOf (w : Nat) : Stream :=
  { desc := { obj := 0xFFFF, out := true, rows := 1, cols := 4, ndims := 1, counts := [1, 0, 0, 0], strides := [16, 0, 0, 0] }, entry := 0, n := w }
def inStream : Stream := { smallStream false with spos := 1, buf := [{ elems := [1, 2, 3, 4] }] }
def vecUser : State :=
  with' fun h => { h with
    v := h.v.set 0 0x3F800000, vec := { cur := some (running 1032 0 0 0) }
    s := (h.s.set 0 (some inStream)).set 1 (some (outOf 1)) }
/-- O28 to O31, the budget: an entry of no budget leaves every instruction its cycles. -/
theorem witness_VecRoom (f : VForm) : VecRoom f {} vecUser := by
  have h (k : Nat) (x : Option Nat) (e : x = none) : ∀ m, x = some m → k ≤ m := by subst e; exact fun _ h => nomatch h
  exact h _ _ (by decide +kernel)
/-- Operands that are there. -/
theorem operandsHere {srcs : List VSrc} {want : Option DFmt} {imm : BitVec 7 → Nat} {w : Nat} {t : State} (ok : streamsOk t.me srcs want = true)
    {l : List (Block × Machine.Stream)} (bl : peekAll t.me [] (srcStreams srcs) = .ready l) :
    Claim.Operands srcs want imm w t { (srcVals t imm w srcs (giveBlocks srcs l)).1 with me := commitAll (srcVals t imm w srcs (giveBlocks srcs l)).1.me srcs }
      (srcVals t imm w srcs (giveBlocks srcs l)).2 :=
  ⟨ok, l, _, bl, rfl, rfl⟩
theorem vecUser_issues : VecIssues {} vecUser := by unfold VecIssues EngReady; decide +kernel
theorem block_here {t : State} (g : getS t.me 0 = some inStream) :
    peekAll t.me [] (srcStreams [.s 0]) = .ready [({ elems := [1, 2, 3, 4] }, inStream)] := by
  have b : peekBlock t.me (0#4) 0 = .block { elems := [1, 2, 3, 4] } inStream := by
    unfold peekBlock
    rw [show getS t.me (0#4) = some inStream from g]
    rfl
  simp [srcStreams, peekAll, b]
/-- O28: `vadd` of a tile and a constant, and `vexp` of the stream's block. -/
theorem witness_VecElementwise :
    VecIssues {} vecUser ∧ ∀ i ∈ [Instr.vadd {} .f32 .t0 (.v 0) (.imm 1), .vexp {} .f32 (.v 1) (.s 0), .vsel {} .i8 (.v 1) 16 (.v 0) (.v 1)],
      ∃ t a f u vs, elementForm i = some ({}, t, a, f) ∧ Claim.Operands f.srcs (some (vtDeliver t)) (immElem t) (vtWidth t) (vecStart f {} vecUser) u vs := by
  refine ⟨vecUser_issues, ?_⟩
  intro i h
  simp only [List.mem_cons, List.not_mem_nil, or_false] at h
  rcases h with rfl | rfl | rfl
  · exact ⟨_, _, _, _, _, rfl, operandsHere (by decide +kernel) rfl⟩
  · exact ⟨_, _, _, _, _, rfl, operandsHere (by decide +kernel) (block_here (by decide +kernel))⟩
  · exact ⟨_, _, _, _, _, rfl, operandsHere (by decide +kernel) rfl⟩
/-- O29: FP32 to BF16, FP32 to a B16M block and back. -/
theorem witness_VecConverts :
    VecIssues {} vecUser ∧ ∀ p ∈ [(CvtFmt.f32, CvtFmt.bf16), (.f32, .b16m7), (.b16m7, .f32)], cvtPair p.1 p.2 = true ∧ (∀ i, VSrc.v 0 ≠ .imm i)
      ∧ (∀ k, VSrc.v 0 ≠ .k k)
      ∧ ∃ u v, Claim.Operands [.v 0] (some (cvtDeliver p.1)) (fun _ => 0) (cvtWidth p.1)
          (vecStart { dest := .tile .t0, srcs := [.v 0], lat := (cvtFigures p.1 p.2).1, occ := (cvtFigures p.1 p.2).2 } {} vecUser) u [v] := by
  refine ⟨vecUser_issues, ?_⟩
  intro p h
  refine ⟨?_, by simp, by simp, ?_⟩
  · revert p; decide
  · simp only [List.mem_cons, List.not_mem_nil, or_false] at h
    rcases h with rfl | rfl | rfl <;> exact ⟨_, _, operandsHere (by decide +kernel) rfl⟩
/-- O30: `vcmp` into p16, `vpand` into p17, `vpcount`, `vext` of element (0, 3). -/
theorem witness_VecPredicatesAndScalars :
    VecIssues {} vecUser
    ∧ (16 ≤ (16#6).toNat ∧ ∃ u v y, Claim.Operands [.v 0, .imm 1] (some (vtDeliver .f32)) (immElem .f32) 4
        (vecStart { dest := .pred 16, srcs := [.v 0, .imm 1], lat := 3, occ := 1 } {} vecUser) u [v, y])
    ∧ (16 ≤ (17#6).toNat ∧ (∀ h, ∃ g, predLogic (.vpand {} 17 16 18) h = some ({}, 17, [16, 18], g))
      ∧ ∃ f, predLogic (.vpand {} 17 16 18) (vecStart { dest := .pred 17, preds := [16, 18], lat := 1 } {} vecUser).me = some ({}, 17, [16, 18], f))
    ∧ (∀ h, ∃ m, predCount (.vpcount {} 16) h = some ({}, 16, m, 0))
    ∧ (let form : VForm := { dest := .fifo 0, srcs := [regSrc (.v 0)], lat := 4 }
       let t := vecStart form {} vecUser
       (kOrImmVal t.me .vec (.imm 0)).toNat < 16 ∧ (kOrImmVal t.me .vec (.imm 3)).toNat < 16
         ∧ ∃ u v, srcVal1 t (fun _ => 0) 4 (regSrc (.v 0)) none = (u, v)) := by
  refine ⟨vecUser_issues, ⟨by decide, _, _, _, operandsHere (by decide +kernel) rfl⟩, ⟨by decide, fun _ => ⟨_, rfl⟩, _, rfl⟩, fun _ => ⟨_, rfl⟩,
    ⟨by decide +kernel, by decide +kernel, _, _, rfl⟩⟩
/-- O31: a row sum, a column pair of `vred.maxsum`; `vtrn`; `vld` of the stream; `vst` into the output stream; SHAPE 4 × 8. -/
theorem witness_VecReducesAndMoves :
    VecIssues {} vecUser
    ∧ ((∀ o, ∃ g, reduceParts (.vredSumRow {} .f32 .t0 (.v 0)) o = some ({}, .f32, true, .t0, .v 0, g))
      ∧ ∃ u v f, Claim.Operands [.v 0] (some (vtDeliver .f32)) (immElem .f32) 4 (vecStart { dest := .tile .t0, srcs := [.v 0], lat := 14, occ := 2 } {} vecUser)
          u [v] ∧ reduceParts (.vredSumRow {} .f32 .t0 (.v 0)) (ovfOf u.me .vec) = some ({}, .f32, true, .t0, .v 0, f))
    ∧ (pairParts (.vredMaxsumCol {} .f32 2 3 (.v 0) (.v 1)) = some ({}, .f32, false, 2, 3, .v 0, .v 1) ∧ (2#3) ≠ 3
      ∧ ∃ u v z, Claim.Operands [.v 0, .v 1] (some (vtDeliver .f32)) (immElem .f32) 4
          (vecStart { dest := .pair 2 3, srcs := [.v 0, .v 1], lat := 72, occ := 16 } {} vecUser) u [v, z])
    ∧ (∃ w a form f u vs, moveForm (.vtrn {} .b32 .t0 (.v 0)) = some ({}, w, a, form, f)
        ∧ Claim.Operands form.srcs none (fun _ => 0) w (vecStart form {} vecUser) u vs)
    ∧ (let t := vecStart { dest := .tile (.v 1), srcs := [.s 0], lat := 4 } {} vecUser
       ∃ x w u v, getS t.me 0 = some x ∧ dWidth (delivered x.desc) = some w ∧ Claim.Operands [.s 0] none (fun _ => 0) w t u [v])
    ∧ (let t := vecStart { dest := .none, srcs := [regSrc (.v 0)], lat := 4 } {} vecUser
       ({} : Ctl).ga.toNat < 16 ∧ ({} : Ctl).gb.toNat < 16 ∧ ∃ x w u v, getS t.me 1 = some x ∧ dWidth (delivered x.desc) = some w ∧ outOk x = true
         ∧ x.failed = none ∧ x.cpos < x.n ∧ poolRoom t x.desc = true ∧ srcVal1 t (fun _ => 0) w (regSrc (.v 0)) none = (u, v))
    ∧ (kVal (vecStart { dest := .none, lat := 1 } {} vecUser).me .vec 0).toNat = 256 * 4 + 8 := by
  refine ⟨vecUser_issues, ⟨fun _ => ⟨_, rfl⟩, _, _, _, operandsHere (by decide +kernel) rfl, rfl⟩,
    ⟨rfl, by decide, _, _, _, operandsHere (by decide +kernel) rfl⟩, ⟨_, _, _, _, _, _, rfl, operandsHere (by decide +kernel) rfl⟩,
    ⟨inStream, 4, _, _, by decide +kernel, rfl, operandsHere (by decide +kernel) (block_here (by decide +kernel))⟩, ⟨by decide, by decide, outOf 1, 4, _, _, by decide +kernel, rfl, ?_, ?_, ?_, ?_, rfl⟩, by decide +kernel⟩
  all_goals decide +kernel

/-! ### Witnesses: near-data units -/

/-- Pattern 0: one FP32 element of the tensor; 1: one segment of twill; 2: twelve FP32 elements at the start of a zone's result area. -/
def nearPats : Vector (Option Pattern) 8 :=
  ((((Vector.replicate 8 none).set 0 (some { desc := { obj := 1, rows := 1, cols := 1, counts := [1], strides := [4] }, entry := entry 1, n := 1 })).set 1
    (some { desc := { obj := 2, decode := 1, format := 1, rows := 1, cols := 1, counts := [1], strides := [48] }, entry := entry 2, n := 1 })).set 2
    (some { desc := { obj := 3, rows := 1, cols := 12, counts := [12], strides := [4] }, entry := entry 3, n := 1 }))
/-- A kick whose footprint is the frames of those objects. -/
def nearKick : Kick :=
  { id := 1, tenant := 0, launch := 1, team := 0, desc := { tmap := 4, pickCount := 2 }, kobj := 0, pats := nearPats, mboxVa := 262400, crecVa := 262464
    pages := [(2, 59), (4, 59), (5, 59), (6, 59)] }
/-- A body at its first word, on a unit of tier M or S; a zone of one contributor and a result area of 48 bytes. -/
def nearBody : Body := { kick := nearKick, phase := 1 }
def oneHeader : List Byte := [1, 0, 0, 0, 0, 0, 0, 0, 0, 0, 0, 0, 0, 0, 0, 0, 48] ++ List.replicate 47 0
def nearState (m : Bool) (b : Option Body) : State :=
  { user with
    nd := { tierM := m, unit := 0, body := b }
    slots := [{ tierM := m, tierS := !m, slot := 0, tenant := 0, kobj := 0, words := [0], climbs := [(0, 7)], layout := (1, 0, 0, 0) }]
    zones := [{ tenant := 0, obj := 3, base := 655360, size := 4096, header := some oneHeader }] }

/-- O32: `fld` of a tensor's element, `fldp` of a segment of twill. -/
theorem witness_NdFetches :
    let s := nearState true (some nearBody)
    s.nd.body = some nearBody
    ∧ (∃ p, fetchPat nearBody 0 = .ok (p, 0) ∧ let x := readUnits nearBody p false s ((List.range (unitsPerBlock p.desc)).map (· + 0 * unitsPerBlock p.desc))
        x = (x.1, .ok [[0, 0, 0, 0]]))
    ∧ (∃ p, fetchPat nearBody 1 = .ok (p, 0) ∧ (p.desc.decode = 1 ∨ p.desc.decode = 2) ∧
        let x := bodyRead s nearBody (decide (p.desc.decode = 1)) (unitVa p 0) (unitBytes p.desc)
        let y := bodyRead x.1 nearBody false (Obj.scaleBase p.entry + (unitOff p.desc 0).toNat / unitBytes p.desc * Obj.scaleStride p.entry) 2
        x = (x.1, .ok (List.replicate 48 0)) ∧ y = (y.1, .ok [0, 0])) := by
  refine ⟨rfl, ⟨_, rfl, exceptOk (by decide +kernel)⟩, ⟨_, rfl, by decide, exceptOk (by decide +kernel), exceptOk (by decide +kernel)⟩⟩
/-- O33: an `add`; a `reed` at C = 5; a `twd` of rate 1, exponent 135. -/
theorem witness_NdArithmetic :
    (let b := nearBody
     let s := nearState true (some b)
     s.nd.body = some b ∧ ∃ f, laneParts (.ndAdd 1 2 3) b.kick.ovf = some (1, [2, 3], f) ∧ (1#8).toNat < 32)
    ∧ (let b := { nearBody with regs := { nearBody.regs with c := 5 } }
       let s := nearState true (some b)
       s.nd.body = some b ∧ b.regs.c < 2 ^ 24 - 1 ∧ b.regs.c.testBit 1 = false ∧ ∀ j < 1, b.regs.c.testBit j = true)
    ∧ (let b := { nearBody with regs := { nearBody.regs with n := nearBody.regs.n.set 2 { lanes := BitVec.ofNat 512 ((256 + 135) * 2 ^ 384), len := 16 } } }
       let s := nearState true (some b)
       s.nd.body = some b ∧ nLane (getN b 2) 12 < 1024 ∧ twN (nLane (getN b 2) 12 / 256) = some 320 ∧ 2 ≤ nLane (getN b 2) 12 % 256
         ∧ 16 * (19#8).toNat < 320) := by
  refine ⟨⟨rfl, _, rfl, by decide⟩, ⟨rfl, by decide, by decide, by decide⟩, ⟨rfl, by decide +kernel, by decide +kernel, by decide +kernel, by decide⟩⟩
/-- O34: `wst` into a tensor's element, `wacc` of twelve elements to a zone. -/
theorem witness_NdWritesBack :
    let b := nearBody
    let s := nearState true (some b)
    s.nd.body = some b
    ∧ (∃ p, fetchPat b 0 = .ok (p, 0) ∧ (0#8).toNat < 8 ∧ ∀ j < unitsPerBlock p.desc, ∀ a < (wstElem b.kick.ovf p.desc.format (nLane (getN b 0) j)).1.length,
        Storable s b.kick (unitVa p (0 * unitsPerBlock p.desc + j) + a))
    ∧ (∃ p, fetchPat b 2 = .ok (p, 0) ∧
        let els := (List.range (unitsPerBlock p.desc)).map fun j => wstElem b.kick.ovf p.desc.format (nLane (getN b 0) j)
        let c : Contrib := { contributor := (0#8).toNat, off := (unitOff p.desc (0 * unitsPerBlock p.desc)).toNat, bytes := els.flatMap (·.1),
                             barred := (launchOf s b.kick.launch).elim false (fun l => l.climb || l.paired) }
        let zone : Zone := (s.zones.find? fun q => q.tenant = b.kick.tenant && q.base = Obj.base p.entry).getD
          { tenant := b.kick.tenant, obj := p.desc.obj, base := Obj.base p.entry, size := Obj.size p.entry }
        contribTrouble (zoneHeader s zone) zone.size c = none) := by
  refine ⟨rfl, ⟨_, rfl, by decide, ?_⟩, ⟨_, rfl, by decide +kernel⟩⟩
  unfold Storable
  have e : ∀ a < 4, heldLeaf nearKick (458752 + a) = some 59
      ∧ guardedLine (nearState true (some nearBody)) (leafAddr 59 (458752 + a)) 1 = false := by decide +kernel
  have l : (wstElem 0 0 (nLane (getN nearBody 0) 0)).1.length = 4 := by decide +kernel
  intro j hj a ha
  have j0 : j = 0 := by
    have : j < 1 := hj
    omega
  subst j0
  have e := e a (l ▸ ha)
  exact ⟨59, e.1, by decide, by decide, e.2⟩
/-- O35: a kick in the queue of an idle unit; a climb point with the next pick there, with and without a request; a finished body. -/
theorem witness_NdBodyRuns :
    (let s := nearState true none
     let s := { s with nd := { s.nd with queue := [nearKick] } }
     OnUnit s 0 ∧ s.nd.body = none ∧ s.nd.queue = nearKick :: [] ∧ unitOut s s.nd.tierM s.nd.unit = false)
    ∧ (∀ hs : List Handover, hs ∈ [[], [{ kick := 1, tierM := true, unit := 0, target := 1 }]] →
       let b := { nearBody with phase := 0 }
       let s := { nearState false (some b) with handovers := hs }
       OnUnit s 512 ∧ s.nd.body = some b ∧ (∃ slot, bodySlot s b.kick = some slot ∧ slot.climbs.find? (fun c => c.1 = b.regs.word) = some (b.regs.word, 7))
         ∧ b.state = .running ∧ nextPick s b b.regs = some 0 ∧ kickEnt s b.kick 0 = some 0 ∧ pickLost 0 s.nd.tierM = false
         ∧ (handoverOf s b.kick.id).isSome = !hs.isEmpty
         ∧ let dead : BodyRegs := { b.regs with n := Vector.replicate 32 {} }
           let b1 := { b with climbAt := some (7, dead), climbFlags := b.kick.flags, climbWords := b.kick.words, climbWrites := b.writes.length,
                              phase := 1, wordStart := b.regs, wordFlags := b.kick.flags }
           (writeRecord { s with nd := { s.nd with body := some b1 } } b1 7 dead 0).2 = true)
    ∧ (let b := { nearBody with phase := 0, state := .finished }
       let s := nearState true (some b)
       OnUnit s 0 ∧ s.nd.body = some b ∧ b.status ≠ 3 ∧ handoverOf s b.kick.id = none ∧ b.writes = [] ∧ b.kick.stored = []) := by
  refine ⟨by unfold OnUnit; decide +kernel, ?_, by unfold OnUnit; (repeat' apply And.intro) <;> first | exact rfl | decide +kernel⟩
  have w {hs} : walkHome { nearState false (some { nearBody with phase := 0 }) with handovers := hs } 0 327680 = some 59 :=
    (by decide +kernel : walkHome (nearState false (some { nearBody with phase := 0 })) 0 327680 = some 59)
  have w' {hs} : walkHome { nearState false (some { nearBody with phase := 0 }) with handovers := hs } 0 720896 = some 59 :=
    (by decide +kernel : walkHome (nearState false (some { nearBody with phase := 0 })) 0 720896 = some 59)
  intro hs mem
  have t := tierMap_fresh (w (hs := hs)) w' rfl rfl
  refine ⟨by unfold OnUnit; exact ⟨rfl, rfl⟩, rfl, ⟨_, rfl, rfl⟩, rfl, ?_, ?_, (by decide : pickLost 0 false = false), ?_, ?_⟩
  · unfold nextPick
    rw [show ({ nearBody with phase := 0 } : Body).kick.desc.tmap = 4 from rfl, show ({ nearBody with phase := 0 } : Body).kick.tenant = 0 from rfl, t]
    decide +kernel
  · unfold kickEnt
    rw [show ({ nearBody with phase := 0 } : Body).kick.desc.tmap = 4 from rfl, show ({ nearBody with phase := 0 } : Body).kick.tenant = 0 from rfl, t]
    simp only [tierEnt, homeNat, homeOf]
    rw [walkHome_frame (b := 720896) (by decide) (by decide) (by decide), w']
    have e : memNat image (leafAddr 59 (720896 + 64 + 8 * 0)) 8 = 0 := by decide +kernel
    simp only [show leafHost 59 = false by decide]
    exact congrArg (fun n => some (BitVec.ofNat 64 n)) e
  · simp only [List.mem_cons, List.not_mem_nil, or_false] at mem
    rcases mem with rfl | rfl <;> rfl
  · simp only [List.mem_cons, List.not_mem_nil, or_false] at mem
    rcases mem with rfl | rfl <;> decide +kernel

/-! ### Witnesses: ends and waits -/

/-- A gang of team 0 at some places of tile 0, and its launch. -/
def gangAt (ps : List Place) : Gang :=
  { team := 0, launch := 1, tenant := 0, index := 0, band := 1, domain := 1, nTiles := 1, perTile := ps.length, places := ps }
def inGang (ps : List Place) (os : List Shuttle) : State :=
  { user with others := os, loom := { gangs := [gangAt ps], launches := [{ id := 1, fn := 1, q := 16, index := 0, tenant := 0, band := 1, teams := 1 }] } }
/-- O36: `exit` of one shuttle of two, and of the only one. -/
theorem witness_ExitEnds :
    ∀ x ∈ [([(⟨0, 0⟩ : Place), ⟨0, 1⟩], [{ userShuttle with place := ⟨0, 1⟩ }]), ([⟨0, 0⟩], [])], let s := inGang x.1 x.2
      let h := reader {} s
      Issues {} s ∧ h.paired = false ∧ h.exiting = false ∧ h.stopReq = false ∧ entriesDone h = true ∧ h.copies = [] ∧ drainHolds h = false
        ∧ outputsDone h = true ∧ h.stores = [] ∧ unacknowledged s = false ∧ gangOf s h.team = some (gangAt x.1) ∧ s.me.place ∈ x.1 ++ []
        ∧ (x.1.length = 2 → ∃ q ∈ x.1 ++ [], q ≠ s.me.place ∧ (shuttleAt s q).life ≠ .exited)
        ∧ (x.1.length = 1 → (∀ q ∈ x.1 ++ [], q ≠ s.me.place → (shuttleAt s q).life = .exited) ∧ (gangAt x.1).fromRecord = false
            ∧ (launchOf s 1).isSome = true) := by
  unfold Issues
  intro x h
  simp only [List.mem_cons, List.not_mem_nil, or_false] at h
  rcases h with rfl | rfl <;> ((repeat' apply And.intro) <;> decide +kernel)

/-- The shuttle with a kernel whose safe-point map names heads 0 of STR and VEC. -/
def mapped (f : Shuttle → Shuttle) : State :=
  with' fun h => f { h with kern := { h.kern with base := 425984, safeOff := 256, nSafe := 2 } }
theorem mapped_safe {s : State} {e : Eng} {k : Kern} (w : walkHome s 0 425984 = some 59) (m : s.mem.home = image)
    (i : k.base = 425984 ∧ k.safeOff = 256 ∧ k.nSafe = 2) (h : e ≠ .mtx) : safeRecord s 0 k 0 (engCode e) = some 5 := by
  have r {a : Nat} (h : a / 98304 = 425984 / 98304) (b : a + 16 ≤ 491520) (l : leafAddr 59 a = a) : homeBytes s 0 a 16 = some (memRead image a 16) := by
    rw [homeBytes_eq (e := 59) (by rw [walkHome_frame (b := 425984) h (by omega) (by decide), w]) (by decide) (by omega) (by omega), l, m]
  unfold safeRecord
  rw [i.1, i.2.1, i.2.2]
  have x : (List.range 2) = [0, 1] := rfl
  simp only [x, firstSome, r (a := 425984 + 256 + 16 * 0) (by decide) (by decide) (by decide),
    r (a := 425984 + 256 + 16 * 1) (by decide) (by decide) (by decide)]
  cases e <;> first | exact absurd rfl h | decide +kernel
/-- O37, the happenings of entries: a start, a deadlocked crossing, a budget spent. -/
theorem witness_EngineEvents_entries :
    (let s := mapped fun h => { h with str := { queue := [{}] } }
     At s ⟨0, 0⟩ ∧ s.me.life ≠ .idle ∧ s.me.life ≠ .exited ∧ s.me.held = false ∧ (engOf s.me .str).cur = none ∧ (engOf s.me .str).queue = [{}]
       ∧ ({} : Entry).loop ≠ some 0 ∧ ({} : Entry).head < s.me.kern.lines
       ∧ let x := fetchLine s 0
         x = (x.1, .ok line0) ∧ (engOf s.me .str).lastInter ≠ some (!Link.inter line0)
           ∧ (safeRecord x.1 x.1.me.tenant x.1.me.kern 0 (engCode .str)).isSome = true)
    ∧ (let s := mapped fun h => { h with crossing := 64, str := { cur := some (running 0 0 0 0), pushed := 1, fifo := List.replicate 16 0 } }
       At s ⟨0, 0⟩ ∧ s.me.life = .running ∧ 64 ≤ s.me.crossing ∧ outstanding s.me = true ∧ (∀ e ∈ [Eng.str, .vec, .mtx], engStuck s.me e = true)
         ∧ (engOf s.me .str).cur.isSome = true)
    ∧ (let s := mapped fun h => { h with str := { cur := some { running 0 0 0 0 with spent := 5 } } }
       At s ⟨0, 0⟩ ∧ (engOf s.me .str).cur = some { running 0 0 0 0 with spent := 5 } ∧ budget s { running 0 0 0 0 with spent := 5 } .str = some 5
         ∧ QueueHasRoom s 131072 131136) := by
  unfold At
  refine ⟨⟨by decide, by decide, by decide, rfl, rfl, rfl, by decide, by decide, exceptOk (by decide +kernel), by decide, ?_⟩, by decide +kernel,
    ⟨by decide, rfl, ?_, by unfold QueueHasRoom; (repeat' apply And.intro) <;> decide +kernel⟩⟩
  · have t : (fetchLine (mapped fun h => { h with str := { queue := [{}] } }) 0).1.me.tenant = 0 := by decide +kernel
    rw [t, mapped_safe (by decide +kernel) (by decide +kernel) (by decide +kernel) (by decide)]
    rfl
  · unfold budget
    rw [show (mapped fun h => { h with str := { cur := some { running 0 0 0 0 with spent := 5 } } }).me.tenant = 0 from rfl,
      show ({ running 0 0 0 0 with spent := 5 } : Cur).entry.head = 0 from rfl,
      mapped_safe (by decide +kernel) rfl ⟨rfl, rfl, rfl⟩ (by decide)]
    rfl
/-- O37, tokens and results. -/
theorem witness_EngineEvents :
    (∀ w ∈ [(Wait.popTok 3, 1), (.pushTok 3, 14), (.pushAck 3, 14), (.tokPush 3 15, 0), (.tokPop 3 2, 2)],
       let s := with' fun h => { h with wait := some w.1, tok := h.tok.set 3 w.2 }
       At s ⟨0, 0⟩ ∧ s.me.life = .running ∧ s.me.dueTrap = none ∧ s.me.compareDue = false ∧ s.me.wait = some w.1 ∧ tokCount s.me 3 = w.2
         ∧ pushesDue s.me 3 = 0 ∧ unacknowledged s = false ∧ s.me.ctl.push = 0)
    ∧ (∀ d : Bool, let x : Cur := { running 0 0 0 0 with ctl := { pop := 3 }, bodyDone := d }
       let s := with' fun h => { h with tok := h.tok.set 3 1, vec := { cur := some x } }
       At s ⟨0, 0⟩ ∧ (engOf s.me .vec).cur = some x ∧ x.aborting = none ∧ x.bodyDone = d ∧ x.popped = false ∧ x.ctl.pop ≠ 0
         ∧ tokCount s.me x.ctl.pop.toNat ≠ 0 ∧ budget s x .vec = none)
    ∧ (At exposedUser ⟨0, 0⟩ ∧ exposedUser.me.pend = [{ dest := .g 6, val := 1, land := 3 }] ∧ exposed exposedUser.me = true ∧ exposedUser.me.clock < 3
       ∧ waitsApart exposedUser.me.wait = false ∧ exposed { exposedUser.me with hand := none } = false ∧ waitsApart (some (.popTok 3)) = true)
    ∧ (let s := with' fun h => { h with vpend := [(1, 8, 7)], vec := { cur := some (running 0 0 0 0) } }
       At s ⟨0, 0⟩ ∧ vecNext s.me = some 8 ∧ Machine.exposedVec s.me = true ∧ s.me.vec.clock < 8)
    ∧ (let s := with' fun h => { h with vpend := [(1, 8, 7)] }
       At s ⟨0, 0⟩ ∧ Machine.exposedVec s.me = false ∧ s.me.vpend = [(1, 8, 7)] ∧ s.me.ppend = [] ∧ s.me.rpend = [] ∧ s.me.vdue = [])
    ∧ (∀ d ∈ [VecDue.push 3, .flags 1, .fifo 9], let s := with' fun h => { h with vdue := [(8, d)] }
       At s ⟨0, 0⟩ ∧ Machine.exposedVec s.me = false ∧ s.me.vpend = [] ∧ s.me.ppend = [] ∧ s.me.rpend = [] ∧ s.me.vdue = [(8, d)]) := by
  unfold At; decide +kernel
/-- O38: a barrier whose phase has changed; ready tags; room in a queue; an element in a FIFO. -/
theorem witness_WaitsEnd :
    (let s := { scratchUser 64 [0x40, 0, 0, 0, 0, 0, 0, 0] with me := { (scratchUser 64 []).me with wait := some (.bar 3 (Config.localRange + 64)) } }
     Waits s ⟨0, 0⟩ ∧ s.me.wait = some (.bar 3 (Config.localRange + 64)) ∧ OwnScratch s (Config.localRange + 64) 8 64 ∧ PlainScratch s s.me 64 8
       ∧ (barOf (scratchNat s 64 8)).p ≠ (getG s.me 3).toNat % 2 ∧ readsPending s.me 65535 = false)
    ∧ (∀ w ∈ [Wait.tagAny 5 3, .tagAll 3], let s := with' fun h => { h with wait := some w, tagReady := 3 }
       Waits s ⟨0, 0⟩ ∧ s.me.wait = some w ∧ s.me.tagReady &&& 3 ≠ 0 ∧ s.me.tagReady &&& 3 = 3 ∧ NonePending 5 s.me)
    ∧ (∀ x ∈ [none, some 6], let s := with' fun h => { h with g := h.g.set 11 64, wait := some (.cmd .str 8 0 1 x) }
       Waits s ⟨0, 0⟩ ∧ s.me.wait = some (.cmd .str 8 0 1 x) ∧ tripsOk (settle s.me) 8 x ∧ queueRoom s s.me .str = true ∧ qcwDepth (queueQcw s s.me .str) ≠ 0)
    ∧ (let s := with' fun h => { h with wait := some (.fifo .vec (.g 5)), vec := { fifo := [9] } }
       Waits s ⟨0, 0⟩ ∧ s.me.wait = some (.fifo .vec (.g 5)) ∧ fifoOf s.me .vec = 9 :: [] ∧ NonePending 5 s.me) := by
  unfold Waits At OwnScratch PlainScratch NonePending NoneEarlier Overtaken
  have trips {h : Shuttle} (e : (getG h (8 + 3)).toNat ≤ 2 ^ 6) : ∀ x ∈ [none, some 6], tripsOk h 8 x := by
    intro x m k y
    simp only [List.mem_cons, List.not_mem_nil, or_false] at m
    rcases m with rfl | rfl
    · exact nomatch y
    · cases y; exact e
  refine ⟨by (repeat' apply And.intro) <;> decide +kernel, by decide +kernel, fun x m => ⟨?_, rfl, ?_, ?_, ?_⟩, by decide +kernel⟩
  · exact ⟨⟨rfl, rfl⟩, rfl, rfl, rfl, rfl⟩
  · refine trips ?_ x m
    simp only [List.mem_cons, List.not_mem_nil, or_false] at m
    rcases m with rfl | rfl <;> decide +kernel
  all_goals
    simp only [List.mem_cons, List.not_mem_nil, or_false] at m
    rcases m with rfl | rfl <;> decide +kernel

/-- The card neg_abs of the stock deck (R284), and one whose replacement has an opcode that VEC does not have. -/
def negAbs : BitVec 512 := stockCards.getD 2 0
def badRep : BitVec 512 := negAbs ||| (0x3FF#512 <<< 288)
/-- VEC at `vneg.f32 v1, v0` with `vabs.f32 v1, v1` behind it. -/
def rewriting (card : BitVec 512) : State :=
  let word (i : Instr) : IWord := BitVec.ofNat 96 ((encode i).getD 0)
  let x : Cur := { hand := some (repLine .vec [word (.vneg {} .f32 (.v 1) (.v 0)), word (.vabs {} .f32 (.v 1) (.v 1))]), deck := [card] }
  with' fun h => { h with vec := { cur := some x } }
def nextOf (o : Host.Outcome State Fault Refusal) : Option State := match o with
  | .next t => some t
  | _ => none
theorem nextOf_some {o : Host.Outcome State Fault Refusal} {t : State} (h : nextOf o = some t) : o = .next t := by
  cases o <;> simp_all [nextOf]
theorem negAbs_found : (findGroup (rewriting negAbs) .vec).isSome = true := by decide +kernel
theorem badRep_found : (findGroup (rewriting badRep) .vec).isSome = true := by decide +kernel
def negGroup : Group' := (findGroup (rewriting negAbs) .vec).get negAbs_found
def badGroup : Group' := (findGroup (rewriting badRep) .vec).get badRep_found
def negRep : Nat := (cardReps negGroup.card).headD 0
/-- The trial of the replacement, and its end. -/
def negTrial : State :=
  { rewriting negAbs with me := modCur (rewriting negAbs).me .vec (fun c =>
      { c with hand := some (repLine .vec [(buildRep (rewriting negAbs).me .vec negGroup negRep).1]), slot := 0, left := 2,
               entry := withKs c.entry (buildRep (rewriting negAbs).me .vec negGroup negRep).2 }) }
theorem negTrial_next : (nextOf (exec (.vabs {} .f32 (.v 1) (.v 0)) negTrial)).isSome = true := by decide +kernel
/-- O39: neg_abs makes of the two a `vabs.f32 v1, v0`; the other card's replacement does not decode. -/
theorem witness_GroupReplaces :
    At (rewriting negAbs) ⟨0, 0⟩
    ∧ (let s := rewriting negAbs
       ∃ g r t, findGroup s .vec = some g ∧ cardReps g.card = [r] ∧
         let w := buildRep s.me .vec g r
         let trial : State := { s with me := modCur s.me .vec (fun c => { c with hand := some (repLine .vec [w.1]), slot := 0, left := 2, entry := withKs c.entry w.2 }) }
         let i := Instr.vabs {} .f32 (.v 1) (.v 0)
         let ctl := ctlOf (unpack ((g.seen.head?).elim 0 (·.word)))
         peekAll s.me [] (if groupGuard s.me .vec ctl then repPops s false [w.1] else []) = .ready [] ∧ decodeOn .vec w.1 = .ok i ∧ repMeaning i trial = some (exec i trial)
           ∧ exec i trial = .next t ∧ (engOf s.me .vec).cur.isSome = true
           ∧ (engOf t.me .vec).cur.map (fun c => (c.aborting, c.slot)) = some (none, 1))
    ∧ (let s := rewriting badRep
       At s ⟨0, 0⟩ ∧ ∃ g r x, findGroup s .vec = some g ∧ cardReps g.card = [r] ∧
         let w := buildRep s.me .vec g r
         let ctl := ctlOf (unpack ((g.seen.head?).elim 0 (·.word)))
         peekAll s.me [] (if groupGuard s.me .vec ctl then repPops s false [w.1] else []) = .ready [] ∧ decodeOn .vec w.1 = .error x) := by
  have ok {x : Except DecodeError Instr} {i : Instr} (h : x.toOption = some i) : x = .ok i := by
    cases x <;> simp_all [Except.toOption]
  have err {x : Except DecodeError Instr} (h : x.toOption = none) : ∃ y, x = .error y := by
    cases x <;> simp_all [Except.toOption]
  have none' {h : Shuttle} {l : List (BitVec 4)} (e : l = []) : peekAll h [] l = .ready [] := by rw [e]; rfl
  unfold At
  refine ⟨by decide, ⟨negGroup, negRep, (nextOf (exec (.vabs {} .f32 (.v 1) (.v 0)) negTrial)).get negTrial_next, (Option.some_get _).symm,
    by decide +kernel, none' (by decide +kernel), ok (by decide +kernel), rfl, nextOf_some (Option.some_get _).symm, by decide +kernel, by decide +kernel⟩,
    by decide, badGroup, (cardReps badGroup.card).headD 0, ?_⟩
  obtain ⟨y, h⟩ := err (x := decodeOn .vec (buildRep (rewriting badRep).me .vec badGroup ((cardReps badGroup.card).headD 0)).1) (by decide +kernel)
  exact ⟨y, (Option.some_get _).symm, by decide +kernel, none' (by decide +kernel), h⟩

/-- O39, an element-wise replacement: what neg_abs puts in place has its operand there, and the cycles to its completion left. -/
theorem witness_GroupReplaces_elementwise :
    let i := Instr.vabs {} .f32 (.v 1) (.v 0)
    ∃ f u vs, decodeOn .vec (buildRep (rewriting negAbs).me .vec negGroup negRep).1 = .ok i ∧ elementForm i = some ({}, .f32, .v 1, f)
      ∧ VecIssues {} negTrial ∧ VecRoom f {} negTrial
      ∧ Claim.Operands f.srcs (some (vtDeliver .f32)) (immElem .f32) (vtWidth .f32) (vecStart f {} negTrial) u vs := by
  have ok {x : Except DecodeError Instr} {i : Instr} (h : x.toOption = some i) : x = .ok i := by
    cases x <;> simp_all [Except.toOption]
  have h (k : Nat) (x : Option Nat) (e : x = none) : ∀ m, x = some m → k ≤ m := by subst e; exact fun _ h => nomatch h
  refine ⟨_, _, _, ok (by decide +kernel), rfl, by unfold VecIssues EngReady; decide +kernel, h _ _ (by decide +kernel), operandsHere (by decide +kernel) rfl⟩

/-! ### Witnesses: zones and the fabric -/

/-- A zone of two contributors and a result area of 48 bytes: nothing staged, or contributor 0 complete; one contribution has arrived. -/
def twoHeader : List Byte := [2, 0, 0, 0, 0, 0, 0, 0, 0, 0, 0, 0, 0, 0, 0, 0, 48] ++ List.replicate 47 0
def contrib (n : Nat) : Contrib := { contributor := n, off := 0, bytes := List.replicate 48 1 }
def zoneWith (marks : List (Nat × Nat)) (c : Contrib) : Zone :=
  { tenant := 0, obj := 3, base := 655360, size := 4096, header := some twoHeader, marks := marks, queue := [c] }
def zoned (marks : List (Nat × Nat)) (c : Contrib) : State := { user with zones := [zoneWith marks c] }
/-- O40: the first contribution of two, the last, one of a contributor that the header does not have, and one of a contributor that is complete. -/
theorem witness_ZoneRounds :
    (∀ p ∈ [([], 0, false), ([(0, 0)], 1, true)], let z := zoneWith p.1 (contrib p.2.1)
      let hd := zoneHeader (zoned p.1 (contrib p.2.1)) z
      contribAt (zoned p.1 (contrib p.2.1)).zones 0 = some (z, 0) ∧ z.queue[0]? = some (contrib p.2.1) ∧ (contrib p.2.1).sender = none
        ∧ contribTrouble hd z.size (contrib p.2.1) = none ∧ contributorDone z hd p.2.1 = false
        ∧ roundDone (stageIn { z with queue := z.queue.eraseIdx 0 } hd (contrib p.2.1)) hd = p.2.2)
    ∧ (let z := zoneWith [] (contrib 2)
       contribAt (zoned [] (contrib 2)).zones 0 = some (z, 0) ∧ z.queue[0]? = some (contrib 2) ∧ (contrib 2).sender = none
         ∧ contribTrouble (zoneHeader (zoned [] (contrib 2)) z) z.size (contrib 2) = some .bounds
         ∧ contributorDone z (zoneHeader (zoned [] (contrib 2)) z) 2 = false)
    ∧ (let z := zoneWith [(0, 0)] (contrib 0)
       contribAt (zoned [(0, 0)] (contrib 0)).zones 0 = some (z, 0) ∧ z.queue[0]? = some (contrib 0) ∧ (contrib 0).sender = none
         ∧ z.header.isSome = true ∧ contributorDone z (zoneHeader (zoned [(0, 0)] (contrib 0)) z) 0 = true) := by
  decide +kernel

/-- A window of peer 5 through port 1; a remote store and a flag of it. -/
def fabricState (arrived sent applied : Bool) (seq : Nat) : State :=
  { user with
    ctxs := [{ tenant0 with windows := [(0, { peer := 5, ports := 2, base := 65536, size := 1048576 })] }]
    fabric := { stores := [(0, { sender := 0, tenant := 0, window := 0, off := 64, bytes := [1, 2, 3, 4, 5, 6, 7, 8], port := 1, place := ⟨0, 0⟩, arrived := arrived })]
                flags := [(0, { tenant := 0, window := 0, slot := 2, seq := seq, place := ⟨0, 0⟩, port := 1, sent := sent, applied := applied })] } }
/-- O41: a store before its arrival and before its acknowledgement; a flag before each of its steps, newer and stale; ports. -/
theorem witness_FabricMoves :
    (let s := fabricState false false false 1
     ∃ r f, remoteAt s 0 = some r ∧ r.sender = 0 ∧ r.arrived = false ∧ carries s r.tenant r.window r.port = true
       ∧ remoteBehind s 0 r = false ∧ (windowEntry s r.tenant r.window).zone = false ∧ flagAt s 0 = some f ∧ f.sent = false ∧ (∀ k ∈ f.after, remoteAt s k = none))
    ∧ (∃ r, remoteAt (fabricState true false false 1) 0 = some r ∧ r.arrived = true)
    ∧ (∀ p ∈ [(1, true), (0, false)], let s := fabricState false true false p.1
       ∃ f, flagAt s 0 = some f ∧ f.sender = 0 ∧ f.sent = true ∧ f.applied = false ∧ carries s f.tenant f.window f.port = true
         ∧ let last := lastFlag s.fabric (65536 + (windowEntry s f.tenant f.window).peer) f.slot
           decide (1 ≤ (f.seq + 2 ^ 32 - last) % 2 ^ 32 ∧ (f.seq + 2 ^ 32 - last) % 2 ^ 32 < 2 ^ 31) = p.2)
    ∧ (∃ f, flagAt (fabricState false true true 1) 0 = some f ∧ f.applied = true)
    ∧ portOut user 7 = false := by
  refine ⟨⟨_, _, rfl, rfl, rfl, by decide +kernel, by decide +kernel, by decide +kernel, rfl, rfl, by decide +kernel⟩, ⟨_, rfl, rfl⟩, ?_, ⟨_, rfl, rfl⟩, by decide +kernel⟩
  · intro p h
    simp only [List.mem_cons, List.not_mem_nil, or_false] at h
    rcases h with rfl | rfl <;> exact ⟨_, rfl, by decide +kernel⟩

/-! ### Witnesses: the tier manager -/

/-- Every state with the image and its tables translates as `user` does. -/
theorem walk_of {s : State} {a : Nat} (c : (ctxOf s 0).xlBase = 8192) (m : s.mem = user.mem) (f : s.fresh = user.fresh) :
    walkHome s 0 a = walkHome user 0 a := by
  have c' : (ctxOf user 0).xlBase = 8192 := rfl
  unfold walkHome walkFresh
  rw [c, m, f, c']
theorem user_frames : walkHome user 0 327680 = some 59 ∧ walkHome user 0 786432 = some 59 ∧ walkHome user 0 917504 = some 59
    ∧ walkHome user 0 720896 = some 59 ∧ walkHome user 0 262464 = some 59 := by decide +kernel
def map4 : TMap := { tenant := 0, idx := 4, base := 720896, picks := 2, log2pick := 4, streamable := false, tensor := 1, sched := 0, entry := entry 1 }
def kern5 : Kern := { obj := 5, base := 786432, codeBase := 786496, lines := 1 }
theorem header5 : memRead image 786432 64 = [0x40, 0, 12, 0, 0, 0, 0, 0, 1] ++ List.replicate 55 0 := by decide +kernel
theorem kernel5 {s : State} {k : Kick} (w : walkHome s 0 327680 = some 59) (w' : walkHome s 0 786432 = some 59) (m : s.mem.home = image)
    (o : (ctxOf s 0).objBase.toNat = 327680) (i : k.tenant = 0 ∧ k.kobj = 5) : kickKernel s k = some (kern5, [], []) := by
  have b : Obj.base (entry 5) = 786432 := by decide +kernel
  have h : kernHeader s 0 5 (entry 5) = some (kern5, memRead image 786432 64) := by
    unfold kernHeader
    rw [b, image_read w' m (by decide) (by decide) (by decide), header5]
    decide +kernel
  have p : plainObj s 0 5 6 64 = some (entry 5) := by
    unfold plainObj
    rw [entry_fresh w m o (by decide)]
    decide +kernel
  have z : (List.range (natOfBytes (((memRead image 786432 64).drop 41).take 1))) = [] ∧
      (List.range (natOfBytes (((memRead image 786432 64).drop 42).take 2))) = [] := by rw [header5]; decide +kernel
  unfold kickKernel
  rw [i.1, i.2, p]
  simp only [h, Option.map, kernRegions, kernQcws, z.1, z.2, List.filterMap_nil]
theorem after_climbpt {s : State} (w : walkHome s 0 786432 = some 59) (m : s.mem.home = image) : afterClimbpt s 0 kern5 7 = some 1 := by
  have va : lineVa { place := ⟨0, 0⟩, tenant := 0, kern := kern5 } 0 = 786496 := by decide
  have l : peekLine s { place := ⟨0, 0⟩, tenant := 0, kern := kern5 } 0 = some (bits512 (memRead image 786496 64)) := by
    rw [peekLine_eq (e := 59) (by rw [va, walkHome_frame (b := 786432) (by decide) (by decide) (by decide), w]) (by decide) (by rw [va]; decide)
      (by rw [va]; decide), va, m]
    rfl
  have q : Link.last (bits512 (memRead image 786496 64)) = true := by decide +kernel
  have c : seqChain s { place := ⟨0, 0⟩, tenant := 0, kern := kern5 } = [(0, 0x00c000000004000000001c00), (1, 0)] := by
    unfold seqChain
    simp only [kern5] at l ⊢
    simp only [chainFrom, l, q]
    decide +kernel
  unfold afterClimbpt
  simp only [c]
  decide +kernel
/-- A promotion of pick 0 to tier M; a launch with a schedule that asks for it, and another tensor's schedule, whose entry is not due yet. -/
def promotingEnt : SchedEnt := { pick := 0, target := 1, flag := false, lead := 0, tmap := 4 }
def waitingEnt : SchedEnt := { pick := 0, target := 1, flag := false, lead := 2 ^ 40, tmap := 9 }
def promoting : State :=
  { user with
    promos := [{ tenant := 0, tmap := 4, pick := 0, target := 1, launch := 1, team := 0 }]
    loom := { launches := [{ id := 1, fn := 1, q := 16, index := 0, tenant := 0, band := 1, sched := [waitingEnt, promotingEnt] }] } }
theorem map4_of {s : State} (w : walkHome s 0 327680 = some 59) (w' : walkHome s 0 720896 = some 59) (m : s.mem.home = image)
    (o : (ctxOf s 0).objBase.toNat = 327680) : tmapOf s 0 4 = some map4 := tierMap_fresh w w' m o
theorem someOf {α : Type} {x : Option α} (h : x.isSome = true) : x = some (x.get h) := (Option.some_get h).symm
theorem charged : (chargePromo (fillTiles promoting 0 false (pickTiles promoting map4 0)).1 map4 (promoting.promos.headD { tenant := 0, tmap := 0, pick := 0, target := 0, launch := 0, team := 0 })
    false (pickTiles promoting map4 0)).isSome = true := by decide +kernel
/-- O42: a promotion complete; a schedule entry due. -/
theorem witness_TierManagerActs_promotions :
    (let s := promoting
     ∃ x m s2 bytes stream, s.promos[0]? = some x ∧ x.done = false ∧ tmapOf s x.tenant x.tmap = some m ∧ tierEnt s m x.pick = some 0 ∧ Tier.state 0 = 0
       ∧ x.target ≠ 2 ∧ let f := fillTiles s x.tenant (Tier.copy 0 1 || x.target = 2) (pickTiles s m x.pick)
         f = (f.1, true) ∧ tierEnt f.1 m x.pick = some 0 ∧ Tier.state 0 = 0 ∧ chargePromo f.1 m x (Tier.copy 0 1) (pickTiles s m x.pick) = some (s2, bytes, stream)
           ∧ pickHeld s2 x.tenant x.tmap x.pick = false)
    ∧ (let s := promoting
       ∃ l x m, launchOf s 1 = some l ∧ NextDue (tstampOf s) l x
         ∧ (s.promos.filter fun p => p.tenant = l.tenant && !p.done).length < 8 ∧ tmapOf s l.tenant x.tmap = some m ∧ tierEnt s m x.pick = some 0
         ∧ Tier.hed 0 < x.target ∧ x.flag = false) := by
  have t : tmapOf promoting 0 4 = some map4 := map4_of (by decide +kernel) (by decide +kernel) rfl rfl
  refine ⟨⟨_, map4, _, _, _, rfl, rfl, t, by decide +kernel, by decide, by decide, pairEq (by decide +kernel), by decide +kernel, rfl, someOf charged, by decide +kernel⟩,
    ⟨_, promotingEnt, map4, rfl, ⟨[waitingEnt], [], rfl, by decide, by decide, ?_⟩, by decide, t, by decide +kernel, by decide, rfl⟩⟩
  intro i y h _
  match i, h with
  | 0, h =>
    cases h
    decide +kernel

/-- A body stopped at its climb point on a unit of tier S, its request to a tier pending since tick 0; `va` is where its record stands. -/
def handing (va target : Nat) : State :=
  let k := { nearKick with kobj := 5, crecVa := va }
  { nearState false (some { nearBody with kick := k, state := .climbed, climbAt := some (7, {}) }) with
    slots := [{ tierM := true, tierS := true, slot := 0, tenant := 0, kobj := 5, words := [0], climbs := [(0, 7)] }]
    handovers := [{ kick := 1, tierM := false, unit := 0, target := target }]
    loom := { launches := [{ id := 1, fn := 1, q := 16, index := 0, tenant := 0, band := 1 }] }
    cycles := 100000 }
def handed (va target : Nat) : Body := (handing va target).nd.body.getD nearBody
def pending (target : Nat) : Handover := { kick := 1, tierM := false, unit := 0, target := target }
theorem record_read {s : State} {k : Kick} (w : walkHome s 0 262464 = some 59) (m : s.mem.home = image) (i : k.tenant = 0 ∧ k.crecVa = 262464) :
    ∃ r, readRecord s k = some r ∧ r.cpid = 7 ∧ r.pickFirst = 0 ∧ r.pickCount = 1 ∧ r.seq = 0 ∧ r.kobj = 5 := by
  unfold readRecord
  rw [i.1, i.2, image_read w m (by decide) (by decide) (by decide)]
  exact ⟨_, rfl, by decide +kernel⟩
theorem record_read_stale {s : State} {k : Kick} (w : walkHome s 0 262464 = some 59) (m : s.mem.home = image) (i : k.tenant = 0 ∧ k.crecVa = 262448) :
    ∃ r, readRecord s k = some r ∧ r.pickFirst = 0 ∧ r.seq ≠ 0 := by
  unfold readRecord
  rw [i.1, i.2, image_read (by rw [walkHome_frame (b := 262464) (by decide) (by decide) (by decide), w]) m (by decide) (by decide) (by decide)]
  exact ⟨_, rfl, by decide +kernel⟩

theorem pick0 {s : State} (w : walkHome s 0 720896 = some 59) (m : s.mem.home = image) : tierEnt s map4 0 = some 0 := by
  simp only [tierEnt, homeNat, homeOf, map4]
  rw [walkHome_frame (b := 720896) (by decide) (by decide) (by decide), w, m]
  have e : memNat image (leafAddr 59 (720896 + 64 + 8 * 0)) 8 = 0 := by decide +kernel
  simp only [show leafHost 59 = false by decide]
  exact congrArg (fun n => some (BitVec.ofNat 64 n)) e
theorem idle_queue {s : State} (h : s.nd.queue = [] ∧ s.otherNd = []) (m : Bool) (u : Nat) : (ndOf s m u).queue.length < 64 := by
  unfold ndOf
  split
  · simp [h.1]
  · simp [h.2]
theorem handing_stopped (va target : Nat) : Stopped (handing va target) 512 (handed va target) (pending target) := by
  unfold Stopped OnUnit
  exact ⟨⟨rfl, rfl⟩, rfl, rfl, rfl, rfl, rfl, rfl⟩
def acceptedM : Option State := chargeAccept (handing 262464 1) (handed 262464 1).kick map4 1 ((List.range 1).map (· + 0))
def acceptedC : Option State := chargeAccept (handing 262464 2) (handed 262464 2).kick map4 2 ((List.range 1).map (· + 0))
theorem acceptedM_some : acceptedM.isSome = true := by decide +kernel
theorem acceptedC_some : acceptedC.isSome = true := by decide +kernel
/-- The launch of a shuttle started from the record. -/
def launchC : Launch :=
  { id := 1, fn := 1, q := 16, index := 0, tenant := 0, band := 1, levels := [{ domain := 1, scope := 1, extent := 1 }], kern := kern5 }
theorem recordLaunch_of {s : State} {k : Kick} {l : Launch} {kern : Kern} (a : launchOf s k.launch = some l) (b : kickKernel s k = some (kern, [], [])) :
    recordLaunch s k = some { l with levels := [{ domain := 1, scope := 1, extent := 1 }], kern := kern, regions := [], qcws := [], paired := false } := by
  unfold recordLaunch
  rw [a, b]
theorem acceptedC_launch : recordLaunch (acceptedC.get acceptedC_some) (handed 262464 2).kick = some launchC :=
  recordLaunch_of (l := { id := 1, fn := 1, q := 16, index := 0, tenant := 0, band := 1 }) (by decide +kernel)
    (kernel5 (by decide +kernel) (by decide +kernel) (by decide +kernel) (by decide +kernel) ⟨rfl, rfl⟩)
theorem acceptedC_place : placeRecord (acceptedC.get acceptedC_some) launchC = some ⟨0, 1⟩ := by decide +kernel
theorem handing_kernel : kickKernel (handing 262464 2) (handed 262464 2).kick = some (kern5, [], []) :=
  kernel5 (by decide +kernel) (by decide +kernel) rfl rfl ⟨rfl, rfl⟩
theorem handing_after : afterClimbpt (handing 262464 2) (handed 262464 2).kick.tenant kern5 7 = some 1 := by
  have e : (handed 262464 2).kick.tenant = 0 := rfl
  rw [e]
  exact after_climbpt (by decide +kernel) rfl
theorem bind_after {s : State} {k : Kick} {n : Nat} (a : kickKernel s k = some (kern5, [], [])) (b : afterClimbpt s k.tenant kern5 n = some 1) :
    (kickKernel s k).bind (fun x => afterClimbpt s k.tenant x.1 n) = some 1 := by
  rw [a, Option.bind_some, b]
/-- O42: a hand-over accepted at tier M. -/
theorem witness_TierManagerActs_tierM :
    let s := handing 262464 1
    let b := handed 262464 1
    Stopped s 512 b (pending 1) ∧ tmapOf s b.kick.tenant b.kick.desc.tmap = some map4
      ∧ ∃ r, readRecord s b.kick = some r ∧ tierEnt s map4 r.pickFirst = some 0 ∧ Tier.seq 0 = r.seq ∧ r.kobj = b.kick.kobj
        ∧ NoStall s map4 r.pickFirst r.pickCount
        ∧ climbWord s b.kick true r.cpid = some 0 ∧ ∃ s1, chargeAccept s b.kick map4 1 ((List.range r.pickCount).map (· + r.pickFirst)) = some s1
        ∧ climbWord s1 b.kick true r.cpid = some 0 ∧ (ndOf s1 true (homeUnit s1 b.kick true r.pickFirst)).queue.length < 64 := by
  obtain ⟨r, h, i1, i2, i3, i4, i5⟩ := record_read (s := handing 262464 1) (k := (handed 262464 1).kick) (by decide +kernel) rfl ⟨rfl, rfl⟩
  refine ⟨handing_stopped _ _, map4_of (by decide +kernel) (by decide +kernel) rfl rfl, r, h, ?_, ?_, i5, fun _ _ _ _ _ => List.not_mem_nil, ?_⟩
  · rw [i2]; exact pick0 (by decide +kernel) rfl
  · rw [i4]; rfl
  · rw [i1, i2, i3]
    refine ⟨by decide +kernel, acceptedM.get acceptedM_some, someOf acceptedM_some, by decide +kernel, idle_queue (by decide +kernel) _ _⟩
/-- O42: a hand-over accepted at tier C. -/
theorem witness_TierManagerActs_tierC :
    let s := handing 262464 2
    let b := handed 262464 2
    Stopped s 512 b (pending 2) ∧ tmapOf s b.kick.tenant b.kick.desc.tmap = some map4
      ∧ ∃ r, readRecord s b.kick = some r ∧ tierEnt s map4 r.pickFirst = some 0 ∧ Tier.seq 0 = r.seq ∧ r.kobj = b.kick.kobj
        ∧ NoStall s map4 r.pickFirst r.pickCount
        ∧ (kickKernel s b.kick).bind (fun x => afterClimbpt s b.kick.tenant x.1 r.cpid) = some 1
        ∧ ∃ s1 l p, chargeAccept s b.kick map4 2 ((List.range r.pickCount).map (· + r.pickFirst)) = some s1 ∧ recordLaunch s1 b.kick = some l
          ∧ placeRecord s1 l = some p := by
  obtain ⟨r, h, i1, i2, i3, i4, i5⟩ := record_read (s := handing 262464 2) (k := (handed 262464 2).kick) (by decide +kernel) rfl ⟨rfl, rfl⟩
  refine ⟨handing_stopped _ _, map4_of (by decide +kernel) (by decide +kernel) rfl rfl, r, h, ?_, ?_, i5, fun _ _ _ _ _ => List.not_mem_nil, ?_⟩
  · rw [i2]; exact pick0 (by decide +kernel) rfl
  · rw [i4]; rfl
  · rw [i1, i2, i3]
    exact ⟨bind_after handing_kernel handing_after, acceptedC.get acceptedC_some, launchC, ⟨0, 1⟩, someOf acceptedC_some, acceptedC_launch, acceptedC_place⟩
/-- O42: a hand-over whose record is stale; one out of time. -/
theorem witness_TierManagerActs_fails :
    (let s := handing 262448 1
     let b := handed 262448 1
     Stopped s 512 b (pending 1) ∧ tmapOf s b.kick.tenant b.kick.desc.tmap = some map4
       ∧ ∃ r, readRecord s b.kick = some r ∧ tierEnt s map4 r.pickFirst = some 0 ∧ Tier.seq 0 ≠ r.seq)
    ∧ (pending 1).since + 30000 ≤ tstampOf (handing 262464 1) := by
  obtain ⟨r, h, i2, i4⟩ := record_read_stale (s := handing 262448 1) (k := (handed 262448 1).kick) (by decide +kernel) rfl ⟨rfl, rfl⟩
  refine ⟨⟨handing_stopped _ _, map4_of (by decide +kernel) (by decide +kernel) rfl rfl, r, h, ?_, fun e => i4 e.symm⟩, by decide⟩
  rw [i2]; exact pick0 (by decide +kernel) rfl
/-- A body that waits for the repair of pick 0, with a climb point behind it or none. -/
def repaired : State := { handing 262464 1 with away := [(handed 262464 1, .repair 0)] }
def unclimbed : Body := { handed 262464 1 with climbAt := none }
def repairedNew : State := { handing 262464 1 with away := [(unclimbed, .repair 0)] }
/-- O42: a repair, for a body that began no climb point. -/
theorem witness_TierManagerActs_repair_new :
    tmapOf repairedNew 0 4 = some map4 ∧ tierEnt repairedNew map4 0 = some 0 ∧ Tier.state 0 = 0 ∧ Tier.hed 0 ≤ 1
      ∧ repairedNew.away = [(unclimbed, .repair 0)] ∧ unclimbed.kick.tenant = 0 ∧ unclimbed.kick.desc.tmap = 4 ∧ unclimbed.climbAt = none
      ∧ (ndOf repairedNew (decide (Tier.hed 0 = 1)) (homeUnit repairedNew unclimbed.kick (decide (Tier.hed 0 = 1)) unclimbed.kick.desc.pickFirst)).queue.length < 64 :=
  ⟨map4_of (by decide +kernel) (by decide +kernel) rfl rfl, pick0 (by decide +kernel) rfl, rfl, by decide, rfl, rfl, rfl, rfl, idle_queue ⟨rfl, rfl⟩ _ _⟩
/-- O42: a repair. -/
theorem witness_TierManagerActs_repair :
    tmapOf repaired 0 4 = some map4 ∧ tierEnt repaired map4 0 = some 0 ∧ Tier.state 0 = 0 ∧ Tier.hed 0 ≤ 1
      ∧ repaired.away = [(handed 262464 1, .repair 0)] ∧ (handed 262464 1).kick.tenant = 0 ∧ (handed 262464 1).kick.desc.tmap = 4 ∧ (handed 262464 1).climbAt ≠ none
      ∧ ∃ r, readRecord repaired (handed 262464 1).kick = some r ∧ climbWord repaired (handed 262464 1).kick (decide (Tier.hed 0 = 1)) r.cpid = some 0
        ∧ (ndOf repaired (decide (Tier.hed 0 = 1)) (homeUnit repaired (handed 262464 1).kick (decide (Tier.hed 0 = 1)) r.pickFirst)).queue.length < 64 := by
  obtain ⟨r, h, i1, -⟩ := record_read (s := repaired) (k := (handed 262464 1).kick) (by decide +kernel) rfl ⟨rfl, rfl⟩
  exact ⟨map4_of (by decide +kernel) (by decide +kernel) rfl rfl, pick0 (by decide +kernel) rfl, rfl, by decide, rfl, rfl, rfl, (fun e => nomatch e), r, h,
    by rw [i1]; decide +kernel, idle_queue ⟨rfl, rfl⟩ _ _⟩

/-! ### Witnesses: the scheduler and gangs -/

/-- A launch queue of the management function with one record at its head; a task sub-queue of tenant 0 with one task, whose one dependence
is that the counter has reached n; the clock at 2,500,000 cycles. -/
def queueA (q : Nat) (el : Bool) : LQueue := { fn := 0, q := q, base := 983040, eligible := el }
def queueT (el : Bool) : LQueue := { fn := 1, q := 65, eligible := el }
def taskBytes (n : Nat) : List Byte :=
  [5, 0, 0, 0, 0, 1, 1, 0] ++ List.replicate 8 0 ++ [1, 1, 1, 0] ++ List.replicate 12 0 ++ [6, 0, 7, 0, 7, 0, 0, 0, 1] ++ List.replicate 7 0
    ++ [BitVec.ofNat 8 n] ++ List.replicate 15 0
def queued (q : Nat) (el : Bool) (n : Nat) : State :=
  { user with
    ctxs := [{ tenant0 with tasks := [{ bytes := taskBytes n, band := 1, l1 := 0, deadline := 0 }] }]
    loom := { queues := [queueA q el, queueT el] }
    cycles := 2500000 }
def levelOne : List Level := [{ domain := 1, scope := 1, extent := 1 }]
def recordA : LRec :=
  { kobj := 5, tenant := 0, band := 1, levels := levelOne, deps := [], l1 := 0, deadline := 0, argVa := 0, save := 6, compl := 7, incr := 1,
    resv := [0, 0, 0, 0, 0], wf := true }
def recordT (n : Nat) : LRec :=
  { kobj := 5, tenant := 0, band := 1, levels := levelOne, deps := [(7, n)], l1 := 0, deadline := 0, argVa := 0, save := 6, compl := 7, incr := 1,
    wf := true }
theorem objects {s : State} (w : walkHome s 0 327680 = some 59) (m : s.mem.home = image) (o : (ctxOf s 0).objBase.toNat = 327680) :
    plainObj s 0 5 6 64 = some (entry 5) ∧ plainObj s 0 6 7 0 = some (entry 6) ∧ counterObj s 0 7 = some (entry 7) := by
  have p {i type n : Nat} (lt : i < 8) (u : (Obj.usable (entry i) = true ∧ Obj.type (entry i) = type ∧ Obj.format (entry i) = 0xFF ∧ n ≤ Obj.size (entry i))) :
      plainObj s 0 i type n = some (entry i) := by
    unfold plainObj
    rw [entry_fresh w m o lt, if_neg (by omega)]
    exact if_pos u
  refine ⟨p (by decide) (by decide +kernel), p (by decide) (by decide +kernel), ?_⟩
  unfold counterObj
  rw [p (by decide) (by decide +kernel)]
  exact if_pos (by decide +kernel)
theorem makes {s : State} (w : walkHome s 0 327680 = some 59) (w' : walkHome s 0 786432 = some 59) (m : s.mem.home = image)
    (o : (ctxOf s 0).objBase.toNat = 327680) (n : Nat) :
    (∃ l, makeLaunch s 0 16 0 false recordA = some l ∧ l.resv = []) ∧ ∃ l, makeLaunch s 1 65 0 true (recordT n) = some l ∧ l.resv = [] := by
  obtain ⟨a, b, c⟩ := objects w m o
  have h : kernHeader s 0 5 (entry 5) = some (kern5, memRead image 786432 64) := by
    unfold kernHeader
    rw [show Obj.base (entry 5) = 786432 by decide +kernel, image_read w' m (by decide) (by decide) (by decide), header5]
    decide +kernel
  have z : (List.range (natOfBytes (((memRead image 786432 64).drop 41).take 1))) = [] ∧
      (List.range (natOfBytes (((memRead image 786432 64).drop 42).take 2))) = [] := by rw [header5]; decide +kernel
  have hd : natOfBytes (((memRead image 786432 64).drop 33).take 1) = 0 := by rw [header5]; decide +kernel
  have k : kernHeaderOk kern5 (memRead image 786432 64) (Obj.size (entry 5)) = true ∧ Obj.right (entry 5) 0 = true ∧ 224512 ≤ Obj.size (entry 6) := by
    rw [header5]; decide +kernel
  have maps : kernMaps s 0 kern5 = [] := rfl
  have slots : ∀ l : Launch, l.levels = levelOne → l.l1 = 0 → l.qcws = [] → l.regions = [] → someSlots l = true ∧ saveBytes l = 224512 := by
    intro l e1 e2 e3 e4
    unfold someSlots saveBytes
    rw [e1, e2, e3, e4]
    decide +kernel
  have f (i : Nat) : recordA.flag i = false ∧ (recordT n).flag i = false := by
    have : 0 / 2 ^ i % 2 = 0 := by rw [Nat.zero_div]
    constructor <;> exact decide_eq_false (by show ¬ 0 / 2 ^ i % 2 = 1; omega)
  have lv : levelsOk levelOne = true := by decide
  constructor
  · unfold makeLaunch
    rw [if_neg (by decide)]
    simp only [show recordA.tenant = 0 from rfl, show recordA.kobj = 5 from rfl, show recordA.save = 6 from rfl, show recordA.compl = 7 from rfl, a, b, c, h]
    rw [if_pos ?_]
    · exact ⟨_, rfl, rfl⟩
    · simp only [maps, kernRegions, kernQcws, z.1, z.2, List.filterMap_nil, f, hd, k.1, k.2.1, show recordA.levels = levelOne from rfl, show recordA.deps = [] from rfl]
      rw [(slots _ rfl rfl rfl rfl).1, (slots _ rfl rfl rfl rfl).2]
      simp [k.2.2]
  · unfold makeLaunch
    rw [if_neg (by simp only [f, show (recordT n).wf = true from rfl, show (recordT n).levels = levelOne from rfl, lv, show (recordT n).tenant = 0 from rfl]; decide)]
    simp only [show (recordT n).tenant = 0 from rfl, show (recordT n).kobj = 5 from rfl, show (recordT n).save = 6 from rfl, show (recordT n).compl = 7 from rfl, a, b, c, h]
    rw [if_pos ?_]
    · exact ⟨_, rfl, by simp [(f 2).2]⟩
    · simp only [maps, kernRegions, kernQcws, z.1, z.2, List.filterMap_nil, f, hd, k.1, k.2.1, show (recordT n).levels = levelOne from rfl, show (recordT n).deps = [(7, n)] from rfl]
      rw [(slots _ rfl rfl rfl rfl).1, (slots _ rfl rfl rfl rfl).2]
      simp [k.2.2, c]
theorem head_record {s : State} {x : LQueue} (m : s.mem.home = image) (i : x.fn = 0 ∧ x.q < 64 ∧ x.base = 983040) :
    queueHeader s x = some (16, 0, 1) ∧ headRecord s x = some (recordA, 0) := by
  have a : memNat image 983040 4 = 16 ∧ memNat image (983040 + 4) 4 = 0 ∧ memNat image (983040 + 8) 4 = 1 := by decide +kernel
  have b : memRead image (983040 + 64 + 256 * (0 % 16)) 256 = [5, 0, 0, 1, 0, 1] ++ List.replicate 26 0 ++ [6, 0, 7, 0, 0, 0, 0, 0, 1, 0, 0, 0, 0, 0, 0, 0, 1, 1, 1]
      ++ List.replicate 205 0 := by decide +kernel
  have r : parseLaunch (memRead image (983040 + 64 + 256 * (0 % 16)) 256) = recordA := by rw [b]; decide +kernel
  have q : queueHeader s x = some (16, 0, 1) := by
    simp only [queueHeader, fnNat, i.1, i.2.2, if_true, m, a.1, a.2.1, a.2.2]
  have n : isTaskQueue x = false := decide_eq_false (by omega)
  refine ⟨q, ?_⟩
  simp only [headRecord, n, q, fnBytes, i.1, i.2.2, m, if_true, Option.map, r]
  rfl
theorem depends {s : State} (w : walkHome s 0 327680 = some 59) (w' : walkHome s 0 917504 = some 59) (m : s.mem.home = image)
    (o : (ctxOf s 0).objBase.toNat = 327680) (n : Nat) : depsMet s 0 [(7, n)] = decide (n = 0) := by
  have e : memNat image (leafAddr 59 917504) 8 = 0 := by decide +kernel
  have v : homeNat s 0 917504 8 = some 0 := by
    simp only [homeNat, homeOf, w', show leafHost 59 = false by decide]
    rw [m]
    exact congrArg some e
  simp [depsMet, (objects w m o).2.2, show Obj.base (entry 7) = 917504 by decide +kernel, v]

/-- O43: doorbells within the ring and past it; a head that is eligible and passes, one of another band; a task; heads to be rechecked, met and
not; a head of band 2 that has waited 1,000,000 ticks. -/
theorem witness_QueuesAdmit :
    (let s := queued 16 true 0
     queueOf s 0 16 = some (queueA 16 true) ∧ fnStopped s 0 = false ∧ queueHeader s (queueA 16 true) = some (16, 0, 1)
       ∧ ((1 + 2 ^ 32 - 0) % 2 ^ 32 ≤ ((16#64).toNat % 2 ^ 32 + 2 ^ 32 - 0) % 2 ^ 32 ∧ ((16#64).toNat % 2 ^ 32 + 2 ^ 32 - 0) % 2 ^ 32 ≤ 16)
       ∧ ¬ ((1 + 2 ^ 32 - 0) % 2 ^ 32 ≤ ((17#64).toNat % 2 ^ 32 + 2 ^ 32 - 0) % 2 ^ 32 ∧ ((17#64).toNat % 2 ^ 32 + 2 ^ 32 - 0) % 2 ^ 32 ≤ 16)
       ∧ headLaunch s 0 16 = none ∧ headRecord s (queueA 16 true) = some (recordA, 0) ∧ recordA.band = 16 / 16
       ∧ ∃ l, makeLaunch s 0 16 0 false recordA = some l ∧ ∃ s1, chargeReservation s l = some s1)
    ∧ (let s := queued 0 true 0
       queueOf s 0 0 = some (queueA 0 true) ∧ headLaunch s 0 0 = none ∧ headRecord s (queueA 0 true) = some (recordA, 0) ∧ recordA.band ≠ 0 / 16)
    ∧ (let s := { queued 16 true 0 with loom := { queues := [queueT true] } }
       queueOf s 1 65 = some (queueT true) ∧ headLaunch s 1 65 = none ∧ headRecord s (queueT true) = some (recordT 0, 0)
         ∧ ∃ l, makeLaunch s 1 65 0 true (recordT 0) = some l ∧ ∃ s1, chargeReservation s l = some s1)
    ∧ (∀ n < 2, let s := queued 16 false n
       queueOf s 1 65 = some (queueT false) ∧ headLaunch s 1 65 = none ∧ headRecord s (queueT false) = some (recordT n, 0)
         ∧ depsMet s (recordT n).tenant (recordT n).deps = decide (n = 0))
    ∧ (let s := queued 32 true 0
       queueOf s 0 32 = some (queueA 32 true) ∧ ageLimit s (servedBand (queueA 32 true)) = some 1000000 ∧ (queueA 32 true).since + 1000000 ≤ tstampOf s) := by
  have r {s : State} {l : Launch} (h : l.resv = []) : ∃ t, chargeReservation s l = some t := ⟨s, by unfold chargeReservation; rw [h]; rfl⟩
  refine ⟨⟨rfl, rfl, (head_record rfl ⟨rfl, by decide, rfl⟩).1, by decide, by decide, rfl, (head_record rfl ⟨rfl, by decide, rfl⟩).2, rfl, ?_⟩,
    ⟨rfl, rfl, (head_record rfl ⟨rfl, by decide, rfl⟩).2, by decide⟩,
    ⟨rfl, rfl, by decide +kernel, ?_⟩, ?_, ⟨rfl, by decide, by decide⟩⟩
  · obtain ⟨l, h, e⟩ := (makes (s := queued 16 true 0) ((walk_of rfl rfl rfl).trans user_frames.1) ((walk_of rfl rfl rfl).trans user_frames.2.1) rfl rfl 0).1
    exact ⟨l, h, r e⟩
  · obtain ⟨l, h, e⟩ := (makes (s := { queued 16 true 0 with loom := { queues := [queueT true] } }) ((walk_of rfl rfl rfl).trans user_frames.1) ((walk_of rfl rfl rfl).trans user_frames.2.1) rfl rfl 0).2
    exact ⟨l, h, r e⟩
  · intro n lt
    refine ⟨rfl, rfl, ?_, depends ((walk_of rfl rfl rfl).trans user_frames.1) ((walk_of rfl rfl rfl).trans user_frames.2.2.1) rfl rfl n⟩
    have : n = 0 ∨ n = 1 := by omega
    rcases this with rfl | rfl <;> decide +kernel

/-- An admitted launch of one team of one shuttle at the head of a queue, in a band. -/
def headOf (band q : Nat) : Launch :=
  { id := 1, fn := 0, q := q, index := 0, tenant := 0, band := band, levels := [{ domain := 1, scope := 1, extent := 1 }], kern := kern5, teams := 1, save := 6,
    compl := 7, incr := 1 }
def placing (band q : Nat) : State :=
  { user with loom := { queues := [{ fn := 0, q := q, base := 983040, eligible := true }], launches := [headOf band q] } }
/-- A paired RT launch with a share of L1: of die 0 it may take tile 0 alone, where a gang of band 1 without that share runs. -/
def crowded : State :=
  { placing 0 0 with
    loom := { (placing 0 0).loom with
      launches := [{ headOf 0 0 with l1 := 1, paired := true }]
      gangs := [gangAt [⟨0, 0⟩]]
      holds := (List.range 191).map fun t => (t + 1, 9) } }
theorem placed : (startTeam (placing 0 0) (headOf 0 0) 0).isSome = true := by decide +kernel
def drr : State :=
  modLoom (modQueue (placing 1 16) 0 16 (fun y => { y with deficit := 1 })) (fun m => { m with visit := (1, 0, 16) :: m.visit.filter fun v => v.1 ≠ 1 })
theorem placedDrr : (startTeam drr (headOf 1 16) 1).isSome = true := by decide +kernel
def ended : Launch := { headOf 1 16 with ended := 1 }
def ending : State := { placing 1 16 with loom := { launches := [ended] } }
def restored : State := returnReservation (restorePromos ending ended) ended
theorem restored_counter : counterObj restored 0 7 = some (entry 7) :=
  (objects ((walk_of (by decide +kernel) (by decide +kernel) (by decide +kernel)).trans user_frames.1) (by decide +kernel) (by decide +kernel)).2.2
/-- O44: an RT head, a head of band 1 with its deficit, a launch whose every part has ended. -/
theorem witness_TeamsPlaced :
    (let s := placing 0 0
     servedNow s = some 0 ∧ gangWaits s 0 = false ∧ earliestHead (bandHeads s 0) = some ({ fn := 0, q := 0, base := 983040, eligible := true }, headOf 0 0)
       ∧ ∃ u, startTeam s (headOf 0 0) 0 = some u)
    ∧ (let s := placing 1 16
       let x : LQueue := { fn := 0, q := 16, base := 983040, eligible := true }
       servedNow s = some 1 ∧ gangWaits s 1 = false ∧ roundFrom (bandRound s 1) ((s.loom.visit.find? fun v => v.1 = 1).map (·.2)) = [x]
         ∧ headLaunch s x.fn x.q = some (headOf 1 16) ∧ x.deficit + queueWeight s x = 1 ∧ teamTiles (headOf 1 16).levels ≤ 1
         ∧ ∃ u, startTeam drr (headOf 1 16) 1 = some u)
    ∧ (let l := ended
       let s := ending
       launchOf s 1 = some l ∧ launchDone s l = true ∧ l.deadline = 0
         ∧ l.tenant = 0 ∧ l.compl = 7 ∧ counterObj restored 0 7 = some (entry 7)) := by
  refine ⟨⟨by decide +kernel, by decide +kernel, by decide +kernel, _, someOf placed⟩, ⟨by decide +kernel, by decide +kernel, ?_, by decide +kernel, by decide +kernel, by decide, _, someOf placedDrr⟩,
    ⟨by decide +kernel, by decide +kernel, rfl, rfl, rfl, restored_counter⟩⟩
  simp [bandRound, placing, roundFrom, servedBand, queueBand, isTaskQueue]
/-- O44: an RT head without room, one victim. -/
theorem witness_TeamsPlaced_victims :
    gangWaits crowded 0 = false
      ∧ earliestHead (bandHeads crowded 0) = some ({ fn := 0, q := 0, base := 983040, eligible := true }, { headOf 0 0 with l1 := 1, paired := true })
      ∧ crowded.loom.holds.any (fun h => h.2 = 1) = false ∧ chooseVictims crowded { headOf 0 0 with l1 := 1, paired := true } = some (gangAt [⟨0, 0⟩] :: []) := by
  decide +kernel

/-- The launch of the gangs below; a gang at tile 0, stopping; one saved. -/
def gangLaunch : Launch := { id := 1, fn := 1, q := 16, index := 0, tenant := 0, band := 1, levels := [{ domain := 1, scope := 1, extent := 1 }], teams := 1, nextTeam := 1, save := 6 }
def stopping (stop : Bool) : Gang := { gangAt [⟨0, 0⟩] with state := .stopping, stop := stop }
def savedGang : Gang := { gangAt [⟨0, 0⟩] with state := .saved, places := [], saved := [{ shuttle := userShuttle }] }
def gangState (g : Gang) (l : Life) : State :=
  { with' (fun h => { h with life := l }) with loom := { gangs := [g], launches := [gangLaunch] } }
theorem resumes : (placeSides (gangState savedGang .idle) { fitOf gangLaunch [] with launch := savedGang.launch }
    (savedGroups (gangState savedGang .idle) gangLaunch savedGang) savedGang.domain savedGang.nTiles gangLaunch.paired).isSome = true := by decide +kernel
/-- O45: a running gang; a stopping one whose shuttle has stopped, for a save and for good; a saved one whose turn it is. -/
theorem witness_GangsStopAndResume :
    (gangOf (inGang [⟨0, 0⟩] []) 0 = some (gangAt [⟨0, 0⟩]) ∧ (gangAt [⟨0, 0⟩]).state = .running)
    ∧ (∀ stop, SaveReady (gangState (stopping stop) .stopped) (stopping stop) gangLaunch stop)
    ∧ (let s := gangState savedGang .idle
       gangOf s savedGang.team = some savedGang ∧ launchOf s savedGang.launch = some gangLaunch ∧ savedGang.fromRecord = false
         ∧ gangTurn s savedGang = true ∧ ∃ a b, placeSides s { fitOf gangLaunch [] with launch := savedGang.launch } (savedGroups s gangLaunch savedGang)
             savedGang.domain savedGang.nTiles gangLaunch.paired = some (a, b)) := by
  have pair {α β : Type} {x : Option (α × β)} (h : x.isSome = true) : ∃ a b, x = some (a, b) := by
    obtain ⟨⟨a, b⟩, e⟩ := Option.isSome_iff_exists.mp h
    exact ⟨a, b, e⟩
  refine ⟨by decide +kernel, ?_, by decide +kernel, by decide +kernel, rfl, by decide +kernel, pair resumes⟩
  unfold SaveReady
  intro stop
  cases stop <;> decide +kernel

/-- A block of a shuttle with no copy parked: its parts side by side. -/
def blockOf (l : List (Nat × List Byte)) : List Byte :=
  (l.take 6).flatMap (·.2) ++ List.replicate 104 0 ++ (l.drop 6).flatMap (·.2) ++ List.replicate 4096 0
/-- O45, the block of a saved shuttle. -/
theorem witness_GangsStopAndResume_block :
    let l := fixedParts user userShuttle { shuttle := userShuttle } user.tile
    (∀ k, tokCount userShuttle k < 256) ∧ (blockOf l).length = 7680 ∧ ∀ y ∈ l, ((blockOf l).drop y.1).take y.2.length = y.2 := by
  refine ⟨fun k => ?_, by decide +kernel, by decide +kernel⟩
  have z : ∀ (l : List Nat), (∀ x ∈ l, x = 0) → l.getD k 0 < 256 := by
    intro l h
    rw [List.getD_eq_getElem?_getD]
    cases e : l[k]? with
    | none => decide
    | some x => rw [h x (List.mem_of_getElem? e)]; decide
  exact z _ (by decide)
/-- O45, where the saved gang runs again: on one side, at one place, with a block to read. -/
theorem witness_GangsStopAndResume_places :
    let s := gangState savedGang .idle
    (∀ x, placeSides s { fitOf gangLaunch [] with launch := 1 } (savedGroups s gangLaunch savedGang) 1 1 false = some x →
      x.2 = [] ∧ placesOf x.1 = [⟨0, 0⟩]) ∧ (savedBlock s gangLaunch 0 { shuttle := userShuttle }).isSome = true := by
  have h : (placeSides (gangState savedGang .idle) { fitOf gangLaunch [] with launch := 1 } (savedGroups (gangState savedGang .idle) gangLaunch savedGang) 1 1
      false).map (fun x => (x.2, placesOf x.1)) = some ([], [⟨0, 0⟩]) := by decide +kernel
  refine ⟨fun x e => ?_, by decide +kernel⟩
  rw [e, Option.map_some, Option.some.injEq, Prod.mk.injEq] at h
  exact h

/-- A pair at a compare: side 1 with its g1 as said, retried or not, each with a checkpoint. -/
def pairSide (p : Place) (g1 : Word) (retried : Bool) : Shuttle :=
  { userShuttle with place := p, paired := true, compareDue := true, retried := retried, g := userShuttle.g.set 1 g1 }
def pairGang : Gang :=
  { gangAt [⟨0, 0⟩] with places1 := [⟨192, 0⟩], checks := [((1, 0), { shuttle := userShuttle }), ((2, 0), { shuttle := { userShuttle with place := ⟨192, 0⟩ } })] }
def pairState (g1 : Word) (retried : Bool) : State :=
  { user with
    me := pairSide ⟨0, 0⟩ 64 retried, others := [pairSide ⟨192, 0⟩ g1 retried], otherTiles := [Tile.reset 192]
    loom := { gangs := [pairGang], launches := [{ gangLaunch with paired := true }] } }
/-- O46: sides that agree, that differ, that differ again. -/
theorem witness_PairsCompare :
    ∀ x ∈ [(64, false, true), (65, false, false), (65, true, false)], let s := pairState x.1 x.2.1
      gangOf s (shuttleAt s ⟨0, 0⟩).team = some pairGang ∧ (launchOf s pairGang.launch).isSome = true ∧ s.loom.gangs = [pairGang]
        ∧ pairGang.places[(shuttleAt s ⟨0, 0⟩).ordinal]? = some ⟨0, 0⟩ ∧ pairGang.places1[(shuttleAt s ⟨0, 0⟩).ordinal]? = some ⟨192, 0⟩
        ∧ (∀ p ∈ [(⟨0, 0⟩ : Place), ⟨192, 0⟩], (shuttleAt s p).compareDue = true ∧ entriesDone (shuttleAt s p) = true)
        ∧ (checkOf pairGang 1 (shuttleAt s ⟨0, 0⟩).ordinal).isSome = true ∧ (checkOf pairGang 2 (shuttleAt s ⟨0, 0⟩).ordinal).isSome = true
        ∧ (⟨0, 0⟩ : Place) ≠ ⟨192, 0⟩ ∧ sidesAgree pairGang (shuttleAt s ⟨0, 0⟩) (shuttleAt s ⟨192, 0⟩) = x.2.2
        ∧ (shuttleAt s ⟨0, 0⟩).retried = x.2.1 ∧ pairGang.state = .running := by
  intro x m
  simp only [List.mem_cons, List.not_mem_nil, or_false] at m
  rcases m with rfl | rfl | rfl
  all_goals refine ⟨?_, ?_, ?_, ?_, ?_, ?_, ?_, ?_, ?_, ?_, ?_, ?_⟩
  all_goals decide +kernel

/-- O46, the record of a mismatch: its queue has room. -/
theorem witness_PairsCompare_record : QueueHasRoom (focus (pairState 65 true) ⟨0, 0⟩) 131072 131136 := by
  unfold QueueHasRoom; (repeat' apply And.intro) <;> decide +kernel

/-! ### Witnesses: the host and the management function -/

/-- A record, and a page request of index 3 that has been sent. -/
def someRecord : FaultRec := { code := .xlate, eng := 0, tenant := 0, obj := 0xFFFF, va := 4096, aux := 0 }
def request3 : PageReq := { addr := 8192, idx := 3, write := true, sent := true }
/-- Tenant 0's function runs; a record waits; a page request is outstanding; the scale record of the twill object's first segment: 2^2, 128 weights. -/
def hosted : State :=
  { user with
    ctxs := [{ tenant0 with tdispRun := true, waiting := [someRecord], prq := [request3], apwin := 2 * 256 }]
    mem := { home := memWrite image 589824 [2, 1] } }
/-- O47: a record that waits, on either queue; a page request; a page in no use; the registers. -/
theorem witness_HostActs_queue :
    (fqBase hosted false 0 = some 131072 ∧ fqSlot hosted false 0 131072 = some 131136 ∧ fqWaiting hosted false 0 = [someRecord] ∧ fqRoom hosted 131072 = true
        ∧ buffersTile hosted 131072 = false ∧ buffersTile hosted 131136 = false)
      ∧ (let s := { hosted with module := { hosted.module with mgmtFq := 131072, mgmtWaiting := [someRecord] } }
         fqBase s true 0 = some 131072 ∧ fqSlot s true 0 131072 = some 131136 ∧ fqWaiting s true 0 = [someRecord] ∧ fqRoom s 131072 = true
           ∧ buffersTile s 131072 = false ∧ buffersTile s 131136 = false)
      ∧ (ctxOf hosted 0).prq.find? (fun q => q.sent && decide (q.idx = 3)) = some request3
      ∧ (∀ h ∈ allShuttles hosted, h.tenant = 0 → usesHostPage h 2 = false)
      ∧ hosted.module.presented = true ∧ hosted.loom.firstAdmitted = false ∧ fnStopped hosted 1 = false := by
  decide +kernel
/-- O47: a stopped function; a read and a write of device memory by the management function and by a tenant's. -/
theorem witness_HostActs_access :
    fnStopped user 1 = true
      ∧ (let s := hosted
         fnStopped s 0 = false ∧ fnStopped s 1 = false
           ∧ barPieces s 0 { tenant := 0, shuttle := false, own := true } .load 131072 4 = (s, .ok [(.dev 131072, {}, 4)])
           ∧ barPieces s 0 { tenant := 0, shuttle := false, own := true } .store 131072 4 = (s, .ok [(.dev 131072, {}, 4)])) := by
  refine ⟨by decide +kernel, by decide +kernel, by decide +kernel, rfl, ?_⟩
  have g : guardedLine hosted 131072 4 = false := by decide +kernel
  unfold barPieces
  rw [if_pos rfl, if_pos (by decide), if_neg (by rw [g]; decide)]
theorem witness_HostActs_tenant :
    ∀ u ∈ [Use.load, .store], ∃ t l pol, barPieces hosted 1 { tenant := 0, shuttle := false, own := false } u 131072 4 = (t, .ok [(l, pol, 4)]) := by
  have h : ∀ u ∈ [Use.load, .store], (barPieces hosted 1 { tenant := 0, shuttle := false, own := false } u 131072 4).2.toOption
      = some [(.dev 131072, {}, 4)] := by decide +kernel
  exact fun u m => ⟨_, _, _, exceptOk (h u m)⟩
theorem witness_HostActs_aperture :
   let s := hosted
   let a := apertureOff s 1 0
   fnStopped s 1 = false ∧ ∃ u v e bs bad, objEntry s 0 (bitsOf a 63 48) = (u, some e) ∧ Obj.usable e = true ∧ useOk e .streamTw = true ∧ a % 2 = 0 ∧
      apertureWeight u { tenant := 0, shuttle := false, coded := true } e (bitsOf a 47 10) (bitsOf a 9 1) = (v, .ok (bs, bad)) := by
  have o : ∃ u, objEntry hosted 0 2 = (u, some (entry 2)) ∧ (apertureWeight u { tenant := 0, shuttle := false, coded := true } (entry 2) 0 0).2.toOption.isSome = true := ⟨_, pairEq (by decide +kernel), by decide +kernel⟩
  obtain ⟨u, e, w⟩ := o
  exact ⟨by decide +kernel, u, _, _, _, _, e, by decide +kernel, by decide +kernel, by decide +kernel, exceptOk (Option.some_get w).symm⟩

/-- The bytes of a request, and a state's ring with it, at 1,048,576, its line in the L2. -/
def reqBytes (code : Nat) (ops : List Nat) : List Byte := (bytesOf 8 code ++ ops.flatMap (bytesOf 8) ++ List.replicate 64 0).take 64
def asking (s : State) (code : Nat) (ops : List Nat) : State :=
  { s with
    mem := { s.mem with home := memWrite s.mem.home 1048576 (reqBytes code ops), l2 := [{ line := 5461, valid := lineSectors 5461 }] }
    module := { s.module with reqBase := 1048576, reqTail := 1 } }
/-- No byte is poisoned, no request complete, no copy in progress. -/
def quiet (s : State) : Bool := s.mem.poison.isEmpty && decide (s.module.reqHead = 0) && (allShuttles s).all fun h => h.copies.isEmpty
theorem request {s : State} {code : Nat} {ops : List Nat} (w : Memory.wf s.mem.home = true) (q : quiet s = true)
    (n : (reqBytes code ops).length = 64) (c : ((reqBytes code ops).headD 0).toNat = code) (z : zeroBytes (reqBytes code ops) 2 8 = true) :
    Request code (asking s code ops) (asking s code ops) (reqBytes code ops) := by
  simp only [quiet, Bool.and_eq_true, decide_eq_true_eq, List.isEmpty_iff, List.all_eq_true] at q
  have a : reqAddr (asking s code ops) = 1048576 := by simp only [reqAddr, asking, q.1.2]; decide
  refine ⟨?_, c, z, ?_, ⟨memRead (asking s code ops).mem.home 1048576 64, ?_⟩, rfl, rfl, ?_⟩
  · simp only [curReq, a]
    simp only [asking, q.1.2]
    have r := memRead_memWrite w 1048576 (reqBytes code ops)
    rw [n] at r
    exact congrArg some r
  · simp [asking, q.1.2]
  · rw [a]
    have f : l2Fill (asking s code ops) 0 true 5461 [21845, 21846] {} = (asking s code ops, true) := by
      unfold l2Fill
      rw [if_pos (by simp [asking, lineSectors])]
    have u : unitsOf 1048576 64 192 = [5461] ∧ unitsOf 1048576 64 48 = [21845, 21846] := by decide
    unfold devRead
    simp only [u.1, u.2, List.foldl_cons, List.foldl_nil, show ([21845, 21846].filter fun k => k / 4 = 5461) = [21845, 21846] by decide, f]
    simp [asking, q.1.1]
  · intro h m y k
    rw [q.2 h m] at k
    exact nomatch k
theorem image_wf : Memory.wf image = true := by decide +kernel
/-- Kernel 5 with one near-data body of tier M: line 1, one word. -/
def bodyHome : Mem := tables ++ [(327842, 12), (327849, 0x10), (327854, 6), (327855, 0x11), (327856, 0xFF), (327871, 0x80), (786432, 0x40), (786434, 12),
  (786440, 2), (786469, 1), (786472, 1), (786560, 25), (786563, 128), (786688, 1), (786692, 1), (786696, 1)]
def withBody : State := { user with mem := { home := bodyHome } }
def filled : State := { user with slots := [{ tierM := true, tierS := false, slot := 3, tenant := 0, kobj := 5, words := [0] }] }
def rolled : State := { user with mem := modPair user.mem 0 1 (fun p => { p with cur := 1, old := some 0 }) }
/-- What the host reads there, and the kernel that it finds. -/
def loading : State := asking withBody 1 [5, 0, 3]
theorem loading_walk : walkHome loading 0 327680 = some 59 ∧ walkHome loading 0 786432 = some 59 := by decide +kernel
theorem loading_read {a n : Nat} (w : walkHome loading 0 a = some 59) (h : a % 98304 + n ≤ 98304) (top : a + n ≤ 1048576) (l : leafAddr 59 a = a) :
    homeBytes loading 0 a n = some (memRead bodyHome a n) := by
  rw [homeBytes_eq w (by decide) h (by omega), l]
  exact congrArg some (memRead_memWrite_apart (by decide +kernel) _ _ _ _ (.inl top))
theorem loading_frame {a : Nat} (h : a / 98304 = 8) : walkHome loading 0 a = some 59 := by
  rw [walkHome_frame (b := 786432) (by rw [h]) (by omega) (by decide), loading_walk.2]
def loadHeader : List Byte := [0x40, 0, 12, 0, 0, 0, 0, 0, 2] ++ List.replicate 28 0 ++ [1, 0, 0, 1] ++ List.replicate 23 0
def loadKern : Kern := { obj := 5, base := 786432, codeBase := 786496, lines := 2 }
theorem bd_e : plainObj loading 0 5 6 64 = some (entry 5) := by
  unfold plainObj entryFresh
  rw [show (ctxOf loading 0).objBase.toNat + 32 * 5 = 327840 by rfl,
    loading_read (by rw [walkHome_frame (b := 327680) (by decide) (by decide) (by decide), loading_walk.1]) (by decide) (by decide) (by decide)]
  decide +kernel
theorem bd_h : kernHeader loading 0 5 (entry 5) = some (loadKern, loadHeader) := by
  unfold kernHeader
  rw [show Obj.base (entry 5) = 786432 by decide +kernel, loading_read loading_walk.2 (by decide) (by decide) (by decide)]
  decide +kernel
theorem bd_b : homeBytes loading 0 786688 16 = some [1, 0, 0, 0, 1, 0, 0, 0, 1, 0, 0, 0, 0, 0, 0, 0] := by
  rw [loading_read (loading_frame (by decide)) (by decide) (by decide) (by decide)]
  decide +kernel
theorem bd_p : peekLine loading { place := ⟨0, 0⟩, tenant := 0, kern := loadKern } 1 = some (BitVec.ofNat 512 (codeLine 4 0 true true [0])) := by
  unfold peekLine
  rw [show lineVa { place := ⟨0, 0⟩, tenant := 0, kern := loadKern } 1 = 786560 by decide,
    loading_read (loading_frame (by decide)) (by decide) (by decide) (by decide)]
  decide +kernel
theorem words_of {s : State} (p : peekLine s { place := ⟨0, 0⟩, tenant := 0, kern := loadKern } 1 = some (BitVec.ofNat 512 (codeLine 4 0 true true [0]))) :
    ndWords s { place := ⟨0, 0⟩, tenant := 0, kern := loadKern } 2 1 1 = some [(0, 1, 0)] := by
  have f : breach (BitVec.ofNat 512 (codeLine 4 0 true true [0])) 4 = false ∧ Link.slots (BitVec.ofNat 512 (codeLine 4 0 true true [0])) = 1 := by
    decide +kernel
  have n : ¬ loadKern.lines ≤ 1 := by decide
  unfold ndWords
  rw [p]
  simp only [n, f.1, f.2, if_false, Bool.false_eq_true, Nat.min_self]
  rw [if_pos (by decide)]
  decide +kernel
def loadedSlot : MSlot := { tierM := true, tierS := false, slot := 3, tenant := 0, kobj := 5, words := [0], pos := [(1, 0)] }
theorem body_of {s : State} (b : homeBytes s 0 786688 16 = some [1, 0, 0, 0, 1, 0, 0, 0, 1, 0, 0, 0, 0, 0, 0, 0])
    (w : ndWords s { place := ⟨0, 0⟩, tenant := 0, kern := loadKern } 2 1 1 = some [(0, 1, 0)]) :
    loadBody s 0 5 3 loadKern loadHeader 0 = some loadedSlot := by
  unfold loadBody
  dsimp only
  rw [show loadKern.base + natOfBytes ((loadHeader.drop 36).take 4) + 16 * 0 = 786688 by decide, b]
  dsimp only
  rw [if_neg (by decide)]
  rw [show natOfBytes (List.take 4 (List.drop 8 ([1, 0, 0, 0, 1, 0, 0, 0, 1, 0, 0, 0, 0, 0, 0, 0] : List Byte))) = 1 by decide,
    show natOfBytes (List.take 4 (List.drop 4 ([1, 0, 0, 0, 1, 0, 0, 0, 1, 0, 0, 0, 0, 0, 0, 0] : List Byte))) = 1 by decide, w]
  dsimp only
  rw [show natOfBytes (List.take 2 (List.drop 34 loadHeader)) = 0 by decide, show natOfBytes (List.take 1 (List.drop 32 loadHeader)) = 0 by decide]
  rfl
theorem bodies_of {s : State} (e : plainObj s 0 5 6 64 = some (entry 5)) (h : kernHeader s 0 5 (entry 5) = some (loadKern, loadHeader))
    (o : loadBody s 0 5 3 loadKern loadHeader 0 = some loadedSlot) : loadBodies s 0 5 3 = some [loadedSlot] := by
  have g : (loadHeader.getD 40 0).toNat = 1 := by decide
  unfold loadBodies
  rw [e]
  dsimp only
  rw [h]
  dsimp only
  rw [g, if_neg (by decide +kernel)]
  simp only [List.range_succ, List.range_zero, List.nil_append, List.foldr_cons, List.foldr_nil, o]
theorem bodies : loadBodies loading 0 5 3 = some [loadedSlot] := bodies_of bd_e bd_h (body_of bd_b (words_of bd_p))
/-- The request stands in the ring with these operands and nothing more. -/
def Asks (s : State) (code : Nat) (ops : List Nat) : Prop :=
  Request code (asking s code ops) (asking s code ops) (reqBytes code ops) ∧ Operands0 (reqBytes code ops) ops
theorem asks {s : State} {code : Nat} {ops : List Nat} (w : Memory.wf s.mem.home = true) (h : quiet s = true)
    (x : ((reqBytes code ops).length = 64 ∧ ((reqBytes code ops).headD 0).toNat = code ∧ zeroBytes (reqBytes code ops) 2 8 = true)
      ∧ (∀ i < ops.length, operand (reqBytes code ops) (i + 1) = ops.getD i 0) ∧ zeroBytes (reqBytes code ops) (8 + 8 * ops.length) 64 = true) :
    Asks s code ops :=
  ⟨request w h x.1.1 x.1.2.1 x.1.2.2, x.2⟩
/-- A load of slot 3 that was taken and waits for a kick of that slot. -/
def loadTaken : State :=
  { filled with nd := { filled.nd with queue := [{ nearKick with desc := { slot := 3 } }] }, module := { filled.module with loading := some [loadedSlot] } }
/-- O48: one request of each kind. -/
theorem witness_RequestsConfigure :
    (let s := asking withBody 1 [5, 0, 3]
     Asks withBody 1 [5, 0, 3] ∧ (∃ l, s.module.loading = none ∧ loadBodies s 0 5 3 = some l ∧ tablesHold s 3 l = true) ∧ slotBusy s 3 = false)
    ∧ (let s := asking loadTaken 1 [5, 0, 3]
       Asks loadTaken 1 [5, 0, 3] ∧ (∃ l, s.module.loading = some l ∧ tablesHold s 3 l = true) ∧ slotBusy s 3 = true)
    ∧ (let s := asking filled 2 [0, 0, 3]
       Asks filled 2 [0, 0, 3] ∧ (∃ x ∈ s.slots, x.slot = 3 ∧ x.tenant = 0) ∧ slotBusy s 3 = false)
    ∧ Asks user 3 [Config.physTiles - 2, 2, 255]
    ∧ (Asks user 4 [255, 509, 0] ∧ Asks user 4 [255, 509, 1] ∧ (pairOf user.mem 255 509).old = none)
    ∧ Asks rolled 4 [0, 1, 0] ∧ (pairOf rolled.mem 0 1).old.isSome = true
    ∧ (Asks user 5 [255, 4] ∧ zeroBytes (reqBytes 5 [255, 4]) 40 64 = true)
    ∧ Asks user 6 [0, 0, 77] := by
  exact ⟨⟨asks (by decide +kernel) (by decide +kernel) (by decide +kernel), ⟨_, rfl, bodies, by decide +kernel⟩, by decide +kernel⟩,
    ⟨asks image_wf (by decide +kernel) (by decide +kernel), ⟨_, rfl, by decide +kernel⟩, by decide +kernel⟩,
    ⟨asks image_wf (by decide +kernel) (by decide +kernel), by decide +kernel, by decide +kernel⟩, asks image_wf (by decide +kernel) (by decide +kernel),
    ⟨asks image_wf (by decide +kernel) (by decide +kernel), asks image_wf (by decide +kernel) (by decide +kernel), by decide +kernel⟩, asks image_wf (by decide +kernel) (by decide +kernel), by decide +kernel,
    ⟨asks image_wf (by decide +kernel) (by decide +kernel), by decide +kernel⟩, asks image_wf (by decide +kernel) (by decide +kernel)⟩
/-- O48: queues, aging, the stock deck, a window, a report. -/
theorem witness_RequestsConfigure_tables :
    (Asks user 7 [256, 63, 983040, 0] ∧ Asks user 7 [0, 0, 983040, 0] ∧ inDevice 983040 64 = true)
    ∧ (Asks user 7 [1, 64, 983040, 256] ∧ Asks user 7 [256, 64, 983040, 65536])
    ∧ Asks user 8 [5, 6]
    ∧ (Asks user 13 [1114112] ∧ inDevice 1114112 320 = true ∧ Clear (asking user 13 [1114112]) 1114112 320)
    ∧ (let ops := [255, 63, 7 + 255 * 2 ^ 16 + 2 ^ 24, 2 ^ 56 - 65536, 2 ^ 40]
       let r := reqBytes 14 ops
       Asks user 14 ops ∧ zeroBytes r 28 32 = true ∧ zeroBytes r 48 64 = true ∧ (r.getD 27 0).toNat < 2)
    ∧ (let r := reqBytes 15 [1114112]
       let s := asking user 15 [1114112]
       Asks user 15 [1114112] ∧ zeroBytes r 48 64 = true ∧ inDevice 1114112 (256 + Config.signatureSize) = true ∧ Clear s 1114112 256 ∧ reqAddr s + 2 ≤ 1114112) := by
  unfold Clear
  exact ⟨⟨asks image_wf (by decide +kernel) (by decide +kernel), asks image_wf (by decide +kernel) (by decide +kernel), by decide⟩,
    ⟨asks image_wf (by decide +kernel) (by decide +kernel), asks image_wf (by decide +kernel) (by decide +kernel)⟩, asks image_wf (by decide +kernel) (by decide +kernel),
    ⟨asks image_wf (by decide +kernel) (by decide +kernel), by decide +kernel, by decide +kernel⟩, ⟨asks image_wf (by decide +kernel) (by decide +kernel), by decide +kernel⟩,
    ⟨asks image_wf (by decide +kernel) (by decide +kernel), by decide +kernel⟩⟩

/-- O49: a running gang, one asked to stop that is stopping or has stopped, a saved one, a stopped one, no gang, asked for or not; a launch of a queue
that exists, and one that does not. -/
theorem witness_RequestsOnGangs :
    (∀ x ∈ [(9, GangState.running, false), (10, .running, false), (9, .stopping, true), (10, .stopping, true), (9, .stopped, true), (10, .stopped, true),
         (9, .saved, true), (10, .saved, false), (11, .stopped, false)],
       let g := { gangAt [⟨0, 0⟩] with state := x.2.1 }
       let s := { user with loom := { gangs := [g], launches := [gangLaunch] }, module := { user.module with asked := x.2.2 } }
       Asks s x.1 [0, 0] ∧ gangNamed (asking s x.1 [0, 0]) 0 0 = some g ∧ g.state = x.2.1)
    ∧ (∀ code ∈ [9, 10, 11], Asks user code [0, 0] ∧ gangNamed (asking user code [0, 0]) 0 0 = none)
    ∧ (let s := { user with loom := { launches := [gangLaunch] } }
       Asks s 12 [1, 16, 0]
         ∧ (asking s 12 [1, 16, 0]).loom.launches.find? (fun l => !l.task && decide (l.fn = 1 ∧ l.q = 16 ∧ l.index = 0)) = some gangLaunch)
    ∧ Asks user 12 [256, 63, 2 ^ 32 - 1]
    ∧ (asking user 12 [256, 63, 2 ^ 32 - 1]).loom.launches.find? (fun l => !l.task && decide (l.fn = 256 ∧ l.q = 63 ∧ l.index = 2 ^ 32 - 1)) = none := by
  refine ⟨?_, ?_, ⟨asks image_wf (by decide +kernel) (by decide +kernel), by decide +kernel⟩, asks image_wf (by decide +kernel) (by decide +kernel), by decide +kernel⟩
  · intro x m
    have b : ∀ y ∈ [9, 10, 11], _ := (by decide +kernel : ∀ y ∈ [9, 10, 11], ((reqBytes y [0, 0]).length = 64 ∧ ((reqBytes y [0, 0]).headD 0).toNat = y
      ∧ zeroBytes (reqBytes y [0, 0]) 2 8 = true) ∧ (∀ i < [0, 0].length, operand (reqBytes y [0, 0]) (i + 1) = [0, 0].getD i 0)
      ∧ zeroBytes (reqBytes y [0, 0]) (8 + 8 * [0, 0].length) 64 = true)
    simp only [List.mem_cons, List.not_mem_nil, or_false] at m
    rcases m with rfl | rfl | rfl | rfl | rfl | rfl | rfl | rfl | rfl <;>
      exact ⟨asks image_wf (by decide +kernel) (b _ (by decide)), by decide +kernel, rfl⟩
  · intro y m
    simp only [List.mem_cons, List.not_mem_nil, or_false] at m
    rcases m with rfl | rfl | rfl <;> exact ⟨asks image_wf (by decide +kernel) (by decide +kernel), by decide +kernel⟩

/-- Memory with a seal tile at a version and a generation, and its pair. -/
def sealing (m : MemSys) : State := { user with mem := m }
/-- O50: a tile to fill, and one in STATE 2; one in the MSC, clean or dirty, and one of policy keep beside another of its stack; a dirty L2 line; a
stalled seal whose next generation is armed; sweeps with one tile and two. -/
theorem witness_CachesAndSeals :
    (0 < Config.physTiles ∧ Verifies user 0 ∧ MscWay user 0 ∧ FillsPlain user 0)
    ∧ (let s := sealing { user.mem with seals := [(0, { state := 2 })] }
       Verifies s 0 ∧ MscWay s 0 ∧ mscHas s.mem 0 = false ∧ (sealMeta s.mem 0).state = 2 ∧ 5 / 128 = 0 ∧ 5 ∉ heldIn s.mem 0)
    ∧ (let s := sealing { user.mem with msc := [{ tile := 0, lines := 7, keep := true }, { tile := 8 }] }
       s.mem.msc.find? (fun x => x.tile = 0) = some { tile := 0, lines := 7, keep := true } ∧ KeptLast s { tile := 0, lines := 7, keep := true })
    ∧ (let s := sealing { user.mem with msc := [{ tile := 0, lines := 7 }] }
       s.mem.msc.find? (fun x => x.tile = 0) = some { tile := 0, lines := 7 } ∧ ¬ KeptLast s { tile := 0, lines := 7 })
    ∧ (let x : MscTile := { tile := 0, lines := 7, dirty := [1], keep := true }
       let s := sealing { user.mem with msc := [x] }
       s.mem.msc.find? (fun x => x.tile = 0) = some x ∧ ¬ KeptLast s x ∧ mscFull x = true ∧ sealTile s 0 (mscDirty x) = ((sealTile s 0 (mscDirty x)).1, true))
    ∧ (∀ p ∈ [(0, []), (1, [({ tile := 0 } : MscTile)])], let x : L2Line := { line := 0, dirty := [1], msc := p.1 }
       let s := sealing { user.mem with l2 := [x], msc := p.2 }
       NoBuffers s ∧ 0 / 32 ∉ s.mem.stalled ∧ s.mem.l2.find? (fun x => x.line = 0) = some x ∧ MscWay s (0 / 32)
         ∧ (x.msc = 1 → s.mem.msc.any (fun y => decide (y.tile = 0 / 32)) = true))
    ∧ (let s := sealing { user.mem with stalled := [0], seals := [(0, { version := 2 ^ 28 - 1 })], pairs := [{ tenant := 0, region := 0, armed := true }] }
       let l := (s.mem.msc.filter fun x => x.tile = 0).flatMap mscDirty
       NoBuffers s ∧ 0 ∈ s.mem.stalled ∧ sealTile s 0 l = ((sealTile s 0 l).1, true))
    ∧ (∀ more ∈ [[], [(1, { state := 1, owner := 1 })]],
       let s := sealing { user.mem with seals := (0, { state := 1, owner := 1 }) :: more, pairs := [{ tenant := 1, region := 0, cur := 1, old := some 0 }] }
       (pairOf s.mem 1 0).old = some 0 ∧ 0 ≠ (pairOf s.mem 1 0).cur ∧ tileAt s.mem 1 0 0 0 = true
         ∧ verifyTile s 1 true 0 = (s, true) ∧ sealUnder s 0 = ((sealUnder s 0).1, true)
         ∧ (anyAt (sealUnder s 0).1.mem 1 0 0 = false ↔ more = [])) := by
  have way {s : State} {T : Nat} (h : s.mem.msc.length < 16) : MscWay s T := .inr (Nat.lt_of_le_of_lt (List.length_filter_le _ _) h)
  unfold Verifies NoBuffers KeptLast FillsPlain
  refine ⟨⟨by decide +kernel, by decide +kernel, way (by decide), rfl⟩, ⟨by decide +kernel, way (by decide), by decide +kernel, by decide +kernel, by decide, by decide +kernel⟩,
    by decide +kernel, by decide +kernel, ⟨by decide +kernel, by decide +kernel, by decide +kernel, pairEq (by decide +kernel)⟩, fun p m => ?_,
    ⟨by decide +kernel, by decide +kernel, pairEq (by decide +kernel)⟩, ?_⟩
  · simp only [List.mem_cons, List.not_mem_nil, or_false] at m
    rcases m with rfl | rfl
    · exact ⟨by decide +kernel, by decide +kernel, rfl, way (by decide), by decide⟩
    · exact ⟨by decide +kernel, by decide +kernel, rfl, .inl rfl, fun _ => rfl⟩
  intro more m
  simp only [List.mem_cons, List.not_mem_nil, or_false] at m
  rcases m with rfl | rfl <;> exact ⟨by decide +kernel, by decide +kernel, by decide +kernel, rfl, pairEq (by decide +kernel), by decide +kernel⟩

/-- The module with some of its state changed. -/
def module' (f : Module → Module) : State := { user with module := f user.module }
/-- O51: refresh, a back-off, frames, errors in and out of their window, retraining. -/
theorem witness_StorageAndPower_storage :
    ¬ Claim.Ninth user 0
    ∧ Claim.Ninth (module' fun m => { m with owed := [(0, 0, 9)] }) 0
    ∧ owedOf (module' fun m => { m with owed := [(0, 0, 8)] }) 0 0 = 8 ∧ owedOf user 0 0 ≠ 8
    ∧ (0 < Config.physTiles / 8 ∧ 0 ∉ user.module.nandLost ∧ unitOut user false (frameUnit 0) = false ∧ stripeBroken user 0 = false
        ∧ ∀ T ∈ frameTiles 0, Verifies user T ∧ FillsPlain user T)
    ∧ (let g := ((stripeFrames (frameStripe 0).1 (frameStripe 0).2).filter fun f => f ≠ 0).headD 0
       let s := module' fun m => { m with nandLost := [g], errors := [{ unit := .nandBlock (frameUnit 0), start := 0, count := 64, faulty := true, fenced := true }] }
       0 ∉ s.module.nandLost ∧ unitOut s false (frameUnit 0) = true ∧ stripeBroken s 0 = true)
    ∧ user.module.errors.find? (fun c => c.unit = .hbmBank 0) = none
    ∧ (∀ x ∈ [(0, 1), (5 * 10 ^ 9, 64), (0, 64), (5 * 10 ^ 9, 2)],
        let c : ErrCount := { unit := .linkLane 0 0, start := x.1, count := x.2 }
        let s := { (module' fun m => { m with errors := [c] }) with cycles := 3 * 10 ^ 10 }
        s.module.errors.find? (fun c => c.unit = .linkLane 0 0) = some c ∧ c.faulty = false ∧ (c.start + errorWindow ≤ tstampOf s ↔ x.1 = 0))
    ∧ (0 ∈ (module' fun m => { m with retraining := [0] }).module.retraining
        ∧ ∀ c ∈ (module' fun m => { m with retraining := [0] }).module.errors, c.fenced = true → ∀ n, c.unit ≠ .linkLane 0 n) := by
  unfold Verifies FillsPlain Claim.Ninth
  refine ⟨by decide +kernel, by decide +kernel, by decide +kernel, by decide +kernel, ⟨by decide +kernel, by decide +kernel, by decide +kernel, by decide +kernel, by decide +kernel⟩,
    by decide +kernel, by decide +kernel, by decide +kernel, by decide +kernel, fun c m => ?_⟩
  cases m
/-- O51: a band whose response is in progress. -/
theorem witness_StorageAndPower_power :
    droopOf (module' fun m => { m with droop := [(0, 7, true)] }) 0 = some (7, true) := by decide +kernel

/-! ### Witnesses: the step, the encoding, invariants -/

theorem exceptSome {α ε : Type} {x : Except ε α} {v : α} (h : x.toOption = some v) : x = .ok v := by
  cases x <;> simp_all [Except.toOption]
/-- An outcome that is a next state. -/
theorem goesOn {o : Host.Outcome State Fault Refusal} (h : (match o with
    | .next _ => true
    | _ => false) = true) : ∃ t, o = .next t := by
  cases o <;> simp_all
/-- The sequencer with the first line in hand; with it cached; the stream engine at a `sunbind` in hand. -/
def handed0 : State := with' fun h => { h with hand := some (0, line0) }
def cached0 : State := { user with mem := { user.mem with lines := [{ tenant := 0, va := 196608, bits := line0 }] } }
def strLine : BitVec 512 := BitVec.ofNat 512 (codeLine 1 0 true true [0x40C00001000182E000000000])
def strCur : Cur := { hand := some strLine }
def strHand : State := with' fun h => { h with str := { cur := some strCur } }
/-- A near-data word in a body at one of its slots. -/
def ndWord (phase : Nat) : State :=
  { nearState true (some { nearBody with phase := phase }) with
    slots := [{ tierM := true, tierS := false, slot := 0, tenant := 0, kobj := 0, words := [0x28010000 * 2 ^ 32] }]
    module := { user.module with accept := 1 }
    cur := .nd 0 }
/-- O52: the sequencer's turn at `nop`; its line in hand, and in the cache. -/
theorem witness_StepRunsDecoded_seq :
    (Turn handed0 (.seq ⟨0, 0⟩) handed0 ∧ (∀ h ∈ allShuttles handed0, h.stores = []) ∧ At handed0 ⟨0, 0⟩ ∧ SeqReady handed0 ∧ seqLine handed0 = (handed0, .ok line0) ∧ SeqLineOk handed0 handed0.me line0
      ∧ decodeOn .seq (slotWord line0 (slotOf handed0.me.pc)) = .ok (.nop {}) ∧ privOp (unpack (slotWord line0 (slotOf handed0.me.pc))).op = false
      ∧ featureOk handed0 (unpack (slotWord line0 (slotOf handed0.me.pc))).op.toNat = true)
    ∧ handed0.me.hand = some (lineOf handed0.me.pc, line0)
    ∧ (cached0.me.hand = none ∧ ∃ x, cached0.mem.lines.find? (fun x => x.tenant = cached0.me.tenant && x.va = lineVa cached0.me (lineOf cached0.me.pc)) = some x
        ∧ peekLine cached0 cached0.me (lineOf cached0.me.pc) = some x.bits)
    ∧ (let s := { user with agenda := [.issue (.seq ⟨0, 0⟩), .event .powerOn] }
       Turn s (.seq ⟨0, 0⟩) { s with agenda := [.event .powerOn] }) := by
  have p : peekLine cached0 cached0.me 0 = some line0 := (image_lines (by decide +kernel) rfl rfl).1
  unfold Turn At SeqReady SeqLineOk
  refine ⟨⟨.inl ⟨rfl, rfl, rfl⟩, by decide +kernel, by decide +kernel, by decide +kernel, ?_, by decide +kernel, exceptSome (by decide +kernel), by decide +kernel, by decide +kernel⟩,
    by decide +kernel, ⟨by decide +kernel, _, rfl, p⟩, .inr ⟨_, rfl, rfl⟩⟩
  rfl
/-- O52: the stream engine's turn; a near-data unit's, slot by slot; a happening, and what is none. -/
theorem witness_StepRunsDecoded_others :
    (let s := { strHand with cur := .eng ⟨0, 0⟩ .str }
     let c := strCur
     Turn s (.eng ⟨0, 0⟩ .str) s ∧ chosenWith exec s ⟨0, 0⟩ .str = ⟨0, 0⟩ ∧ (∀ h ∈ allShuttles s, h.stores = [])
       ∧ (∀ j, j ≠ 0 → (shuttleAt s ⟨0, j⟩).life = .idle) ∧ At s ⟨0, 0⟩ ∧ s.me.life = .running ∧ (engOf s.me .str).cur = some c ∧ c.aborting = none
       ∧ fifoCount s.me .str < 16 ∧ parkedBehind s.me c = false ∧ c.hand = some strLine ∧ breach strLine (engCode .str) = false ∧ c.line < s.me.kern.lines ∧ Link.inter strLine = c.inter
       ∧ c.slot < Link.slots strLine ∧ decodeOn (engUnit .str) (slotWord strLine c.slot) = .ok (.sunbind { pop := 8 } 2 0)
       ∧ privOp (unpack (slotWord strLine c.slot)).op = false ∧ featureOk s (unpack (slotWord strLine c.slot)).op.toNat = true ∧ findGroup s .str = none)
    ∧ (∀ phase ∈ [1, 2, 3], let s := ndWord phase
       let b := { nearBody with phase := phase }
       let w := slotsOf ((bodyWords s b.kick).getD b.regs.word 0)
       Turn s (.nd 0) s ∧ OnUnit s 0 ∧ s.nd.body = some b ∧ b.state = .running ∧ (decodeFetch w.1).toOption = some .fnop ∧ (decodeArith w.2.1).toOption = some (.dot 1 0 0)
         ∧ (decodeWb w.2.2).toOption = some .wnop ∧ s.module.accept.getLsbD 0 = true)
    ∧ isHappening .powerOn = true ∧ isHappening (.nop {}) = false := by
  unfold Turn At OnUnit
  refine ⟨⟨.inl ⟨rfl, rfl, rfl⟩, by decide +kernel, by decide +kernel, fun j ne => ?_, by decide +kernel, by decide +kernel, rfl, rfl, by decide +kernel, rfl, rfl, by decide +kernel, by decide +kernel,
    by decide +kernel, by decide +kernel, exceptSome (by decide +kernel), by decide +kernel, by decide +kernel, ?_⟩, ?_, by decide, by decide⟩
  · have n : ¬ (⟨0, 0⟩ : Place) = ⟨0, j⟩ := fun e => ne (congrArg Place.slot e).symm
    simp [shuttleAt, strHand, with', user, userShuttle, n, State.reset]
  · decide +kernel
  · intro p m
    simp only [List.mem_cons, List.not_mem_nil, or_false] at m
    rcases m with rfl | rfl | rfl <;> exact ⟨.inl ⟨rfl, rfl, rfl⟩, by decide +kernel, rfl, rfl, by decide +kernel⟩
/-- O52: a rewrite group that begins in the engine's turn issues as a happening too. -/
theorem witness_StepRunsDecoded_group :
    let s := rewriting negAbs
    (∃ t i, readyAgent exec s (.eng ⟨0, 0⟩ .vec) = .run t i) ∧ happeningPlace .powerOn = none ∧ happeningPlace (.barWaitReturn ⟨0, 0⟩) = some ⟨0, 0⟩ := by
  have run {x : Ready} (h : (match x with
      | .run _ _ => true
      | .idle _ => false) = true) : ∃ t i, x = .run t i := by
    cases x with
    | run t i => exact ⟨t, i, rfl⟩
    | idle t => exact nomatch h
  exact ⟨run (by decide +kernel), rfl, rfl⟩
/-- O54, O55: a well-formed instruction of a tile engine and of a near-data unit; words that decode. -/
theorem witness_Encodings :
    (Instr.nop {}).wf = true ∧ isHappening (.nop {}) = false ∧ (Instr.dot 1 0 0).wf = true ∧ isHappening (.dot 1 0 0) = false
      ∧ (∃ w i, decodeWord w = .ok i) ∧ ∃ w i, decodeSlotAs .arith w = .ok i :=
  ⟨by decide, by decide, by decide, by decide, ⟨0, _, exceptSome (by decide +kernel : _ = some (.nop {}))⟩,
    ⟨0x28010000, _, exceptSome (by decide +kernel : _ = some (.dot 1 0 0))⟩⟩
/-- O57, O58: the state after reset meets both invariants and steps. -/
theorem witness_Invariants : MemoryCanonical State.reset ∧ ZeroRegister State.reset ∧ ∃ t, step State.reset = .next t := by
  unfold MemoryCanonical ZeroRegister ZeroG0
  exact ⟨by decide +kernel, by decide +kernel, goesOn (by decide +kernel)⟩
/-- O59, O60: a state with no happening due; an instruction of the sequencer that completes. -/
theorem witness_NothingStops : user.agenda = [] ∧ seqControl (.nop {}) user = some {} ∧ (∀ k, Instr.nop {} ≠ .exit k) ∧ user.tile.id = user.me.place.tile ∧ ∃ t, exec (.nop {}) user = .next t :=
  ⟨rfl, rfl, fun _ h => (by cases h), rfl, goesOn (by decide +kernel)⟩
end Sys2Proof.Tests
end

section
/-! SUPPORT. Every instruction and happening answers a next state: the shared operations first, then `exec` by its table, then `step`. -/
namespace Sys2Proof.Machine

/-- The outcome is a next state, neither a fault nor a refusal. -/
def HasNext (o : Host.Outcome State Fault Refusal) : Prop := ∃ t, o = .next t

theorem hasNext_next (s : State) : HasNext (.next s) := ⟨s, rfl⟩

theorem hasNext_ite {c : Prop} [Decidable c] {o p : Host.Outcome State Fault Refusal} (ho : HasNext o) (hp : HasNext p) :
    HasNext (if c then o else p) := by
  split
  · exact ho
  · exact hp

/-! ### The shared operations -/

/-- In user mode a privileged instruction traps, which is a next state as well (R48, R92). -/
theorem privInstr_hasNext (c : Ctl) (body : State → SeqRes) (s : State) : HasNext (privInstr c body s) :=
  hasNext_ite (hasNext_next _) (hasNext_next _)

/-- A happening that ends a wait of the sequencer finds no wait, another one, or its own. -/
theorem endWait_hasNext (q : Place) (kind : Wait → Bool) (s : State) : HasNext (endWait q kind s) := by
  simp only [endWait]
  split
  · exact hasNext_ite (hasNext_next _) (hasNext_next _)
  · exact hasNext_next _

/-- An operation of VEC aborts its entry at a type that it does not have (R48, R238), else it issues. -/
theorem floatOp_hasNext (c : Ctl) (t : VType) (a : VDest) (srcs : List VSrc) (lat occ : Nat)
    (f : OvfTable → Fmt → List Nat → Nat × FpFlags) (s : State) : HasNext (floatOp c t a srcs lat occ f s) := by
  unfold floatOp
  split
  · exact hasNext_next _
  · exact hasNext_next _

theorem specialOp_hasNext (fn : SFn) (c : Ctl) (t : VType) (a : VDest) (b : VSrc) (s : State) : HasNext (specialOp fn c t a b s) :=
  hasNext_ite (hasNext_next _) (floatOp_hasNext ..)

theorem intOp_hasNext (c : Ctl) (t : VType) (a : VDest) (b x : VSrc) (f : Nat → Nat → Nat → Int) (s : State) :
    HasNext (intOp c t a b x f s) :=
  hasNext_ite (hasNext_next _) (hasNext_next _)

theorem reduce_hasNext (c : Ctl) (t : VType) (row : Bool) (a : VDest) (b : VSrc) (f : OvfTable → List Nat → Nat × FpFlags) (s : State) :
    HasNext (reduce c t row a b f s) :=
  hasNext_ite (hasNext_next _) (hasNext_next _)

theorem reducePairs_hasNext (c : Ctl) (t : VType) (row : Bool) (a b : BitVec 3) (x y : VSrc) (s : State) :
    HasNext (reducePairs c t row a b x y s) :=
  hasNext_ite (hasNext_next _) (hasNext_next _)

theorem predOp_hasNext (c : Ctl) (a : BitVec 6) (srcs : List (BitVec 6)) (f : List Bool → Bool) (s : State) :
    HasNext (predOp c a srcs f s) :=
  hasNext_ite (hasNext_next _) (hasNext_next _)

theorem execVcvt_hasNext (c : Ctl) (f t : CvtFmt) (rnd : Rnd) (a : VDest) (b : VSrc) (s : State) :
    HasNext (execVcvt c f t rnd a b s) :=
  hasNext_ite (hasNext_next _) (hasNext_next _)

theorem arithSlot_hasNext (f : Body → Except Code Body) (s : State) : HasNext (arithSlot f s) := by
  obtain ⟨_, e⟩ | ⟨_, _, _, _, e⟩ | ⟨_, _, _, _, e⟩ := arithSlot_cases f s <;> exact ⟨_, e⟩

theorem ndFloat_hasNext (x : BitVec 8) (srcs : List (BitVec 8)) (f : List Nat → Nat × FpFlags) (s : State) : HasNext (ndFloat x srcs f s) :=
  arithSlot_hasNext ..

theorem fetchSlot_hasNext (f : State → Body → State × Except NdFault Body) (s : State) : HasNext (fetchSlot f s) := by
  obtain ⟨_, e⟩ | ⟨_, _, _, _, _, e⟩ | ⟨_, _, _, _, _, e⟩ := fetchSlot_cases f s <;> exact ⟨_, e⟩

theorem wbSlot_hasNext (f : State → Body → State × Except NdFault Body) (s : State) : HasNext (wbSlot f s) := by
  obtain ⟨_, e⟩ | ⟨_, _, _, _, _, e⟩ | ⟨_, _, _, _, _, e⟩ := wbSlot_cases f s <;> exact ⟨_, e⟩

/-- A management request is left alone where none is current or its code is another's; else it waits or finishes (R411). -/
theorem mgmtReq_hasNext (code : Nat) (reserved : List Byte → Bool) (f : List Byte → State → ReqRes) (s : State) :
    HasNext (mgmtReq code reserved f s) := by
  simp only [mgmtReq]
  split
  · exact hasNext_next _
  · refine hasNext_ite (hasNext_next _) ?_
    split
    · exact hasNext_next _
    · exact hasNext_next _

/-- A token ends a wait of the sequencer, or lets an engine's instruction proceed (R27). -/
theorem execTokenAvailable_hasNext (q : Place) (w : Who) (s : State) : HasNext (execTokenAvailable q w s) := by
  cases w with
  | seq => exact endWait_hasNext ..
  | eng e =>
    simp only [execTokenAvailable]
    split
    · exact hasNext_next _
    · exact hasNext_ite (hasNext_next _) (hasNext_ite (hasNext_next _) (hasNext_ite (hasNext_next _) (hasNext_next _)))

/-! ### exec and step -/

theorem exec_hasNext (i : Instr) (s : State) : HasNext (exec i s) := by
  cases i with
  | ovfLoad | cardLoad | objsync | xlinv | sysret | ctxFence => simp only [exec]; exact privInstr_hasNext ..
  | amoFaddF32 | spawn | kick | setsr | slzput | sresume | mmaCoop | vcmp | vst | vbcast =>
    exact hasNext_ite (hasNext_next _) (hasNext_next _)
  | vadd | vsub | vmul | vfma | vfms | vnfma | vmin | vmax | vabs | vneg | vcopysign => simp only [exec]; exact floatOp_hasNext ..
  | viadd | visub | vimul | vand | vor | vxor | vshl | vshr | vsra | vimin | vimax => simp only [exec]; exact intOp_hasNext ..
  | vexp2 | vexp | vlog2 | vrcp | vrsqrt | vsqrt | vtanh => simp only [exec]; exact specialOp_hasNext ..
  | vcvt => simp only [exec]; exact execVcvt_hasNext ..
  | vredSumRow | vredSumCol | vredMaxRow | vredMaxCol => simp only [exec]; exact reduce_hasNext ..
  | vredMaxsumRow | vredMaxsumCol => simp only [exec]; exact reducePairs_hasNext ..
  | vpand | vpor | vpxor | vpnot => simp only [exec]; exact predOp_hasNext ..
  | fnop | fld | fldp | fnext | frec => simp only [exec]; exact fetchSlot_hasNext ..
  | ndNop | ndMov | imm | cvt | dot | twd | b16x | reed | rflush => simp only [exec]; exact arithSlot_hasNext ..
  | abs | neg | ndAdd | ndSub | ndMul | fma | ndMax | ndMin | ndCmp | sel | iadd | exp2 | rcp => simp only [exec]; exact ndFloat_hasNext ..
  | wnop | wst | wacc | wmb | wrec => simp only [exec]; exact wbSlot_hasNext ..
  | barWaitReturn | tagWaitReturn | commandQueueRoom | fifoElementArrival => simp only [exec]; exact endWait_hasNext ..
  | tokenAvailable => simp only [exec]; exact execTokenAvailable_hasNext ..
  | loadMicrocodeSlot | freeMicrocodeSlot | assignSealTiles | armNextGeneration | readQuotaRecord | writeQuotaRecord | setQueue
  | setAgingThresholds | preemptGang | stopGang | resumeStoppedGang | endLaunch | copyStockDeck | writeFabricWindow
  | attestationReport => simp only [exec]; exact mgmtReq_hasNext ..
  -- The happenings with branches, in the order of the spec's parts: one that finds nothing to act on leaves the state, and every other
  -- branch writes its next state out, so that the branches are all there is to look at.
  | streamFetch | streamBlockFetched | outputBlockWrite | outputWritePerformed | copySectorIssue | copySectorDone | stwencEncodeDone
  | atsTranslationComplete | promotionComplete | coopMatch | coopPartnerTimeout | rewriteGroupIssue | entryStart | resultLands
  | modeCrossingDeadlock | entryWatchdog | kickBodyStart | climbCheck | bodyComplete | zoneContribution | remoteStoreArrival
  | remoteStoreAck | releaseFlagSend | releaseFlagApply | releaseFlagAck | linkRecovery | scheduleEntryDue | handoverAccept
  | handoverAcceptTimeout | repairObserved | doorbellWrite | launchAdmit | taskAdmit | dependenceRecheck | headAging | teamPlace
  | rtPreempt | completionIncrement | gangResume | pairedCompare | prgResponse | atsInvalidation | apertureRead | apertureWrite
  | hostBarAccess | acceptWrite | registerWrite | tdispStateChange | mscEvict | sealRetry | resealSweepStep | perBankRefreshDue
  | alertBackoff | nandFrameRead | laneRetrainDone | droopAlarm | droopResponseEnd | seqAccessPerformed =>
    simp only [exec, execStreamFetch, execStreamBlockFetched, execOutputBlockWrite, execOutputWritePerformed, execCopySectorIssue,
      execCopySectorDone, execStwencEncodeDone, execAtsTranslationComplete, execPromotionComplete, execCoopMatch, execCoopPartnerTimeout,
      execRewriteGroupIssue, execEntryStart, execResultLands, execModeCrossingDeadlock, execEntryWatchdog, execKickBodyStart,
      execClimbCheck, execBodyComplete, execZoneContribution, execRemoteStoreArrival, execRemoteStoreAck, execReleaseFlagSend,
      execReleaseFlagApply, execReleaseFlagAck, execLinkRecovery, execScheduleEntryDue, execHandoverAccept, execHandoverAcceptTimeout,
      execRepairObserved, execDoorbellWrite, execLaunchAdmit, execTaskAdmit, execDependenceRecheck, execHeadAging, execTeamPlace,
      execRtPreempt, execCompletionIncrement, execGangResume, execPairedCompare, execPrgResponse, execAtsInvalidation, execApertureRead,
      execApertureWrite, execHostBarAccess, execAcceptWrite, execRegisterWrite, execTdispStateChange, execMscEvict, execSealRetry,
      execResealSweepStep, execPerBankRefreshDue, execAlertBackoff, execNandFrameRead, execLaneRetrainDone, execDroopAlarm,
      execDroopResponseEnd, execSeqAccessPerformed]
    repeat' split
    all_goals exact hasNext_next _
  -- The other arms are one call of their unit's shared operation, or write their next state out.
  | _ => exact hasNext_next _

theorem runReady_hasNext (r : Ready) : HasNext (runReady r) := by
  cases r with
  | idle s => exact hasNext_next s
  | run s i => exact exec_hasNext i s

/-- A step stops at no head of the agenda but an event that is no happening. -/
theorem step_hasNext (s : State) (h : ∀ i rest, s.agenda = .event i :: rest → isHappening i = true) : HasNext (step s) := by
  unfold step
  split
  · exact runReady_hasNext _
  · exact runReady_hasNext _
  next i rest e =>
    rw [if_pos (h i rest e)]
    exact runReady_hasNext _

/-- Settles O59: `exec` by its table, `step` by the head of the agenda. -/
theorem nothingStops : Obligations.NothingStops :=
  ⟨exec_hasNext, step_hasNext⟩

end Sys2Proof.Machine
end

section
/-! SUPPORT. How a SEQ instruction ends whose body is done: its PUSH, its pc and clock, and its result of variable latency (R8, R20, R23,
R41, R91). -/
namespace Sys2Proof.Machine
open Sys2Proof.Claim

/-! ### The PUSH -/

theorem push_eq_zero_iff (c : Ctl) : c.push = 0 ↔ c.push.toNat = 0 := by
  rw [← BitVec.toNat_inj]; rfl

/-- No token goes with a result where the instruction owes none. -/
theorem map_push_of_owes_none {h : Shuttle} {at' : Nat} (o : owesResult h at' = false) (q : Nat) :
    (h.pend.map fun x => if x.issue = at' then { x with push := q } else x) = h.pend := by
  refine (List.map_congr_left fun x hx => if_neg fun e => ?_).trans h.pend.map_id'
  exact Bool.false_ne_true (o.symm.trans (List.any_eq_true.mpr ⟨x, hx, decide_eq_true e⟩))

/-- Noting a token with a result leaves the cycles in which the results were issued. -/
theorem owesResult_map_push (h : Shuttle) (at' q : Nat) :
    owesResult { h with pend := h.pend.map fun x => if x.issue = at' then { x with push := q } else x } at' = owesResult h at' := by
  unfold owesResult
  rw [List.any_map]
  congr 1
  funext x
  dsimp only [Function.comp]
  split <;> rfl

/-- The PUSH of an instruction, from a shuttle with the tokens and the pending results of the one in which it issued. -/
theorem pushTo_done {c : Ctl} {h k : Shuttle} (tok : k.tok = h.tok) (vdue : k.vdue = h.vdue) (pend : k.pend = h.pend) (wait : k.wait = none) :
    let t := pushTo k c.push.toNat h.clock
    PushDone c (owesResult t h.clock) h t ∧ t.pend = pendsAfter c h h.pend := by
  intro t
  have same : tokCount k c.push.toNat = tokCount h c.push.toNat := by simp only [tokCount, tok]
  have due : pushesDue k c.push.toNat = pushesDue h c.push.toNat := by simp only [pushesDue, vdue, pend]
  have cases := pushTo_cases k c.push.toNat h.clock
  simp only [same, due] at cases
  simp only [PushDone, pendsAfter, push_eq_zero_iff, ← pend]
  rcases cases with ⟨z, e⟩ | ⟨z, few, none_owed, e⟩ | ⟨z, few, owed, e⟩ | ⟨z, full, e⟩
  · simp only [t, e, z, true_or, if_true]
    exact ⟨⟨tok, wait⟩, trivial⟩
  · have owes : owesResult t h.clock = false := by rw [← none_owed]; simp only [t, e]; rfl
    have no_token := map_push_of_owes_none none_owed c.push.toNat
    rw [if_neg z, if_neg (by omega), owes, if_neg Bool.false_ne_true, if_neg (by omega), no_token]
    simp only [t, e]
    exact ⟨⟨by rw [setTok, tok], wait⟩, rfl⟩
  · have owes : owesResult t h.clock = true := by
      rw [← owed, ← owesResult_map_push k h.clock c.push.toNat]
      simp only [t, e]
    rw [if_neg z, if_neg (by omega), owes, if_pos rfl, if_neg (by omega)]
    simp only [t, e]
    exact ⟨⟨tok, wait⟩, trivial⟩
  · have owes : owesResult t h.clock = owesResult k h.clock := by simp only [t, e]; rfl
    have stays : c.push.toNat = 0 ∨ 15 ≤ tokCount h c.push.toNat + pushesDue h c.push.toNat := .inr full
    rw [if_neg z, if_pos full, if_pos stays, owes]
    simp only [t, e]
    exact ⟨⟨tok, trivial⟩, trivial⟩

/-! ### The pc and the clock -/

/-- The step of the pc depends on the pc, the line in hand and the delay slots left alone. -/
theorem stepPc_congr {h k : Shuttle} (pc : k.pc = h.pc) (hand : k.hand = h.hand) (delay : k.delay = h.delay) :
    (stepPc k).pc = (stepPc h).pc ∧ (stepPc k).delay = (stepPc h).delay := by
  have next : nextPc k = nextPc h := by simp only [nextPc, pc, hand]
  cases d : h.delay with
  | none => simp [stepPc, delay, d, next]
  | some x => simp only [stepPc, delay, d, next]; split <;> exact ⟨rfl, rfl⟩

/-- A shuttle at the end of a SEQ instruction, its PUSH not yet done (R23, R41). -/
def beforePush (c : Ctl) (occ : Nat) (h : Shuttle) : Shuttle :=
  { stepPc h with clock := h.clock + occ + (if exposed h then c.sched.toNat else 0), popped := false, wait := none, compareOk := false }

theorem beforePush_only (c : Ctl) (occ : Nat) (h : Shuttle) :
    beforePush c occ h = { h with pc := (stepPc h).pc, delay := (stepPc h).delay,
                                  clock := h.clock + occ + (if exposed h then c.sched.toNat else 0),
                                  popped := false, wait := none, compareOk := false } := by
  unfold beforePush
  rw [stepPc_only h]

@[simp] theorem stepPc_clock (h : Shuttle) : (stepPc h).clock = h.clock := by rw [stepPc_only]
@[simp] theorem exposed_stepPc (h : Shuttle) : exposed (stepPc h) = exposed h := by
  unfold exposed
  rw [show (stepPc h).hand = h.hand by rw [stepPc_only]]

theorem finishSeq_me (s : State) (c : Ctl) (occ : Nat) :
    (finishSeq s c occ).me = pushTo (beforePush c occ s.me) c.push.toNat s.me.clock := by
  simp only [finishSeq, endSeq, beforePush, modMe_me, tickTo_me, stepPc_clock, exposed_stepPc]

/-- What the end of a SEQ instruction fixes, from the shuttle as it issued, where its body has changed only what the end does not read. -/
theorem finishSeq_ended {s : State} {c : Ctl} {occ : Nat} {h : Shuttle} (pc : s.me.pc = h.pc) (hand : s.me.hand = h.hand)
    (delay : s.me.delay = h.delay) (clock : s.me.clock = h.clock) (tok : s.me.tok = h.tok) (vdue : s.me.vdue = h.vdue)
    (pend : s.me.pend = h.pend) :
    Ended c occ h (finishSeq s c occ).me ∧ (finishSeq s c occ).me.pend = pendsAfter c h h.pend := by
  have only := pushTo_only (beforePush c occ s.me) c.push.toNat h.clock
  obtain ⟨pushed, pends⟩ := pushTo_done (c := c) (h := h) (k := beforePush c occ s.me) (by rw [beforePush_only]; exact tok)
    (by rw [beforePush_only]; exact vdue) (by rw [beforePush_only]; exact pend) rfl
  obtain ⟨pcs, delays⟩ := stepPc_congr pc hand delay
  have line : exposed s.me = exposed h := by simp only [exposed, hand]
  rw [finishSeq_me, clock]
  refine ⟨⟨?_, ?_, ?_, ?_, pushed⟩, pends⟩ <;> rw [only]
  · exact pcs
  · exact delays
  · simp only [beforePush, clock, line]
  · rfl

/-- The end of a SEQ instruction leaves the registers and the results that may be overtaken. -/
theorem finishSeq_regs (s : State) (c : Ctl) (occ : Nat) :
    (finishSeq s c occ).me.g = s.me.g ∧ (finishSeq s c occ).me.p = s.me.p ∧ (finishSeq s c occ).me.late = s.me.late := by
  rw [finishSeq_me, pushTo_only, beforePush_only]
  exact ⟨rfl, rfl, rfl⟩

/-! ### A result of variable latency (R91) -/

/-- Where no earlier result for its destination can land after it, a result of variable latency is written, and in an exposed line noted
as one that may land late. -/
theorem setVariable_noneEarlier {s : State} {d : SeqDest} (v : Word) (h : NoneEarlier d s.me) :
    setVariable s d v = { s with me := { setDest s.me d v with late := if exposed s.me then d :: s.me.late else s.me.late } } := by
  obtain ⟨nonePending, notOvertaken⟩ := h
  have none_same : s.me.pend.any (fun q => q.dest = d) = false := by
    simpa using nonePending
  have late : (setDest s.me d v).late = s.me.late := by rw [setDest_only]
  unfold Overtaken at notOvertaken
  rw [setVariable, if_neg notOvertaken]
  simp only [landVariable, none_same, Bool.false_eq_true, if_false, modMe]
  by_cases e : exposed s.me = true
  · have fresh : d ∉ s.me.late := fun m => notOvertaken ⟨e, m⟩
    simp only [e, fresh, not_false_eq_true, and_self, if_true, late]
  · simp only [e, false_and, if_false, ← late, Bool.false_eq_true]

/-- A SEQ instruction whose body ends in one result of variable latency for gA gives it and ends (R20, R23, R91). -/
theorem settleRes_setVariable (c : Ctl) {s : State} {a : BitVec 5} (v : Word) (occ : Nat) (h : NonePending a s.me) :
    GivesG c a v s.me (settleRes c (.done (setVariable s (.g a) v) occ)).me
      ∧ Ended c occ s.me (settleRes c (.done (setVariable s (.g a) v) occ)).me := by
  have w := setVariable_noneEarlier v h
  generalize setVariable s (.g a) v = u at w
  have me : u.me = { setG s.me a v with late := if exposed s.me then .g a :: s.me.late else s.me.late } := by rw [w]; rfl
  obtain ⟨ended, pend⟩ := finishSeq_ended (s := u) (c := c) (occ := occ) (h := s.me) (by simp [me]) (by simp [me]) (by simp [me])
    (by simp [me]) (by simp [me]) (by simp [me]) (by simp [me])
  obtain ⟨g, p, late⟩ := finishSeq_regs u c occ
  have regs : ∀ q, getG (finishSeq u c occ).me q = if q = a ∧ a ≠ 0 then v else getG s.me q := fun q => by
    rw [← getG_setG]
    simp only [getG, g, me]
  exact ⟨⟨⟨p.trans (by simp [me]), pend, regs⟩, late.trans (by rw [me])⟩, ended⟩

/-- Such an instruction changes, besides what its body did, the shuttle in focus and the clock alone. -/
theorem settleRes_setVariable_only (c : Ctl) {s : State} {d : SeqDest} (v : Word) (occ : Nat) (h : NoneEarlier d s.me) :
    settleRes c (.done (setVariable s d v) occ)
      = { s with me := (settleRes c (.done (setVariable s d v) occ)).me, cycles := (settleRes c (.done (setVariable s d v) occ)).cycles } := by
  rw [setVariable_noneEarlier v h]
  rfl

end Sys2Proof.Machine
end

section
/-! SUPPORT. What a `spawn` leaves: the record in the tenant's tasks where there is room, nothing otherwise (R131, R392). -/
namespace Sys2Proof.Machine
open Sys2Proof.Claim

/-! ### A tenant's context after it is changed -/

theorem find?_upsert {α : Type} {test : α → Bool} {f : α → α} {new : α} (keeps : ∀ x, test (f x) = test x) (isNew : test new = true)
    (l : List α) : (upsert l test f new).find? test = some (f ((l.find? test).getD new)) := by
  induction l with
  | nil => simp [upsert, keeps, isNew]
  | cons x xs ih =>
    by_cases h : test x = true
    · simp [upsert, h, keeps]
    · simp [upsert, h, ih]

/-- A tenant's context reads as it was changed, by a change that leaves it the tenant's. -/
theorem ctxOf_modCtx {f : Ctx → Ctx} (keeps : ∀ k, (f k).tenant = k.tenant) (s : State) (t : Nat) :
    ctxOf (modCtx s t f) t = f (ctxOf s t) := by
  have found := find?_upsert (test := fun k : Ctx => decide (k.tenant = t)) (f := f) (new := { tenant := t }) (fun k => by rw [keeps])
    (decide_eq_true rfl) s.ctxs
  unfold ctxOf modCtx
  dsimp only
  rw [found]
  cases s.ctxs.find? (fun k => decide (k.tenant = t)) <;> rfl

/-! ### The effect of a spawn -/

/-- Has the queue of the tenant in focus room for a task? -/
def taskRoom (u : State) : Bool := decide ((ctxOf u u.me.tenant).tasks.length < (ctxOf u u.me.tenant).taskDepth)

/-- The task of a record, with what it takes from the spawning launch (R392). -/
def taskOf (u : State) (bs : List Byte) : Task :=
  { bytes := bs, band := u.me.band, l1 := ((launchOf u u.me.launch).map (·.l1)).getD 0,
    deadline := ((launchOf u u.me.launch).map (·.deadline)).getD 0 }

/-- A context with a task at the end of its tasks. -/
def addTask (k : Task) (x : Ctx) : Ctx := { x with tasks := x.tasks ++ [k] }

/-- The task in the tenant's tasks where there is room. -/
def withTask (u : State) (k : Task) : State := if taskRoom u then modCtx u u.me.tenant (addTask k) else u

/-- The state that a spawn whose record is read leaves, its result apart: the task, and the sub-queue of its band where the tenant has none. -/
def spawned (u : State) (bs : List Byte) : State :=
  if taskRoom u ∧ (queueOf (withTask u (taskOf u bs)) (u.me.tenant + 1) (64 + u.me.band)).isNone then
    modLoom (withTask u (taskOf u bs)) (fun m => { m with queues := m.queues ++ [{ fn := u.me.tenant + 1, q := 64 + u.me.band }] })
  else withTask u (taskOf u bs)

theorem withTask_only (u : State) (k : Task) : withTask u k = { u with ctxs := (withTask u k).ctxs } := by
  unfold withTask; split <;> rfl

/-- A spawn changes the tenant's context and the scheduler's queues, and nothing else. -/
theorem spawned_only (u : State) (bs : List Byte) :
    spawned u bs = { u with ctxs := (withTask u (taskOf u bs)).ctxs, loom := (spawned u bs).loom } := by
  have only := withTask_only u (taskOf u bs)
  unfold spawned
  generalize withTask u (taskOf u bs) = w at only ⊢
  rw [only]
  split <;> rfl

@[simp] theorem spawned_me (u : State) (bs : List Byte) : (spawned u bs).me = u.me := by rw [spawned_only]
@[simp] theorem spawned_mem (u : State) (bs : List Byte) : (spawned u bs).mem = u.mem := by rw [spawned_only]

theorem spawned_ctxs_full {u : State} (full : taskRoom u = false) (bs : List Byte) : (spawned u bs).ctxs = u.ctxs := by
  rw [spawned_only, withTask, full]
  rfl

/-- The contexts alone give a tenant's context. -/
theorem ctxOf_congr {s u : State} (h : s.ctxs = u.ctxs) (t : Nat) : ctxOf s t = ctxOf u t := by unfold ctxOf; rw [h]

theorem spawned_tasks {u : State} (room : taskRoom u = true) (bs : List Byte) :
    (ctxOf (spawned u bs) u.me.tenant).tasks = (ctxOf u u.me.tenant).tasks ++ [taskOf u bs] := by
  have ctxs : (spawned u bs).ctxs = (modCtx u u.me.tenant (addTask (taskOf u bs))).ctxs := by
    rw [spawned_only, withTask, room, if_pos rfl]
  rw [ctxOf_congr ctxs, ctxOf_modCtx (f := addTask (taskOf u bs)) fun _ => rfl]
  rfl

/-! ### The instruction -/

/-- A SEQ instruction that issues ends as its body says, from the state that the body finds. -/
theorem seqInstr_issues {c : Ctl} {s : State} (issues : Issues c s) (body : State → SeqRes) :
    seqInstr c body s = .next (settleRes c (body (start c s))) := seqInstr_runs c body s issues.1 issues.2

/-- A spawn whose record is read gives 1 where there is room and 0 where there is none. -/
theorem execSpawn_read {c : Ctl} {a b : BitVec 5} {s u : State} {bs : List Byte} (issues : Issues c s) (unpaired : s.me.paired = false)
    (aligned : (getG (reader c s) b).toNat % 64 = 0) (read : sysRead (start c s) (getG (reader c s) b).toNat 64 = (u, some (.ok bs)))
    (released : releasePending u 65535 = false) :
    exec (.spawn c a b) s = .next (settleRes c (.done (setVariable (spawned u bs) (.g a) (if taskRoom u then 1 else 0)) 1)) := by
  change execSpawn c a b s = _
  rw [execSpawn, if_neg (by simp [unpaired]), seqInstr_issues issues]
  dsimp only
  rw [if_neg (by simpa [start] using aligned), show getG (start c s).me b = getG (reader c s) b from rfl, read]
  dsimp only
  rw [released]
  rfl

/-- R131: the record is queued and 1 given, or 0 given and nothing queued. -/
theorem spawnQueues : Claim.SpawnQueues := by
  intro c a b s u bs issues unpaired aligned read released nonePending
  have free : NonePending a (spawned u bs).me := by rw [spawned_me]; exact nonePending
  refine ⟨_, execSpawn_read issues unpaired aligned read released, ?_⟩
  obtain ⟨gives, ended⟩ := settleRes_setVariable c (if taskRoom u then 1 else 0) 1 free
  have only := settleRes_setVariable_only c (if taskRoom u then (1 : Word) else 0) 1 free
  rw [spawned_me] at gives ended
  generalize settleRes c (.done (setVariable (spawned u bs) (.g a) (if taskRoom u then 1 else 0)) 1) = t at gives ended only ⊢
  have mem : t.mem = u.mem := by rw [only]; exact spawned_mem u bs
  have ctxs : t.ctxs = (spawned u bs).ctxs := by rw [only]
  refine ⟨ended, mem, ?_⟩
  by_cases room : taskRoom u = true
  · rw [if_pos (of_decide_eq_true room)]
    rw [room, if_pos rfl] at gives
    exact ⟨gives, taskOf u bs, rfl, rfl, (ctxOf_congr ctxs _ ▸ spawned_tasks room bs)⟩
  · have full : taskRoom u = false := by simpa using room
    rw [if_neg fun h => room (decide_eq_true h)]
    rw [full, if_neg Bool.false_ne_true] at gives
    exact ⟨gives, by rw [ctxs, spawned_ctxs_full full]⟩

end Sys2Proof.Machine
end

section
/-! SUPPORT. What traffic of device memory leaves unchanged: sealing, verifying, caching, walking, and posting the records of faults reach
the shuttles' copies, the contexts, memory, the HBM charges, the scheduler's reservations, the module controller and the counter of free
values; no tile, no near-data unit, no kick, no slot, no zone, no fabric, no hand-over (R300, R356, R367, R377 to R381). -/
namespace Sys2Proof.Machine

/-- Two states that differ in what traffic of device memory reaches alone. -/
def OnlyTraffic (s t : State) : Prop :=
  t = { s with fresh := t.fresh, me := t.me, others := t.others, ctxs := t.ctxs, mem := t.mem, hbm := t.hbm, loom := t.loom, module := t.module }

theorem OnlyTraffic.refl (s : State) : OnlyTraffic s s := rfl
theorem OnlyTraffic.trans {s t u : State} (h : OnlyTraffic s t) (k : OnlyTraffic t u) : OnlyTraffic s u := by
  unfold OnlyTraffic at *
  rw [k, h]
theorem OnlyTraffic.of_record {s t : State} (h : OnlyRecord s t) : OnlyTraffic s t := by
  unfold OnlyRecord OnlyTraffic at *
  rw [h]
theorem OnlyTraffic.nextKick {s t : State} (h : OnlyTraffic s t) : t.nextKick = s.nextKick := by
  rw [show t = _ from h]

/-- Traffic repeated over a list, the state beside whatever else is carried. -/
theorem OnlyTraffic.foldl_of {α β : Type} (state : β → State) {f : β → α → β} (h : ∀ b x, OnlyTraffic (state b) (state (f b x)))
    (l : List α) (b : β) : OnlyTraffic (state b) (state (l.foldl f b)) := by
  induction l generalizing b with
  | nil => exact .refl _
  | cons x l ih => exact (h b x).trans (ih (f b x))
theorem OnlyTraffic.foldl {α : Type} {f : State → α → State} (h : ∀ s x, OnlyTraffic s (f s x)) (l : List α) (s : State) :
    OnlyTraffic s (l.foldl f s) := foldl_of id h l s
theorem OnlyTraffic.ite {c : Prop} [Decidable c] {s t u : State} (ht : OnlyTraffic s t) (hu : OnlyTraffic s u) :
    OnlyTraffic s (if c then t else u) := by
  split
  · exact ht
  · exact hu
/-- The state of an operation that also answers a value. -/
theorem OnlyTraffic.fst_ite {α : Type} {c : Prop} [Decidable c] {s : State} {t u : State × α} (ht : OnlyTraffic s t.1)
    (hu : OnlyTraffic s u.1) : OnlyTraffic s (if c then t else u).1 := by
  split
  · exact ht
  · exact hu
theorem OnlyTraffic.pair {α : Type} {s t : State} (h : OnlyTraffic s t) (b : α) : OnlyTraffic s (t, b).1 := h
theorem OnlyTraffic.of_answer {α : Type} {s t : State} {r : State × α} {b : α} (h : OnlyTraffic s r.1) (e : r = (t, b)) :
    OnlyTraffic s t := by
  rw [e] at h
  exact h
theorem OnlyTraffic.elim {α : Type} {f : α → State} {s : State} (h : ∀ x, OnlyTraffic s (f x)) (o : Option α) :
    OnlyTraffic s (o.elim s f) := by
  cases o with
  | none => exact .refl s
  | some x => exact h x

/-! ### The single changes -/

theorem modMem_onlyTraffic (s : State) (f : MemSys → MemSys) : OnlyTraffic s (modMem s f) := rfl
theorem modCtx_onlyTraffic (s : State) (t : Nat) (f : Ctx → Ctx) : OnlyTraffic s (modCtx s t f) := rfl
theorem modLoom_onlyTraffic (s : State) (f : Loom → Loom) : OnlyTraffic s (modLoom s f) := rfl
theorem withMem_onlyTraffic (s : State) (m : MemSys) : OnlyTraffic s { s with mem := m } := rfl
theorem bump_onlyTraffic (s : State) : OnlyTraffic s (bump s) := rfl
theorem modShuttle_onlyTraffic (s : State) (p : Place) (f : Shuttle → Shuttle) : OnlyTraffic s (modShuttle s p f) := by
  unfold modShuttle; split <;> rfl
theorem postRec_onlyTraffic (s : State) (mgmt : Bool) (t : Nat) (r : FaultRec) : OnlyTraffic s (postRec s mgmt t r).1 :=
  .of_record (postRec_onlyRecord s mgmt t r)
theorem homePut_onlyTraffic (s : State) (t va n v : Nat) : OnlyTraffic s (homePut s t va n v) := by
  unfold homePut
  split
  · exact withMem_onlyTraffic s _
  · exact .refl s

/-! ### Seals (R377, R379) -/

theorem dropForeign_onlyTraffic (s : State) (T : Nat) (secs : List Nat) : OnlyTraffic s (dropForeign s T secs) :=
  (withMem_onlyTraffic s _).trans (.foldl (fun st _ => postRec_onlyTraffic st _ _ _) _ _)

theorem sealUnder_onlyTraffic (s : State) (T : Nat) : OnlyTraffic s (sealUnder s T).1 := by
  unfold sealUnder
  dsimp only
  refine .fst_ite (.fst_ite (.refl s) ?_) (.fst_ite ?_ (withMem_onlyTraffic s _))
  · exact .pair ((postRec_onlyTraffic s _ _ _).trans (modMem_onlyTraffic _ _)) _
  · exact .pair ((withMem_onlyTraffic s _).trans (postRec_onlyTraffic _ _ _ _)) _

theorem sealTile_onlyTraffic (s : State) (T : Nat) (secs : List Nat) : OnlyTraffic s (sealTile s T secs).1 := by
  have dropped := OnlyTraffic.ite (c := (secs.filter fun k => s.mem.foreign.any fun x => x.1 / 48 = k) = []) (.refl s)
    (dropForeign_onlyTraffic s T secs)
  unfold sealTile
  exact .fst_ite (.pair (modMem_onlyTraffic s _) _) (.fst_ite (.pair dropped _) (dropped.trans (sealUnder_onlyTraffic _ T)))

/-! ### Quotas (R323, R324) -/

theorem uncharge_onlyTraffic (s : State) (t k n : Nat) : OnlyTraffic s (uncharge s t k n) := modCtx_onlyTraffic s t _

theorem charge_onlyTraffic {s u : State} {t k n : Nat} (h : charge s t k n = some u) : OnlyTraffic s u := by
  unfold charge at h
  dsimp only at h
  split at h
  · cases h
  · cases h
    exact modCtx_onlyTraffic s t _

theorem chargeFor_onlyTraffic {s u : State} {t launch k n : Nat} (h : chargeFor s t launch k n = some u) : OnlyTraffic s u := by
  unfold chargeFor at h
  split at h
  · exact charge_onlyTraffic h
  · dsimp only at h
    split at h
    · cases h
      exact modLoom_onlyTraffic s _
    · exact (modLoom_onlyTraffic s _).trans (charge_onlyTraffic h)

theorem unchargeFor_onlyTraffic (s : State) (t launch k n : Nat) : OnlyTraffic s (unchargeFor s t launch k n) := by
  unfold unchargeFor
  split
  · exact uncharge_onlyTraffic s t k n
  · exact (modLoom_onlyTraffic s _).trans (uncharge_onlyTraffic _ t k _)

theorem dropHbm_onlyTraffic (s : State) (m : TMap) (p : Nat) : OnlyTraffic s (dropHbm s m p) := by
  unfold dropHbm
  refine OnlyTraffic.trans (t := { s with hbm := _ }) rfl (.foldl (fun st c => ?_) _ _)
  split
  · exact unchargeFor_onlyTraffic st _ _ _ _
  · exact uncharge_onlyTraffic st _ _ _

/-! ### Lost picks and verification (R326, R377, R381) -/

theorem reportLost_onlyTraffic (s : State) (tiles : List Nat) (tier : Nat) : OnlyTraffic s (reportLost s tiles tier).1 := by
  refine OnlyTraffic.foldl_of Prod.fst (fun acc m => ?_) _ (s, false)
  dsimp only
  split
  · exact .refl _
  · refine OnlyTraffic.trans (OnlyTraffic.foldl (fun st p => ?_) _ _) (postRec_onlyTraffic _ _ _ _)
    split
    · exact (OnlyTraffic.ite (dropHbm_onlyTraffic st m p) (.refl st)).trans (homePut_onlyTraffic _ _ _ _ _)
    · exact .refl st

theorem verifyTile_onlyTraffic (s : State) (t : Nat) (own : Bool) (T : Nat) : OnlyTraffic s (verifyTile s t own T).1 := by
  unfold verifyTile
  extract_lets x t' met out bad
  have metOnly : OnlyTraffic s met := modMem_onlyTraffic s _
  refine .fst_ite (.pair (postRec_onlyTraffic s _ _ _) _) ?_
  split
  · exact .pair (metOnly.trans (modMem_onlyTraffic _ _)) _
  · exact .pair (metOnly.trans (modMem_onlyTraffic _ _)) _
  next held all m1 m2 sealed _ _ _ _ =>
    have poisoned : OnlyTraffic s { met with mem := m2 } := metOnly.trans (withMem_onlyTraffic met m2)
    have sealedOnly : OnlyTraffic s sealed := .ite poisoned (poisoned.trans (sealUnder_onlyTraffic _ T))
    have reported := sealedOnly.trans (reportLost_onlyTraffic sealed [T] 1)
    exact .fst_ite (.pair reported _) (.pair (reported.trans (postRec_onlyTraffic _ _ _ _)) _)

/-! ### The memory-side cache (R356) -/

theorem mscDrop_onlyTraffic (s : State) (x : MscTile) : OnlyTraffic s (mscDrop s x) := by
  unfold mscDrop
  extract_lets drop filled
  have filledOnly : OnlyTraffic s filled := .ite (.refl s) (verifyTile_onlyTraffic s 0 true x.tile)
  have sealed := filledOnly.trans (sealTile_onlyTraffic filled x.tile (mscDirty x))
  exact .ite (modMem_onlyTraffic s _) (.ite (sealed.trans (modMem_onlyTraffic _ _)) sealed)

theorem mscFillTile_onlyTraffic (s : State) (t : Nat) (own : Bool) (T policy : Nat) (spec : Bool) :
    OnlyTraffic s (mscFillTile s t own T policy spec).1 := by
  have verified := verifyTile_onlyTraffic s t own T
  have roomMade := verified.trans (.elim (mscDrop_onlyTraffic (verifyTile s t own T).1) (mscVictim (verifyTile s t own T).1 T spec).1)
  unfold mscFillTile
  exact .fst_ite (.fst_ite (.pair (postRec_onlyTraffic s _ _ _) _) (.refl s))
    (.fst_ite (.pair verified _) (.pair (roomMade.trans (modMem_onlyTraffic _ _)) _))

theorem mscWrite_onlyTraffic (s : State) (T : Nat) (sectors whole : List Nat) (policy : Nat) :
    OnlyTraffic s (mscWrite s T sectors whole policy).1 := by
  unfold mscWrite
  extract_lets marked
  have markedOnly : ∀ st, OnlyTraffic st (marked st) := fun st => modMem_onlyTraffic st _
  refine .fst_ite ?_ (.pair ((OnlyTraffic.elim (mscDrop_onlyTraffic s) _).trans (markedOnly _)) _)
  split
  next x _ =>
    have dropped := (markedOnly s).trans (mscDrop_onlyTraffic (marked s) x)
    exact .fst_ite (.pair (dropped.trans (modMem_onlyTraffic _ _)) _) (.pair dropped _)
  · exact .refl s

/-! ### Buffers of copies, and the L2 (R288, R300, R367) -/

theorem flushBuffer_onlyTraffic (s : State) (p : Place) (tag T : Nat) : OnlyTraffic s (flushBuffer s p tag T) := by
  unfold flushBuffer
  split
  · exact .refl s
  · extract_lets mine t whole read m2
    have readOnly : OnlyTraffic s read := .ite (.refl s) (verifyTile_onlyTraffic s t false T)
    have sealed := (readOnly.trans (withMem_onlyTraffic read m2)).trans
      (sealTile_onlyTraffic { read with mem := m2 } T (mine.flatMap fun x => unitsOf (flyPa x) x.bytes.length 48))
    exact .ite (.refl s) (.ite (sealed.trans (modMem_onlyTraffic _ _)) (sealed.trans (modShuttle_onlyTraffic _ _ _)))

theorem flushTile_onlyTraffic (s : State) (T : Nat) : OnlyTraffic s (flushTile s T) :=
  .foldl (f := fun st (x : Place × Nat) => flushBuffer st x.1 x.2 T) (fun st x => flushBuffer_onlyTraffic st x.1 x.2 T) _ s

theorem writeBack_onlyTraffic (s : State) (line : Nat) : OnlyTraffic s (writeBack s line) := by
  unfold writeBack
  split
  · exact .refl s
  next x _ =>
    extract_lets flushed
    have flushedOnly : OnlyTraffic s flushed := flushTile_onlyTraffic s (line / 32)
    have written := flushedOnly.trans
      (mscWrite_onlyTraffic flushed (line / 32) x.dirty (x.dirty.filter fun k => k ∈ x.valid) x.msc)
    exact .ite (.refl s) (.ite flushedOnly (.ite (written.trans (modMem_onlyTraffic _ _)) written))

theorem l2Invalidate_onlyTraffic (s : State) (line : Nat) : OnlyTraffic s (l2Invalidate s line) :=
  (writeBack_onlyTraffic s line).trans (modMem_onlyTraffic _ _)

theorem l2Fill_onlyTraffic (s : State) (t : Nat) (own : Bool) (line : Nat) (secs : List Nat) (pol : Policy) :
    OnlyTraffic s (l2Fill s t own line secs pol).1 := by
  have filled := mscFillTile_onlyTraffic s t own (line / 32) pol.msc pol.spec
  have roomMade := filled.trans (.elim (fun x => l2Invalidate_onlyTraffic (mscFillTile s t own (line / 32) pol.msc pol.spec).1 x.line)
    (l2Victim (mscFillTile s t own (line / 32) pol.msc pol.spec).1 line pol.spec).1)
  unfold l2Fill
  exact .fst_ite (.refl s) (.fst_ite (.pair filled _) (.fst_ite (.pair (filled.trans (modMem_onlyTraffic _ _)) _)
    (.fst_ite (.pair (roomMade.trans (modMem_onlyTraffic _ _)) _) (.pair filled _))))

theorem walkThrough_onlyTraffic (s : State) (t va : Nat) : OnlyTraffic s (walkThrough s t va).1 := by
  unfold walkThrough
  exact .foldl_of Prod.fst (fun acc a => .pair (l2Fill_onlyTraffic acc.1 t false (a / 192) [a / 48] {}) _) _ (s, true)

/-! ### Bytes written at their home (R292, R300) -/

theorem endSignals_onlyTraffic (s : State) (pa n : Nat) : OnlyTraffic s (endSignals s pa n) := by
  unfold endSignals
  dsimp only
  split <;> split <;> rfl

theorem putHome_onlyTraffic (s : State) (t : Nat) (own : Bool) (pa : Nat) (bs : List Byte) (poisoned : Bool) :
    OnlyTraffic s (putHome s t own pa bs poisoned) :=
  ((endSignals_onlyTraffic s pa bs.length).trans (.foldl flushTile_onlyTraffic _ _)).trans (withMem_onlyTraffic _ _)

theorem sealNow_onlyTraffic (s : State) (T : Nat) (secs : List Nat) : OnlyTraffic s (sealNow s T secs) := by
  unfold sealNow
  split
  · exact (mscDrop_onlyTraffic s _).trans (sealTile_onlyTraffic _ T secs)
  · exact sealTile_onlyTraffic s T secs

theorem unitStore_onlyTraffic (s : State) (k : Kick) (m : Bool) (runs : List (Nat × List Byte)) : OnlyTraffic s (unitStore s k m runs) := by
  unfold unitStore
  dsimp only
  have invalid : ∀ l : List Nat, OnlyTraffic s (l.foldl l2Invalidate s) := fun l => .foldl l2Invalidate_onlyTraffic l s
  refine OnlyTraffic.trans (OnlyTraffic.trans (OnlyTraffic.trans (invalid _) (.ite (.refl _) (.foldl (fun st T => ?_) _ _)))
    (.foldl (fun st r => ?_) _ _)) (.foldl (fun st T => ?_) _ _)
  · exact verifyTile_onlyTraffic st _ _ _
  · exact putHome_onlyTraffic st _ _ _ _ _
  · exact .ite (mscWrite_onlyTraffic st _ _ _ _) (sealNow_onlyTraffic st _ _)

theorem unitPut_onlyTraffic (s : State) (k : Kick) (m : Bool) (va : Nat) (bs : List Byte) : OnlyTraffic s (unitPut s k m va bs) := by
  unfold unitPut
  dsimp only
  refine OnlyTraffic.trans ?_ (unitStore_onlyTraffic _ k m _)
  split
  · exact postRec_onlyTraffic s _ _ _
  · exact .refl s

/-! ### Object entries (R137, R145) -/

theorem objEntry_onlyTraffic (s : State) (t idx : Nat) : OnlyTraffic s (objEntry s t idx).1 := by
  unfold objEntry
  dsimp only
  split
  · exact .fst_ite (.refl s) (.fst_ite (.pair (bump_onlyTraffic s) _) (.pair (bump_onlyTraffic s) _))
  · split
    · exact .pair (modMem_onlyTraffic s _) _
    · exact .refl s

end Sys2Proof.Machine
end

section
/-! SUPPORT. What the submission of a kick leaves: its status, and the number of the next kick (R335). -/
namespace Sys2Proof.Machine
open Sys2Proof.Claim

/-! ### What the checks of a submission read -/

theorem readTables_onlyTraffic (s : State) (rs : List (Nat × Nat)) : OnlyTraffic s (readTables s rs) := by
  unfold readTables
  exact .foldl (fun st f => .ite (.refl st) (walkThrough_onlyTraffic st _ _)) _ s

theorem writableObj_onlyTraffic (s : State) (idx n : Nat) : OnlyTraffic s (writableObj s idx n).1 := by
  have read := objEntry_onlyTraffic s s.me.tenant idx
  unfold writableObj
  refine .fst_ite (.refl s) ?_
  split
  next e => exact .pair (read.of_answer e) _
  next e => exact .pair (read.of_answer e) _

theorem kickPattern_onlyTraffic (s : State) (k : Kern) (n add : Nat) : OnlyTraffic s (kickPattern s k n add).1 := by
  unfold kickPattern
  refine .fst_ite (.refl s) ?_
  split
  · exact .refl s
  next bs _ =>
    split
    next d0 zero _ =>
    extract_lets d1 d
    have read := objEntry_onlyTraffic s s.me.tenant d.obj
    refine .fst_ite (.refl s) ?_
    split
    next e => exact .pair (read.of_answer e) _
    next e => exact .fst_ite (.pair (read.of_answer e) _) (.pair (read.of_answer e) _)

theorem kickPatterns_onlyTraffic (s : State) (k : Kern) (args : List Byte) : OnlyTraffic s (kickPatterns s k args).1 := by
  unfold kickPatterns
  refine .fst_ite (.refl s) (.foldl_of (β := State × List (Option Pattern) × Bool) Prod.fst (fun acc j => ?_) _ (s, [], true))
  obtain ⟨s0, l, ok⟩ := acc
  exact .fst_ite (.refl s0) (.fst_ite (.refl s0) (.pair (kickPattern_onlyTraffic s0 k _ _) _))

/-! ### A kick accepted -/

@[simp] theorem focusNd_nextKick (s : State) (m : Bool) (u : Nat) : (focusNd s m u).nextKick = s.nextKick := by
  unfold focusNd; split <;> rfl
@[simp] theorem modNd_nextKick (s : State) (m : Bool) (u : Nat) (f : NdUnit → NdUnit) : (modNd s m u f).nextKick = s.nextKick :=
  focusNd_nextKick s m u

/-- A kick accepted takes the next number. -/
theorem acceptKick_nextKick (s : State) (k : Kick) (u : Nat) : (acceptKick s k u).nextKick = s.nextKick + 1 := by
  have written : ∀ l : List Nat, OnlyTraffic s (unitPut (l.foldl writeBack s) k k.desc.tierM k.mboxVa (List.replicate 64 0)) := fun l =>
    (OnlyTraffic.foldl writeBack_onlyTraffic l s).trans (unitPut_onlyTraffic _ _ _ _ _)
  exact congrArg (· + 1) ((modNd_nextKick _ _ _ _).trans (written _).nextKick)

/-! ### The status (R335) -/

/-- The status of a submission, and the number of the next kick it leaves: a malformed descriptor is answered with 2, or with 1 where its
unit's queue is full; 0 tells of a kick of a slot that took the next number. -/
def StatusOf (s : State) (desc : List Byte) (slot : Option MSlot) (r : State × Nat) : Prop :=
  (parseKick desc = none → r.2 = 1 ∨ r.2 = 2) ∧ (r.2 = 0 → slot ≠ none ∧ r.1.nextKick = s.nextKick + 1)

/-- A refusal with 1 or 2 needs no descriptor in order. -/
theorem statusOf_early {s t : State} {desc : List Byte} {slot : Option MSlot} {n : Nat} (h : n = 1 ∨ n = 2) :
    StatusOf s desc slot (t, n) := ⟨fun _ => h, fun z => by dsimp only at z; omega⟩
/-- A refusal of a descriptor in order. -/
theorem statusOf_refused {s t : State} {desc : List Byte} {slot : Option MSlot} {d : KickDesc} {n : Nat} (p : parseKick desc = some d)
    (h : n ≠ 0) : StatusOf s desc slot (t, n) := ⟨fun e => absurd (p.symm.trans e) (Option.some_ne_none d), fun z => absurd z h⟩
theorem statusOf_ite {c : Prop} [Decidable c] {s : State} {desc : List Byte} {slot : Option MSlot} {x y : State × Nat}
    (hx : StatusOf s desc slot x) (hy : StatusOf s desc slot y) : StatusOf s desc slot (if c then x else y) := by
  split
  · exact hx
  · exact hy

/-- The checks of a submission one by one, in the order of R335: each refuses with its status, and past the last the kick is accepted. -/
theorem submitKick_status (s : State) (desc args : List Byte) (slot : Option MSlot) (kern : Option Kern) :
    StatusOf s desc slot (submitKick s desc args slot kern) := by
  unfold submitKick
  extract_lets named needs
  split
  next s1 ps wellFormed e1 =>
  have patterns : OnlyTraffic s s1 := by
    cases kern with
    | none => cases e1; exact .refl s
    | some k => exact (kickPatterns_onlyTraffic s k args).of_answer e1
  extract_lets p0 unit full
  refine statusOf_ite (statusOf_early (.inl rfl)) ?_
  split
  · exact statusOf_early (.inr rfl)
  next d parsed =>
  split
  next s2 mb e2 =>
  have mailbox : OnlyTraffic s s2 := patterns.trans ((writableObj_onlyTraffic s1 d.mbox 64).of_answer e2)
  split
  next s3 cr e3 =>
  have record : OnlyTraffic s s3 :=
    mailbox.trans ((OnlyTraffic.fst_ite (.refl s2) (writableObj_onlyTraffic s2 d.crec 512)).of_answer e3)
  extract_lets map mapOk
  split
  · refine statusOf_ite (statusOf_early (.inr rfl)) (statusOf_ite (statusOf_refused parsed (by decide)) ?_)
    split
    · exact statusOf_refused parsed (by decide)
    extract_lets cost
    split
    · exact statusOf_refused parsed (by decide)
    next charged e4 =>
    have quota : OnlyTraffic s charged := record.trans (by
      split at e4
      · cases e4; exact .refl s3
      · exact chargeFor_onlyTraffic e4)
    extract_lets s4
    have tables : s4.nextKick = s.nextKick := (quota.trans (readTables_onlyTraffic charged _)).nextKick
    split
    · exact ⟨fun e => absurd (parsed.symm.trans e) (Option.some_ne_none d),
        fun _ => ⟨Option.some_ne_none _, (acceptKick_nextKick _ _ _).trans (by rw [tables])⟩⟩
    · exact statusOf_refused parsed (by decide)
  · exact statusOf_early (.inr rfl)

/-! ### The instruction -/

/-- A kick whose image may kick, whose descriptor and arguments are read, and which waits for no release. -/
structure KickRead (c : Ctl) (b : BitVec 5) (s m u v : State) (desc args : List Byte) : Prop where
  issues : Issues c s
  unpaired : s.me.paired = false
  may : mayKick (start c s) = (m, true)
  aligned : (getG (reader c s) b).toNat % 32 = 0
  descRead : sysRead m (getG (reader c s) b).toNat 32 = (u, some (.ok desc))
  argsRead : kickArgs u desc = (v, some (.ok args))
  released : releasePending v 65535 = false

/-- The end of a kick that submits: the status of the submission to gA. -/
def givesStatus (a : BitVec 5) (r : State × Nat) : SeqRes := .done (setVariable r.1 (.g a) (BitVec.ofNat 64 r.2)) 1

/-- The end of a kick whose descriptor and arguments are read (R87, R132). -/
def kickEnd (a : BitVec 5) (v : State) (desc args : List Byte) : SeqRes :=
  match kickSlot v desc with
  | none => givesStatus a (submitKick v desc args none none)
  | some slot =>
    match objEntry v v.me.tenant slot.kobj with
    | (w, none) => .fault w { code := .rights, va := 0 }
    | (w, some e) =>
      if !(Obj.usable e && useOk e .kick) then .trap w { code := .rights, va := 0 } { obj := slot.kobj }
      else givesStatus a (submitKick w desc args (some slot) ((kernHeader w w.me.tenant slot.kobj e).map (·.1)))

theorem exec_kick_read {c : Ctl} {b : BitVec 5} {s m u v : State} {desc args : List Byte} (h : KickRead c b s m u v desc args)
    (a : BitVec 5) : exec (.kick c a b) s = .next (settleRes c (kickEnd a v desc args)) := by
  have unpaired : ¬ s.me.paired = true := by simp [h.unpaired]
  have aligned : ¬ (getG (reader c s) b).toNat % 32 ≠ 0 := not_not_intro h.aligned
  change execKick c a b s = _
  rw [execKick, if_neg unpaired, seqInstr_issues h.issues]
  dsimp only
  rw [h.may, show getG (start c s).me b = getG (reader c s) b from rfl]
  dsimp only
  rw [if_neg (by decide), if_neg aligned, h.descRead]
  dsimp only
  rw [h.argsRead]
  dsimp only
  rw [h.released, if_neg Bool.false_ne_true]
  rfl

theorem kickEnd_slot {a : BitVec 5} {v w : State} {desc args : List Byte} {slot : MSlot} {e : BitVec 256}
    (found : kickSlot v desc = some slot) (entry : objEntry v v.me.tenant slot.kobj = (w, some e)) (usable : Obj.usable e = true)
    (right : useOk e .kick = true) :
    kickEnd a v desc args = givesStatus a (submitKick w desc args (some slot) ((kernHeader w w.me.tenant slot.kobj e).map (·.1))) := by
  simp only [kickEnd, found, entry, usable, right, Bool.and_self, Bool.not_true, Bool.false_eq_true, if_false]

theorem kickEnd_slotless {a : BitVec 5} {v : State} {desc args : List Byte} (none_found : kickSlot v desc = none) :
    kickEnd a v desc args = givesStatus a (submitKick v desc args none none) := by
  simp only [kickEnd, none_found]

/-- Where the status goes to gA, the instruction gives it and ends, and the number of the next kick stays the submission's. -/
theorem settleRes_givesStatus (c : Ctl) {a : BitVec 5} {r : State × Nat} (h : NonePending a r.1.me) :
    let t := settleRes c (givesStatus a r)
    GivesG c a (BitVec.ofNat 64 r.2) r.1.me t.me ∧ Ended c 1 r.1.me t.me ∧ t.nextKick = r.1.nextKick := by
  obtain ⟨gives, ended⟩ := settleRes_setVariable c (BitVec.ofNat 64 r.2) 1 h
  refine ⟨gives, ended, ?_⟩
  unfold givesStatus
  rw [settleRes_setVariable_only c _ 1 h]

/-- R87, R132, R335: the submission's status for a slot and for none. -/
theorem kickAnswers : Claim.KickAnswers := by
  intro c a b s m u v desc args issues unpaired may aligned descRead argsRead released
  have runs := exec_kick_read ⟨issues, unpaired, may, aligned, descRead, argsRead, released⟩ a
  constructor
  · rintro slot w e r found entry usable right rfl nonePending
    obtain ⟨gives, ended, next⟩ := settleRes_givesStatus c nonePending
    rw [kickEnd_slot found entry usable right] at runs
    exact ⟨_, runs, gives, ended, fun zero => next.trans ((submitKick_status w desc args _ _).2 zero).2⟩
  · rintro r none_found rfl nonePending
    obtain ⟨malformed, accepted⟩ := submitKick_status v desc args none none
    obtain ⟨gives, ended, -⟩ := settleRes_givesStatus c nonePending
    rw [kickEnd_slotless none_found] at runs
    exact ⟨_, runs, gives, ended, fun zero => (accepted zero).1 rfl, malformed⟩

/-- Settles O14: `spawn` and `kick`, each by what its read state leaves to the end of the instruction. -/
theorem workIsSent : Obligations.WorkIsSent := ⟨spawnQueues, kickAnswers⟩

end Sys2Proof.Machine
end
